-- ==== Sys2Proof/Word.lean ====
section
/-! DEFINITION. The word types: the byte of the links (R188) and the 32-bit millisecond timebase (R71). -/

namespace Sys2Proof

/-- A byte of a frame (R188). -/
abbrev Byte := BitVec 8

/-- A value of the 32-bit millisecond timebase (R71). -/
abbrev Time := BitVec 32

end Sys2Proof
end

