-- ==== Sys2Proof/Syntax.lean ====
section
/-! DEFINITION. The commands the block takes, one constructor for each row of spec/opcode_table.json, and the
names they are stated over: stations, arms, zones, actuator groups, capture channels and switch inputs. -/

namespace Sys2Proof

/-- The three stations, one for each link (R2). -/
inductive Station where
  | a | b | c
deriving DecidableEq, Repr

/-- The three brush arms, left, right and centre (00_scope 3.3). -/
inductive Arm where
  | l | r | c
deriving DecidableEq, Repr

/-- The four spray zones (R134). -/
inductive Zone where
  | l | r | c | mouth
deriving DecidableEq, Repr

/-- The seven actuator groups, in claim table order (R25, R28). -/
inductive Group where
  | travel | armL | armR | armC | spray | profile | account
deriving DecidableEq, Repr

/-- The five capture channels (R73). -/
inductive Channel where
  | wheel
  | brush (arm : Arm)
  | flow
deriving DecidableEq, Repr

/-- The thirteen switch inputs (R80). -/
inductive Switch where
  | up (arm : Arm)
  | down (arm : Arm)
  | contact (arm : Arm)
  | full | low | frost | seat
deriving DecidableEq, Repr

/-- The commands of the block: one constructor for each row of spec/opcode_table.json.
A request carries the link its frame ends on, its tag and its parameter bytes; the frame is whole and its check
byte good (R6), the code is that of its row (R188). -/
inductive Instr where
  /-- POWER_ON_RESET (R186). -/
  | powerOnReset
  /-- LINE_RESET (R83). -/
  | lineReset
  /-- RESET_LINE_RELEASED (R83). -/
  | resetLineReleased
  /-- CRYSTAL_SETTLED (R69). -/
  | crystalSettled
  /-- PLL_LOCKED (R69). -/
  | pllLocked
  /-- PLL_LOCK_TIMEOUT (R69). -/
  | pllLockTimeout
  /-- CLOCK_MONITOR_INTERVAL (R70). -/
  | clockMonitorInterval (cycles : Nat)
  /-- TIMEBASE_TICK (R71). -/
  | timebaseTick
  /-- CHIP_SELECT_FALL (R4). -/
  | chipSelectFall (link : Station)
  /-- DISREGARD_END (R3). -/
  | disregardEnd (link : Station)
  /-- EMPTY_TRANSACTION (R6). -/
  | emptyTransaction (link : Station)
  /-- BAD_FRAME (R6). -/
  | badFrame (link : Station) (bytes : List Byte)
  /-- UNKNOWN_REQUEST (R7). -/
  | unknownRequest (link : Station) (code tag : Byte) (params : List Byte)
  /-- NOP (R15). -/
  | nop (link : Station) (tag : Byte) (params : List Byte)
  /-- IDENTIFY (R16). -/
  | identify (link : Station) (tag : Byte) (params : List Byte)
  /-- REPORT_IN (R18). -/
  | reportIn (link : Station) (tag : Byte) (params : List Byte)
  /-- KEEP_PREPARE (R20). -/
  | keepPrepare (link : Station) (tag : Byte) (params : List Byte)
  /-- KEEP_COMMIT (R22). -/
  | keepCommit (link : Station) (tag : Byte) (params : List Byte)
  /-- REPORT_OUT (R23). -/
  | reportOut (link : Station) (tag : Byte) (params : List Byte)
  /-- WINDOW_COUNTER_EXPIRY (R24). -/
  | windowCounterExpiry (st : Station)
  /-- CLAIM_TRY (R31). -/
  | claimTry (link : Station) (tag : Byte) (params : List Byte)
  /-- CLAIM_WAIT (R32). -/
  | claimWait (link : Station) (tag : Byte) (params : List Byte)
  /-- RELEASE (R33). -/
  | release (link : Station) (tag : Byte) (params : List Byte)
  /-- YIELD (R34). -/
  | yield (link : Station) (tag : Byte) (params : List Byte)
  /-- OVERRIDE (R35). -/
  | override (link : Station) (tag : Byte) (params : List Byte)
  /-- WITHDRAW_WAIT (R36). -/
  | withdrawWait (link : Station) (tag : Byte) (params : List Byte)
  /-- READ_CLAIM (R37). -/
  | readClaim (link : Station) (tag : Byte) (params : List Byte)
  /-- OPEN_DRAFT (R47). -/
  | openDraft (link : Station) (tag : Byte) (params : List Byte)
  /-- WRITE_DRAFT (R48). -/
  | writeDraft (link : Station) (tag : Byte) (params : List Byte)
  /-- SET_POINTS (R49). -/
  | setPoints (link : Station) (tag : Byte) (params : List Byte)
  /-- COMMIT_DRAFT (R51). -/
  | commitDraft (link : Station) (tag : Byte) (params : List Byte)
  /-- DISCARD_DRAFT (R52). -/
  | discardDraft (link : Station) (tag : Byte) (params : List Byte)
  /-- ERASE_PROFILE (R53). -/
  | eraseProfile (link : Station) (tag : Byte) (params : List Byte)
  /-- READ_PROFILE (R54). -/
  | readProfile (link : Station) (tag : Byte) (params : List Byte)
  /-- SELECT_PROFILE (R57). -/
  | selectProfile (link : Station) (tag : Byte) (params : List Byte)
  /-- ABORT_CHANGEOVER (R62). -/
  | abortChangeover (link : Station) (tag : Byte) (params : List Byte)
  /-- READ_CHANGEOVER (R68). -/
  | readChangeover (link : Station) (tag : Byte) (params : List Byte)
  /-- CAPTURE_PULSE (R74). -/
  | capturePulse (ch : Channel) (phaseBHigh : Bool)
  /-- GATE_EXPIRY (R75). -/
  | gateExpiry (ch : Channel)
  /-- RAW_LEVEL_CHANGE (R80). -/
  | rawLevelChange (input : Switch) (asserted : Bool)
  /-- DEBOUNCE_EXPIRY (R80). -/
  | debounceExpiry (input : Switch)
  /-- RELEASE_PARK (R88). -/
  | releasePark (link : Station) (tag : Byte) (params : List Byte)
  /-- APPLY_PARK (R89). -/
  | applyPark (link : Station) (tag : Byte) (params : List Byte)
  /-- SET_TRAVEL (R90). -/
  | setTravel (link : Station) (tag : Byte) (params : List Byte)
  /-- ENGINE_REPORT (R154). -/
  | engineReport (link : Station) (tag : Byte) (params : List Byte)
  /-- CLEAR_CAP (R104). -/
  | clearCap (link : Station) (tag : Byte) (params : List Byte)
  /-- READ_TRAVEL (R109). -/
  | readTravel (link : Station) (tag : Byte) (params : List Byte)
  /-- RAMP_TIMER_EXPIRY (R91). -/
  | rampTimerExpiry
  /-- FLOW_CEILING_RELEASE_EXPIRY (R101). -/
  | flowCeilingReleaseExpiry
  /-- OVERSPEED_TIMER_EXPIRY (R107). -/
  | overspeedTimerExpiry
  /-- ARM_LOWER (R114). -/
  | armLower (link : Station) (tag : Byte) (params : List Byte)
  /-- ARM_RAISE (R115). -/
  | armRaise (link : Station) (tag : Byte) (params : List Byte)
  /-- ARM_HALT (R116). -/
  | armHalt (link : Station) (tag : Byte) (params : List Byte)
  /-- ARM_CLEAR_FAULT (R117). -/
  | armClearFault (link : Station) (tag : Byte) (params : List Byte)
  /-- READ_ARM (R133). -/
  | readArm (link : Station) (tag : Byte) (params : List Byte)
  /-- MOTION_TIMER_EXPIRY (R123). -/
  | motionTimerExpiry (arm : Arm)
  /-- SETTLE_TIMER_EXPIRY (R128). -/
  | settleTimerExpiry (arm : Arm)
  /-- PINNED_TIMER_EXPIRY (R129). -/
  | pinnedTimerExpiry (arm : Arm)
  /-- STALL_TIMER_EXPIRY (R132). -/
  | stallTimerExpiry (arm : Arm)
  /-- ZONE_OVERRIDE (R141). -/
  | zoneOverride (link : Station) (tag : Byte) (params : List Byte)
  /-- DWELL_TIMER_EXPIRY (R139). -/
  | dwellTimerExpiry
  /-- DRY_RUN_TIMER_EXPIRY (R144). -/
  | dryRunTimerExpiry
  /-- REFILL (R149). -/
  | refill (link : Station) (tag : Byte) (params : List Byte)
  /-- READ_SPRAY (R151). -/
  | readSpray (link : Station) (tag : Byte) (params : List Byte)
  /-- READ_WATER (R152). -/
  | readWater (link : Station) (tag : Byte) (params : List Byte)
  /-- STALENESS_TIMER_EXPIRY (R155). -/
  | stalenessTimerExpiry
  /-- READ_FLOW (R164). -/
  | readFlow (link : Station) (tag : Byte) (params : List Byte)
  /-- READ_NOTICES (R169). -/
  | readNotices (link : Station) (tag : Byte) (params : List Byte)
  /-- ACK_FACTORS (R170). -/
  | ackFactors (link : Station) (tag : Byte) (params : List Byte)
  /-- SET_NOTICE_MASK (R171). -/
  | setNoticeMask (link : Station) (tag : Byte) (params : List Byte)
  /-- SET_MASTER_MASK (R171). -/
  | setMasterMask (link : Station) (tag : Byte) (params : List Byte)
  /-- BIND_REACTION (R174). -/
  | bindReaction (link : Station) (tag : Byte) (params : List Byte)
  /-- UNBIND_REACTION (R175). -/
  | unbindReaction (link : Station) (tag : Byte) (params : List Byte)
  /-- READ_REACTIONS (R175). -/
  | readReactions (link : Station) (tag : Byte) (params : List Byte)
  /-- COMMISSION_SET (R179). -/
  | commissionSet (link : Station) (tag : Byte) (params : List Byte)
  /-- COMMISSION_COMMIT (R180). -/
  | commissionCommit (link : Station) (tag : Byte) (params : List Byte)
  /-- READ_COMMISSION (R180). -/
  | readCommission (link : Station) (tag : Byte) (params : List Byte)
  /-- SAFE_STOP (R181). -/
  | safeStop (link : Station) (tag : Byte) (params : List Byte)
  /-- RESUME (R183). -/
  | resume (link : Station) (tag : Byte) (params : List Byte)
  /-- RESET_PART_IMMEDIATE (R184). -/
  | resetPartImmediate (link : Station) (tag : Byte) (params : List Byte)
  /-- RESET_PART_SETTLED (R184). -/
  | resetPartSettled (link : Station) (tag : Byte) (params : List Byte)
  /-- SETTLED_RESET_TIMER_EXPIRY (R185). -/
  | settledResetTimerExpiry
  /-- READ_RESET_CAUSE (R187). -/
  | readResetCause (link : Station) (tag : Byte) (params : List Byte)
deriving DecidableEq, Repr

end Sys2Proof
end

