-- ==== Sys2Proof/Decode.lean ====
section
/-! DEFINITION. The table gives no row any bits (the block has no encoded instructions), so no word spells a command. -/

namespace Sys2Proof

/-- The command that a word of the table's bits spells: no row gives bits (log entry 33). -/
def decodeTableWord (_nbits _w : Nat) : Option Instr := none

end Sys2Proof
end

