-- ==== Sys2Proof/Machine/State.lean ====
section
/-! DEFINITION. Everything the spec gives the part to hold, as plain data, and its value after a POWER_ON reset. -/

namespace Sys2Proof.Machine

/-! ## Indexed records -/

/-- One value for each station. -/
structure PerStation (α : Type) where
  a : α
  b : α
  c : α
deriving DecidableEq, Repr

/-- One value for each arm. -/
structure PerArm (α : Type) where
  l : α
  r : α
  c : α
deriving DecidableEq, Repr

/-- One value for each spray zone. -/
structure PerZone (α : Type) where
  l : α
  r : α
  c : α
  mouth : α
deriving DecidableEq, Repr

/-- One value for each actuator group. -/
structure PerGroup (α : Type) where
  travel : α
  armL : α
  armR : α
  armC : α
  spray : α
  profile : α
  account : α
deriving DecidableEq, Repr

def PerStation.all {α : Type} (x : α) : PerStation α := ⟨x, x, x⟩
def PerArm.all {α : Type} (x : α) : PerArm α := ⟨x, x, x⟩
def PerZone.all {α : Type} (x : α) : PerZone α := ⟨x, x, x, x⟩
def PerGroup.all {α : Type} (x : α) : PerGroup α := ⟨x, x, x, x, x, x, x⟩

def PerStation.get {α : Type} (p : PerStation α) : Station → α
  | .a => p.a | .b => p.b | .c => p.c
def PerArm.get {α : Type} (p : PerArm α) : Arm → α
  | .l => p.l | .r => p.r | .c => p.c
def PerZone.get {α : Type} (p : PerZone α) : Zone → α
  | .l => p.l | .r => p.r | .c => p.c | .mouth => p.mouth
def PerGroup.get {α : Type} (p : PerGroup α) : Group → α
  | .travel => p.travel | .armL => p.armL | .armR => p.armR | .armC => p.armC
  | .spray => p.spray | .profile => p.profile | .account => p.account

def PerStation.set {α : Type} (p : PerStation α) (i : Station) (x : α) : PerStation α :=
  match i with
  | .a => { p with a := x } | .b => { p with b := x } | .c => { p with c := x }
def PerArm.set {α : Type} (p : PerArm α) (i : Arm) (x : α) : PerArm α :=
  match i with
  | .l => { p with l := x } | .r => { p with r := x } | .c => { p with c := x }
def PerZone.set {α : Type} (p : PerZone α) (i : Zone) (x : α) : PerZone α :=
  match i with
  | .l => { p with l := x } | .r => { p with r := x } | .c => { p with c := x }
  | .mouth => { p with mouth := x }
def PerGroup.set {α : Type} (p : PerGroup α) (i : Group) (x : α) : PerGroup α :=
  match i with
  | .travel => { p with travel := x } | .armL => { p with armL := x }
  | .armR => { p with armR := x } | .armC => { p with armC := x }
  | .spray => { p with spray := x } | .profile => { p with profile := x }
  | .account => { p with account := x }

/-- A set of arms, of zones (R188). -/
abbrev ArmSet := PerArm Bool
abbrev ZoneSet := PerZone Bool

/-- A profile slot's number (R40) and a reaction entry's number (R173). -/
abbrev SlotNo := Fin 8
abbrev EntryNo := Fin 8

/-! ## Timers -/

/-- A reload down-counter of milliseconds (R72). A running timer whose count has reached 0 is due: its expiry is
the command that names it (log entry 2). -/
inductive Timer where
  | stopped
  | running (count : Nat)
  | paused (count : Nat)
deriving DecidableEq, Repr

/-! ## Attendance and claims -/

/-- Attendance states (R17). -/
inductive Standing where
  | absent | attending | lapsed
deriving DecidableEq, Repr

/-- The four attendance windows (R18). -/
inductive Window where
  | ms50 | ms100 | ms200 | ms500
deriving DecidableEq, Repr

/-- A station's attendance record (R17). -/
structure Attendance where
  state : Standing
  window : Option Window
  counter : Timer
  prepared : Bool
deriving DecidableEq, Repr

/-- A claim table entry (R28). -/
structure Claim where
  holder : Option Station
  takenAt : Time
  waiting : List Station
deriving DecidableEq, Repr

/-! ## Profiles and changeover -/

/-- A coupling point: speed in counts of 0.1 km/h, rotation target and spray duty in percent (R42). -/
structure Point where
  speed : Nat
  rotation : Nat
  spray : Nat
deriving DecidableEq, Repr

/-- A profile record (R42). A down-force level of 0 is an absent level (R46). -/
structure Profile where
  name : Nat
  ceiling : Nat
  arms : ArmSet
  levels : PerArm Nat
  zones : ZoneSet
  dwell : Nat
  reserve : Nat
  points : List Point
deriving DecidableEq, Repr

/-- The states of a slot that holds a record (R40). -/
inductive SlotUse where
  | ready | active | incoming | outgoing
deriving DecidableEq, Repr

/-- A profile slot (R40). -/
inductive Slot where
  | empty
  | held (use : SlotUse) (record : Profile)
deriving DecidableEq, Repr

/-- The draft's fields, as a verdict and WRITE_DRAFT name them (R48, R50). -/
inductive DraftField where
  | name | ceiling | armSet | force (arm : Arm) | zoneSet | dwell | reserve | points
deriving DecidableEq, Repr

/-- A failing field, with the point number for the coupling points, else 0 (R50). -/
structure Verdict where
  field : DraftField
  point : Nat
deriving DecidableEq, Repr

/-- A draft's down-force level: its value and its written mark (R46, R47). -/
structure DraftLevel where
  value : Nat
  written : Bool
deriving DecidableEq, Repr

/-- The open draft (R46). An unset field is `none`. -/
structure Draft where
  owner : Station
  origin : SlotNo
  name : Option Nat
  ceiling : Option Nat
  arms : Option ArmSet
  levels : PerArm DraftLevel
  zones : Option ZoneSet
  dwell : Option Nat
  reserve : Option Nat
  points : Option (List Point)
  verdict : Option Verdict
deriving DecidableEq, Repr

/-- Changeover kinds (R55), in the rule's order. -/
inductive ChangeKind where
  | select | toTransport | reapply | abortReturn
deriving DecidableEq, Repr

/-- An arm's target (R110). -/
inductive ArmTarget where
  | stowed | down
deriving DecidableEq, Repr

/-- A pending arm's entry (R55). -/
structure PendingArm where
  target : ArmTarget
  overtaken : Bool
deriving DecidableEq, Repr

/-- The changeover record (R55). -/
structure Changeover where
  kind : ChangeKind
  fromSlot : Option SlotNo
  toSlot : Option SlotNo
  start : Time
  pending : PerArm (Option PendingArm)
  degraded : Bool
deriving DecidableEq, Repr

/-- The Profile Unit's state (R40, R46, R55). -/
structure Profiles where
  slots : Vector Slot 8
  draft : Option Draft
  changeover : Option Changeover
deriving DecidableEq, Repr

/-- The profile source of the effective ceiling as the Profile Unit hands it on (R44): the commissioned maximum is
named, not copied, so that the Travel Governor reads the item when it uses it (R87, log entry 24). -/
inductive ProfileLimit where
  | maximum
  | fixed (speed : Nat)
  | lowerOfMaximum (speed : Nat)
deriving DecidableEq, Repr

/-! ## Clock, capture and switches -/

/-- The clock selector (R69). -/
inductive ClockSource where
  | pll | internal
deriving DecidableEq, Repr

/-- The clock monitor's verdict (R69). -/
inductive ClockVerdict where
  | sound | lost
deriving DecidableEq, Repr

/-- Where the clock tree stands: held by the reset line, crystal settling, PLL locking, or past STARTING (R69, R83). -/
inductive ClockPhase where
  | held | settling | locking | running
deriving DecidableEq, Repr

/-- The clock tree (R69, R70) and the level of the reset line (R83). -/
structure Clock where
  selector : ClockSource
  verdict : ClockVerdict
  phase : ClockPhase
  resetLineAsserted : Bool
  lastCycles : Nat
deriving DecidableEq, Repr

/-- A capture channel (R74): its counter, its window of four gate counts (oldest first), interval and gate timer. -/
structure CaptureChannel where
  counter : Nat
  oldest : Nat
  older : Nat
  newer : Nat
  newest : Nat
  interval : Nat
  timer : Timer
deriving DecidableEq, Repr

/-- The direction of the last WHEEL pulse (R74). -/
inductive Direction where
  | forward | reverse
deriving DecidableEq, Repr

/-- The capture channels and their published values (R74, R76, R78, R79): wheel speed in signed counts of
0.1 km/h, brush speeds in rev/min, water flow in counts of 0.1 L/min. -/
structure Capture where
  wheel : CaptureChannel
  brush : PerArm CaptureChannel
  flow : CaptureChannel
  direction : Direction
  wheelSpeed : Int
  brushSpeed : PerArm Nat
  waterFlow : Nat
deriving DecidableEq, Repr

/-- A switch input: its raw level, its debounced level and its debounce counter (R80). -/
structure SwitchInput where
  raw : Bool
  level : Bool
  counter : Timer
deriving DecidableEq, Repr

/-- The thirteen switch inputs (R80). -/
structure Switches where
  up : PerArm SwitchInput
  down : PerArm SwitchInput
  contact : PerArm SwitchInput
  full : SwitchInput
  low : SwitchInput
  frost : SwitchInput
  seat : SwitchInput
deriving DecidableEq, Repr

/-! ## Travel Governor -/

/-- TG states (R86), in the rule's order. -/
inductive TravelState where
  | parked | hold | drive | stopping
deriving DecidableEq, Repr

/-- The TG's stop causes (R86). -/
structure StopCauses where
  holderGone : Bool
  stopTravel : Bool
  safeStop : Bool
  resetPending : Bool
deriving DecidableEq, Repr

/-- The sources of the effective ceiling, in the order of R99. -/
inductive CeilingSource where
  | cap | dry | flow | armMotion | maximum | profile
deriving DecidableEq, Repr

/-- The TG's record (R86) and its copies (R87). Demand and speeds are signed counts of 0.1 km/h, the setpoint
signed steps of 0.001 km/h, the trim signed hundredths of a point. -/
structure Travel where
  state : TravelState
  demand : Int
  setpoint : Int
  trim : Int
  causes : StopCauses
  ceiling : Nat
  limiting : CeilingSource
  reverseOpen : Bool
  flowCeiling : Option Nat
  caps : Vector (Option Nat) 8
  rampTimer : Timer
  overspeedTimer : Timer
  overspeedExpired : Bool
  releaseTimer : Timer
  forward : Nat
  reverse : Nat
  brakeDriven : Bool
  wheelSpeed : Int
  armStowed : ArmSet
  armMoving : ArmSet
  profileLimit : ProfileLimit
  zonesEmpty : Bool
  waterEmpty : Bool
  shortFlag : Bool
  offer : Option Nat
  seat : Bool
  safeStop : Bool
  resetPending : Bool
  committed : Bool
deriving DecidableEq, Repr

/-! ## Brush arms -/

/-- Arm states, in the order of R110. -/
inductive ArmState where
  | stowed | lowering | working | deflected | raising | halted | fault
deriving DecidableEq, Repr

/-- Sub-conditions of LOWERING and RAISING (R110). -/
inductive ArmSub where
  | none | awaitingSpeed | awaitingFlow | moving
deriving DecidableEq, Repr

/-- Motion origins, in the order of R110. -/
inductive Origin where
  | command | changeover | stowOrder | pinned | reaction | none
deriving DecidableEq, Repr

/-- Fault causes, in the order of R110. -/
inductive FaultCause where
  | none | lowerTimeout | raiseTimeout | switchConflict
deriving DecidableEq, Repr

/-- An Arm Unit's record, its copies (R110) and its commanded outputs (R111). -/
structure ArmUnit where
  state : ArmState
  sub : ArmSub
  target : ArmTarget
  origin : Origin
  fault : FaultCause
  motionTimer : Timer
  settleTimer : Timer
  pinnedTimer : Timer
  stallTimer : Timer
  stallExpired : Bool
  rotTarget : Nat
  liftPosted : Bool
  rotDemand : Nat
  liftGrant : Nat
  rotGrant : Nat
  reaction : Option EntryNo
  wheelSpeed : Int
  brushSpeed : Nat
  up : Bool
  down : Bool
  contact : Bool
  inSet : Bool
  level : Nat
  points : List Point
  liftDownOpen : Bool
  liftUpOpen : Bool
  force : Nat
  rot : Nat
deriving DecidableEq, Repr

/-! ## Spray Unit, Water Account, Flow Arbiter -/

/-- The inhibiting causes, in the order of R136. -/
inductive Inhibit where
  | frost | empty | safeStop | forced
deriving DecidableEq, Repr

/-- The suspending causes (R134). -/
inductive Suspend where
  | dwell | deflected
deriving DecidableEq, Repr

/-- Zone states (R134). -/
inductive ZoneState where
  | off
  | on
  | suspended (cause : Suspend)
  | inhibited (cause : Inhibit)
deriving DecidableEq, Repr

/-- The dwell condition (R134). -/
inductive Dwell where
  | moving | dwelling | standing
deriving DecidableEq, Repr

/-- The water state (R145). -/
inductive WaterState where
  | ample | reserve | empty
deriving DecidableEq, Repr

/-- The Spray Unit's record (R134) and its copies (R135). -/
structure Spray where
  zones : PerZone ZoneState
  forcedOff : PerZone Bool
  duty : PerZone Nat
  dwell : Dwell
  dwellTimer : Timer
  pumpDuty : Nat
  pumpDemand : Nat
  pumpGrant : Nat
  dryRunTimer : Timer
  valves : PerZone Bool
  pumpOut : Nat
  wheelSpeed : Int
  armState : PerArm ArmState
  zoneSet : ZoneSet
  points : List Point
  dwellDelay : Nat
  reserve : Nat
  waterState : WaterState
  frost : Bool
  safeStop : Bool
deriving DecidableEq, Repr

/-- The Water Account's record and copies (R145). -/
structure Water where
  estimate : Nat
  pulses : Nat
  state : WaterState
  dryLatch : Bool
  dispensed : Nat
  swept : Nat
  sweptPulses : Nat
  armDown : ArmSet
  low : Bool
  full : Bool
deriving DecidableEq, Repr

/-- The staleness mark (R153). -/
inductive Staleness where
  | fresh | stale
deriving DecidableEq, Repr

/-- The Flow Arbiter's capacity record, consumers, lift lists and short flags (R153, R156, R158, R162). -/
structure Flow where
  capacity : Nat
  mark : Staleness
  lastEngine : Option Nat
  timer : Timer
  liftDemand : PerArm Nat
  rotDemand : PerArm Nat
  pumpDemand : Nat
  liftGrant : PerArm Nat
  rotGrant : PerArm Nat
  pumpGrant : Nat
  queue : List Arm
  granted : List Arm
  short3 : Bool
  short2 : Bool
  short1 : Bool
  lastOffer : Option Nat
deriving DecidableEq, Repr

/-! ## Supervision -/

/-- Part modes (R178). -/
inductive Mode where
  | starting | commissioning | operational
deriving DecidableEq, Repr

/-- The causes of safe stop, in the order of R181. -/
inductive SafeCause where
  | request | operator | noStation | clockFault
deriving DecidableEq, Repr

/-- A set of safe stop causes (R181). -/
structure SafeCauses where
  request : Bool
  operator : Bool
  noStation : Bool
  clockFault : Bool
deriving DecidableEq, Repr

/-- A reset-cause record (R187). -/
structure ResetCauses where
  powerOn : Bool
  line : Bool
  immediate : Bool
  settled : Bool
  settleTimeout : Bool
deriving DecidableEq, Repr

/-- The kinds of reset (R184 to R187); a settled reset may be marked SETTLE_TIMEOUT. -/
inductive ResetKind where
  | powerOn
  | line
  | immediate
  | settled (timeout : Bool)
deriving DecidableEq, Repr

/-- The Supervision Unit's state (R178, R179, R181, R184, R187). Item k stands at position k - 1; `armDone` is the
copy "STOWED or FAULT" of R112. -/
structure Supervision where
  mode : Mode
  items : Vector (Option Nat) 35
  committed : Bool
  safeStop : Bool
  causes : SafeCauses
  pendingReset : Option Station
  settledTimer : Timer
  resetCauses : PerStation ResetCauses
  armDone : ArmSet
deriving DecidableEq, Repr

/-! ## Factors, notices and reactions -/

/-- Why a station departs (R25). -/
inductive Departure where
  | left | expired
deriving DecidableEq, Repr

/-- Why a waiter receives a group (R30). -/
inductive Handover where
  | released | yielded | holderLeft | holderLapsed
deriving DecidableEq, Repr

/-- How a changeover came out (R67). -/
inductive ChangeOutcome where
  | completed | degraded | aborted
deriving DecidableEq, Repr

/-- What ended a changeover (R67). -/
inductive ChangeEnding where
  | arms | safeStop
deriving DecidableEq, Repr

/-- A factor with the detail its raising rule gives it: one constructor for each of the 24 factors (R166). -/
inductive Detail where
  /-- 0, R18: the window chosen and the state the station came from. -/
  | stationJoined (window : Window) (came : Standing)
  /-- 1, R26: LEFT or EXPIRED, and the window the station had chosen. -/
  | stationLapsed (why : Departure) (window : Option Window)
  /-- 2, R30. -/
  | claimGranted (why : Handover)
  /-- 3, R35: OVERRIDDEN. -/
  | claimLost
  /-- 4, R67. -/
  | changeoverDone (outcome : ChangeOutcome) (kind : ChangeKind) (ending : ChangeEnding) (degraded : Bool)
      (name : Nat)
  /-- 5, R119. -/
  | armSettled (reached : ArmState) (origin : Origin)
  /-- 6, R123. -/
  | armFault (cause : FaultCause) (came : ArmState) (origin : Origin)
  /-- 7, R127. -/
  | armDeflected (speed : Int) (rotTarget : Nat)
  /-- 8, R129. -/
  | armPinned (limit : Nat) (speed : Int)
  /-- 9, R132. -/
  | rotationStall (rotTarget brushSpeed grant : Nat)
  /-- 10, R107: the measured speed and the setpoint in counts of 0.1 km/h. -/
  | overspeed (speed setpoint : Int)
  /-- 11, R106: the demand and the arms not STOWED. -/
  | reverseBlocked (demand : Int) (notStowed : ArmSet)
  /-- 12, R100: the previous limiting source and the new value. -/
  | ceilingChanged (previous : CeilingSource) (value : Nat)
  /-- 13, R162: capacity, sum of demands, sum of grants, and for level 3 the number of queued lifts. -/
  | flowShort (capacity demands grants : Nat) (queued : Option Nat)
  /-- 14, R155: the last engine speed and the capacity before and after. -/
  | engineStale (lastEngine : Option Nat) (before after : Nat)
  /-- 15, R148. -/
  | waterLow (estimate : Nat) (low : Bool)
  /-- 16, R148. -/
  | waterEmpty (estimate : Nat) (latch : Bool)
  /-- 17, R148. -/
  | pumpDry (estimate : Nat)
  /-- 18, R143: the zones that were ON. -/
  | frost (zones : ZoneSet)
  /-- 19, R181: the causes after the event, and whether safe stop was already in force. -/
  | safeStopEntered (causes : SafeCauses) (already : Bool)
  /-- 20, R183: the causes it ended. -/
  | safeStopLeft (causes : SafeCauses)
  /-- 21, R181: the monitor's last cycle count. -/
  | clockFault (cycles : Nat)
  /-- 22, R30: no detail. -/
  | draftDiscarded
  /-- 23, R181: the measured speed and the TG state. -/
  | operatorAbsent (speed : Int) (tg : TravelState)
deriving DecidableEq, Repr

/-- A raise's subject (R166, R189). -/
inductive Subject where
  | none
  | station (st : Station)
  | group (g : Group)
  | slot (n : SlotNo)
  | arm (a : Arm)
  | source (c : CeilingSource)
  | level (n : Nat)
  | cause (c : SafeCause)
deriving DecidableEq, Repr

/-- Whom a raise is delivered to: every attending station but one, or one named station (R166). -/
inductive Audience where
  | every (skip : Option Station)
  | only (st : Station)
deriving DecidableEq, Repr

/-- A raise: subject, detail (with its factor), timestamp, and the stations its rule names (R166). -/
structure Raise where
  subject : Subject
  detail : Detail
  time : Time
  audience : Audience
deriving DecidableEq, Repr

/-- The outcomes of a reaction action, in the order of R189. -/
inductive ActionOutcome where
  | stowed | faulted | notCommissioned | superseded | halted | forcedOff | reached | cleared | unbound | stopped
deriving DecidableEq, Repr

/-- What the completion of a reaction adds to the notice: entry, outcome, zones changed (R177, R189). -/
structure Completion where
  entry : EntryNo
  outcome : ActionOutcome
  zones : ZoneSet
deriving DecidableEq, Repr

/-- A held record (R167): the last raise delivered, with its completion where it was a reacted one. -/
structure HeldRecord where
  subject : Subject
  detail : Detail
  time : Time
  reacted : Option Completion
deriving DecidableEq, Repr

/-- A notice (R167): the delivered record and the deferred mark. -/
structure Notice where
  record : HeldRecord
  deferred : Bool
deriving DecidableEq, Repr

/-- A station's factor state (R166 to R168): bit k of flags and masks, and entry k of held, stand for factor k. -/
structure StationNotices where
  flags : BitVec 24
  masks : BitVec 24
  held : Vector (Option HeldRecord) 24
  master : Bool
  queue : List Notice
  overflow : Bool
deriving DecidableEq, Repr

/-- A reaction's subject filter (R173). -/
inductive Filter where
  | any
  | arm (a : Arm)
  | level (n : Nat)
  | zone (z : Zone)
deriving DecidableEq, Repr

/-- A reaction's action with its operand (R173); no zone means ALL. -/
inductive Action where
  | raiseArm (a : Arm)
  | haltArm (a : Arm)
  | forceZoneOff (z : Option Zone)
  | capSpeed (speed : Nat)
  | stopTravel
deriving DecidableEq, Repr

/-- A BOUND (enabled) or DRAINING reaction entry (R173); it is in flight while it holds a raise. -/
structure Binding where
  factor : Fin 24
  filter : Filter
  action : Action
  installer : Station
  enabled : Bool
  held : Option Raise
deriving DecidableEq, Repr

/-! ## Responses and links -/

/-- Statuses, in the order of their codes (R188). -/
inductive Status where
  | none | ok | accepted | refusedBusy | refusedClaim | refusedRole | refusedState | badParam | badFrame
  | unknownRequest | notAttending | notCommissioned | fixed
deriving DecidableEq, Repr

/-- Refusal reasons, in the order of their codes (R188). -/
inductive Reason where
  | notParked | safeStop | resetPending | seat | moving | reaction | changeover | fault | uncommissionedItem
  | notFault | notAtRest | conflict | committed | notInSafeStop | clockFault | reverse
deriving DecidableEq, Repr

/-- A ceiling source as READ_TRAVEL shows it (R109). -/
structure SourceView where
  inForce : Bool
  value : Nat
deriving DecidableEq, Repr

/-- READ_TRAVEL's items (R109). -/
structure TravelView where
  state : TravelState
  causes : StopCauses
  demand : Int
  target : Int
  setpoint : Int
  trim : Int
  ceiling : Nat
  limiting : CeilingSource
  cap : SourceView
  capEntries : Vector Bool 8
  dry : SourceView
  flow : SourceView
  armMotion : SourceView
  maximum : SourceView
  profile : SourceView
  releaseTimer : Timer
  reverseCeiling : Nat
  overspeedTimer : Timer
  wheelSpeed : Int
  direction : Direction
  seat : Bool
  forward : Nat
  reverse : Nat
  brakeDriven : Bool
deriving DecidableEq, Repr

/-- READ_ARM's items (R133). -/
structure ArmView where
  state : ArmState
  sub : ArmSub
  target : ArmTarget
  origin : Origin
  fault : FaultCause
  motionTimer : Timer
  settleTimer : Timer
  pinnedTimer : Timer
  stallTimer : Timer
  rotTarget : Nat
  rotDemand : Nat
  rotGrant : Nat
  liftPosted : Bool
  liftGrant : Nat
  reaction : Option EntryNo
  level : Nat
  brushSpeed : Nat
  up : Bool
  down : Bool
  contact : Bool
  liftDownOpen : Bool
  liftUpOpen : Bool
  force : Nat
  rot : Nat
deriving DecidableEq, Repr

/-- READ_SPRAY's items (R151). -/
structure SprayView where
  zones : PerZone ZoneState
  forcedOff : PerZone Bool
  duty : PerZone Nat
  valves : PerZone Bool
  frost : Bool
  waterState : WaterState
  safeStop : Bool
  dwell : Dwell
  dwellTimer : Timer
  dwellDelay : Nat
  zoneSet : ZoneSet
  reserve : Nat
  pumpDuty : Nat
  pumpDemand : Nat
  pumpGrant : Nat
  pumpOut : Nat
  dryRunTimer : Timer
deriving DecidableEq, Repr

/-- READ_WATER's items (R152). -/
structure WaterView where
  estimate : Nat
  pulses : Nat
  state : WaterState
  dryLatch : Bool
  dispensed : Nat
  swept : Nat
  low : Bool
  full : Bool
  waterFlow : Nat
deriving DecidableEq, Repr

/-- READ_FLOW's items (R164): the Arbiter's record, and the flow ceiling as the TG holds it. -/
structure FlowView where
  flow : Flow
  flowCeiling : Option Nat
  releaseTimer : Timer
deriving DecidableEq, Repr

/-- READ_COMMISSION(STATUS)'s items (R180). -/
structure PartStatus where
  mode : Mode
  committed : Bool
  safeStop : Bool
  causes : SafeCauses
  pendingReset : Option Station
  settledTimer : Timer
  verdict : ClockVerdict
deriving DecidableEq, Repr

/-- A response's data, by its named items (00_scope 3.4). -/
inductive Payload where
  | none
  | reason (r : Reason)
  | identity
  | previousHolder (h : Option Station)
  | claim (c : Claim)
  | verdict (v : Verdict)
  | slot (s : Slot)
  | draft (d : Option Draft)
  | changeover (r : Changeover)
  | noChangeover (active : Option SlotNo)
  | travelSet (demand target : Int)
  | travel (v : TravelView)
  | arm (v : ArmView)
  | zone (z : ZoneState)
  | spray (v : SprayView)
  | refilled (estimate : Nat) (state : WaterState)
  | water (v : WaterView)
  | flow (v : FlowView)
  | notices (remaining : Nat) (overflow : Bool) (taken : List Notice)
  | reactions (table : Vector (Option Binding) 8)
  | failedCheck (check item : Nat)
  | item (value : Option Nat)
  | partStatus (v : PartStatus)
  | resetCauses (r : ResetCauses)
deriving DecidableEq, Repr

/-- A response (R11): status, echoed tag and code, data. -/
structure Response where
  status : Status
  tag : Byte
  code : Byte
  data : Payload
deriving DecidableEq, Repr

/-- Link states (R3). -/
inductive LinkState where
  | offline | idle | receiving | disregard
deriving DecidableEq, Repr

/-- A link's state (R2 to R5) and the level of its chip select pin. -/
structure Link where
  state : LinkState
  chipSelectLow : Bool
  rxFrame : List Byte
  rxCount : Nat
  outgoing : Option Response
  slot : Response
deriving DecidableEq, Repr

/-! ## The whole part -/

/-- What one event has still to do before it ends: the single reallocation of R157, the ceiling recomputation of
R99 and R100, arms whose lift demand is newly posted (R158), the demand of a REVERSE_BLOCKED still to be raised (R106),
the raises to deliver whose CAP_SPEED action completed at its hand-over (R103, R176), and a reset to take (R184, R185).
Clear between events; a field of the model, not of the spec. -/
structure Work where
  realloc : Bool
  ceiling : Bool
  ceilingRaised : Bool
  targeting : Bool
  newLifts : List Arm
  blocked : Option Int
  reached : List (EntryNo × Raise)
  reset : Option ResetKind
deriving DecidableEq, Repr

/-- The state of the part, with the queue of commands that wait and the counter of free values (log entry 7). -/
structure State where
  pending : List Instr
  time : Time
  clock : Clock
  links : PerStation Link
  attendance : PerStation Attendance
  claims : PerGroup Claim
  profile : Profiles
  capture : Capture
  switches : Switches
  travel : Travel
  arms : PerArm ArmUnit
  spray : Spray
  water : Water
  flow : Flow
  notices : PerStation StationNotices
  reactions : Vector (Option Binding) 8
  supervision : Supervision
  work : Work
  freeCount : Nat
deriving DecidableEq, Repr

/-- Reasons a step could stop with. The spec names no event that stops the part, so nothing raises one. -/
inductive Fault where
deriving DecidableEq, Repr

/-- Reasons for having no meaning for a command. -/
inductive Refusal where
  /-- A command whose meaning is not written; raised by `exec`'s arm of that command, and by none at present.
  Safe: the step answers no state. -/
  | notModelled (mnemonic : String)
deriving DecidableEq, Repr

/-! ## After a POWER_ON reset -/

def Attendance.reset : Attendance := ⟨.absent, none, .stopped, false⟩
def Claim.free : Claim := ⟨none, 0, []⟩

/-- R13: the NONE response. -/
def Response.none : Response := ⟨.none, 0, 0, .none⟩

/-- R13; the pin stands high (log entry 10). -/
def Link.reset : Link := ⟨.offline, false, [], 0, none, Response.none⟩

/-- R69, R85; the line is released and the last count 0 (log entry 10). -/
def Clock.reset : Clock := ⟨.pll, .sound, .settling, false, 0⟩

/-- R74, R85. -/
def CaptureChannel.reset (interval : Nat) : CaptureChannel := ⟨0, 0, 0, 0, 0, interval, .stopped⟩

/-- R85, with every interval at 100 ms. -/
def Capture.reset : Capture where
  wheel := CaptureChannel.reset 100
  brush := .all (CaptureChannel.reset 100)
  flow := CaptureChannel.reset 100
  direction := .forward
  wheelSpeed := 0
  brushSpeed := .all 0
  waterFlow := 0

/-- R80, R85; levels clear (log entry 10). -/
def SwitchInput.reset : SwitchInput := ⟨false, false, .stopped⟩
def Switches.reset : Switches where
  up := .all SwitchInput.reset
  down := .all SwitchInput.reset
  contact := .all SwitchInput.reset
  full := SwitchInput.reset
  low := SwitchInput.reset
  frost := SwitchInput.reset
  seat := SwitchInput.reset

def StopCauses.empty : StopCauses := ⟨false, false, false, false⟩

/-- R86, R87, R99. -/
def Travel.reset : Travel where
  state := .parked
  demand := 0
  setpoint := 0
  trim := 0
  causes := StopCauses.empty
  ceiling := 0
  limiting := .maximum
  reverseOpen := false
  flowCeiling := none
  caps := Vector.replicate 8 none
  rampTimer := .stopped
  overspeedTimer := .stopped
  overspeedExpired := false
  releaseTimer := .stopped
  forward := 0
  reverse := 0
  brakeDriven := false
  wheelSpeed := 0
  armStowed := .all false
  armMoving := .all false
  profileLimit := .maximum
  zonesEmpty := true
  waterEmpty := true
  shortFlag := false
  offer := none
  seat := false
  safeStop := false
  resetPending := false
  committed := false

/-- R110, R111, with the transport values of R44. -/
def ArmUnit.reset : ArmUnit where
  state := .halted
  sub := .none
  target := .stowed
  origin := .none
  fault := .none
  motionTimer := .stopped
  settleTimer := .stopped
  pinnedTimer := .stopped
  stallTimer := .stopped
  stallExpired := false
  rotTarget := 0
  liftPosted := false
  rotDemand := 0
  liftGrant := 0
  rotGrant := 0
  reaction := none
  wheelSpeed := 0
  brushSpeed := 0
  up := false
  down := false
  contact := false
  inSet := false
  level := 0
  points := []
  liftDownOpen := false
  liftUpOpen := false
  force := 0
  rot := 0

/-- R134, R135, with the transport values of R44. -/
def Spray.reset : Spray where
  zones := .all .off
  forcedOff := .all false
  duty := .all 0
  dwell := .standing
  dwellTimer := .stopped
  pumpDuty := 0
  pumpDemand := 0
  pumpGrant := 0
  dryRunTimer := .stopped
  valves := .all false
  pumpOut := 0
  wheelSpeed := 0
  armState := .all .halted
  zoneSet := .all false
  points := []
  dwellDelay := 0
  reserve := 100
  waterState := .empty
  frost := false
  safeStop := false

/-- R145. -/
def Water.reset : Water where
  estimate := 0
  pulses := 0
  state := .empty
  dryLatch := false
  dispensed := 0
  swept := 0
  sweptPulses := 0
  armDown := .all false
  low := false
  full := false

/-- R165, with the idle capacity unwritten. -/
def Flow.reset : Flow where
  capacity := 0
  mark := .stale
  lastEngine := none
  timer := .stopped
  liftDemand := .all 0
  rotDemand := .all 0
  pumpDemand := 0
  liftGrant := .all 0
  rotGrant := .all 0
  pumpGrant := 0
  queue := []
  granted := []
  short3 := false
  short2 := false
  short1 := false
  lastOffer := none

/-- R172. -/
def StationNotices.reset : StationNotices where
  flags := 0
  masks := BitVec.allOnes 24
  held := Vector.replicate 24 none
  master := false
  queue := []
  overflow := false

def SafeCauses.empty : SafeCauses := ⟨false, false, false, false⟩
def ResetCauses.empty : ResetCauses := ⟨false, false, false, false, false⟩

/-- R178, R186, R187. -/
def Supervision.reset : Supervision where
  mode := .starting
  items := Vector.replicate 35 none
  committed := false
  safeStop := false
  causes := SafeCauses.empty
  pendingReset := none
  settledTimer := .stopped
  resetCauses := .all { ResetCauses.empty with powerOn := true }
  armDone := .all false

def Work.clear : Work := ⟨false, false, false, false, [], none, [], none⟩

/-- R40, R46, R55 after POWER_ON. -/
def Profiles.reset : Profiles := ⟨Vector.replicate 8 .empty, none, none⟩

/-- The part right after a POWER_ON reset (R186), with no command waiting. -/
def State.reset : State where
  pending := []
  time := 0
  clock := Clock.reset
  links := .all Link.reset
  attendance := .all Attendance.reset
  claims := .all Claim.free
  profile := Profiles.reset
  capture := Capture.reset
  switches := Switches.reset
  travel := Travel.reset
  arms := .all ArmUnit.reset
  spray := Spray.reset
  water := Water.reset
  flow := Flow.reset
  notices := .all StationNotices.reset
  reactions := Vector.replicate 8 none
  supervision := Supervision.reset
  work := Work.clear
  freeCount := 0

end Sys2Proof.Machine
end

