-- ==== Sys2Proof/Config.lean ====
section
/-! DEFINITION. What the spec leaves without a value, as constants no file can evaluate: the free values of the model. -/

namespace Sys2Proof.Config

open Machine

/-- The data bytes of a response whose packing is not part of the document (00_scope 3.4): free (log entry 5). -/
opaque packing : Payload → List Byte

/-- The number fixed in each part at manufacture, as eight bytes (R16): free (log entry 9). -/
opaque unitSeed : BitVec 64

/-- The unit number: not all zeros (R16). -/
def unitNumber : BitVec 64 := if unitSeed = 0 then 1 else unitSeed

/-- A percentage whose commissioned divisor is unwritten, by its dividend (R95, R131, R140): free (log entry 6). -/
opaque quotientByZero : Nat → Nat

/-- The n-th choice among orders the spec allows (R158): free (log entry 7). -/
opaque postOrder : Nat → Nat

/-- The byte that READ_PROFILE shows for a down-force level above 255 of an arm outside the arm set (R42, R188):
free (log entry 8). -/
opaque levelByte : Nat → Byte

end Sys2Proof.Config
end

