-- ==== Sys2Proof/Machine/Ops.lean ====
section
/-! DEFINITION. The named operations over the state's blocks: one update for each block, timers, commissioned items,
sets, quotients, and the raise that every cascade is given. -/

namespace Sys2Proof

/-! ## Lists of names -/

def Station.list : List Station := [.a, .b, .c]
def Arm.list : List Arm := [.l, .r, .c]
def Zone.list : List Zone := [.l, .r, .c, .mouth]
/-- The claim table's order (R25). -/
def Group.list : List Group := [.travel, .armL, .armR, .armC, .spray, .profile, .account]

def Arm.number : Arm → Nat
  | .l => 0 | .r => 1 | .c => 2
def Zone.number : Zone → Nat
  | .l => 0 | .r => 1 | .c => 2 | .mouth => 3
def Station.number : Station → Nat
  | .a => 0 | .b => 1 | .c => 2
def Group.number : Group → Nat
  | .travel => 0 | .armL => 1 | .armR => 2 | .armC => 3 | .spray => 4 | .profile => 5 | .account => 6

/-- The arm group of an arm (R9). -/
def Arm.group : Arm → Group
  | .l => .armL | .r => .armR | .c => .armC

/-- The arm a zone lies beside; MOUTH has none (R134). -/
def Zone.arm : Zone → Option Arm
  | .l => some .l | .r => some .r | .c => some .c | .mouth => none

end Sys2Proof

namespace Sys2Proof.Machine

def entryList : List EntryNo := [0, 1, 2, 3, 4, 5, 6, 7]

/-! ## One update for each block -/

def State.modClock (s : State) (f : Clock → Clock) : State := { s with clock := f s.clock }
def State.modLinks (s : State) (f : PerStation Link → PerStation Link) : State := { s with links := f s.links }
def State.modAttendance (s : State) (f : PerStation Attendance → PerStation Attendance) : State := { s with attendance := f s.attendance }
def State.modClaims (s : State) (f : PerGroup Claim → PerGroup Claim) : State := { s with claims := f s.claims }
def State.modProfile (s : State) (f : Profiles → Profiles) : State := { s with profile := f s.profile }
def State.modCapture (s : State) (f : Capture → Capture) : State := { s with capture := f s.capture }
def State.modSwitches (s : State) (f : Switches → Switches) : State := { s with switches := f s.switches }
def State.modTravel (s : State) (f : Travel → Travel) : State := { s with travel := f s.travel }
def State.modArms (s : State) (f : PerArm ArmUnit → PerArm ArmUnit) : State := { s with arms := f s.arms }
def State.modSpray (s : State) (f : Spray → Spray) : State := { s with spray := f s.spray }
def State.modWater (s : State) (f : Water → Water) : State := { s with water := f s.water }
def State.modFlow (s : State) (f : Flow → Flow) : State := { s with flow := f s.flow }
def State.modNotices (s : State) (f : PerStation StationNotices → PerStation StationNotices) : State := { s with notices := f s.notices }
def State.modReactions (s : State) (f : Vector (Option Binding) 8 → Vector (Option Binding) 8) : State := { s with reactions := f s.reactions }
def State.modSupervision (s : State) (f : Supervision → Supervision) : State := { s with supervision := f s.supervision }
def State.modWork (s : State) (f : Work → Work) : State := { s with work := f s.work }
def State.modArm (s : State) (a : Arm) (f : ArmUnit → ArmUnit) : State :=
  s.modArms fun p => p.set a (f (p.get a))
def State.modLink (s : State) (l : Station) (f : Link → Link) : State :=
  s.modLinks fun p => p.set l (f (p.get l))
def State.modAttend (s : State) (st : Station) (f : Attendance → Attendance) : State :=
  s.modAttendance fun p => p.set st (f (p.get st))
def State.modClaim (s : State) (g : Group) (f : Claim → Claim) : State :=
  s.modClaims fun p => p.set g (f (p.get g))
def State.modStation (s : State) (st : Station) (f : StationNotices → StationNotices) : State :=
  s.modNotices fun p => p.set st (f (p.get st))

/-! ## Indexed records -/

def PerArm.map {α β : Type} (f : α → β) (p : PerArm α) : PerArm β := ⟨f p.l, f p.r, f p.c⟩
def PerZone.map {α β : Type} (f : α → β) (p : PerZone α) : PerZone β := ⟨f p.l, f p.r, f p.c, f p.mouth⟩
def PerStation.map {α β : Type} (f : α → β) (p : PerStation α) : PerStation β := ⟨f p.a, f p.b, f p.c⟩
def PerArm.of {α : Type} (f : Arm → α) : PerArm α := ⟨f .l, f .r, f .c⟩
def PerZone.of {α : Type} (f : Zone → α) : PerZone α := ⟨f .l, f .r, f .c, f .mouth⟩
def PerStation.of {α : Type} (f : Station → α) : PerStation α := ⟨f .a, f .b, f .c⟩
def PerArm.sum (p : PerArm Nat) : Nat := p.l + p.r + p.c
def PerArm.anySet (p : ArmSet) : Bool := p.l || p.r || p.c
def PerArm.allSet (p : ArmSet) : Bool := p.l && p.r && p.c
def PerZone.anySet (p : ZoneSet) : Bool := p.l || p.r || p.c || p.mouth

/-! ## Timers (R72) -/

def Timer.tick : Timer → Timer
  | .running (n + 1) => .running n
  | t => t

/-- A running timer whose count has reached 0 (log entry 2). -/
def Timer.due : Timer → Bool
  | .running 0 => true
  | _ => false

def Timer.isRunning : Timer → Bool
  | .running _ => true
  | _ => false

def Timer.pause : Timer → Timer
  | .running n => .paused n
  | t => t

/-! ## Commissioned items (R179) -/

/-- Item k, 1 to 35. -/
def Supervision.item (v : Supervision) (k : Nat) : Option Nat :=
  match k with
  | 0 => none
  | k + 1 => (v.items[k]?).getD none

def State.item? (s : State) (k : Nat) : Option Nat := s.supervision.item k

/-- An item, read as 0 while unwritten (R87, R153). -/
def State.item (s : State) (k : Nat) : Nat := (s.item? k).getD 0

/-- The commissioned lift demand of an arm, items 15 to 17. -/
def State.liftItem? (s : State) (a : Arm) : Option Nat := s.item? (15 + a.number)
def State.liftItem (s : State) (a : Arm) : Nat := s.item (15 + a.number)
/-- The commissioned weight of a zone, items 25 to 28. -/
def State.weight (s : State) (z : Zone) : Nat := s.item (25 + z.number)

/-! ## Arithmetic (R1) -/

/-- A quotient rounded up. -/
def ceilDiv (a b : Nat) : Nat := (a + (b - 1)) / b

/-- A percentage by a commissioned divisor, rounded down; with the divisor unwritten a free value, but nothing of
nothing is 0 (log entry 6). -/
def percentOf (a b : Nat) : Nat :=
  if a = 0 then 0 else if b = 0 then Config.quotientByZero a % 101 else a / b

def clampInt (lo hi v : Int) : Int := max lo (min hi v)

/-- A value in steps of 0.001 km/h as counts of 0.1 km/h, rounded toward zero (R86). -/
def toCounts (v : Int) : Int := v.tdiv 100

/-! ## Raising -/

/-- How a block's raise reaches the Notice Unit: the cascade's own argument, so that an action a raise starts can
raise in its turn (R176). -/
abbrev Raiser := Raise → State → State

/-- A raise of kind "every" (R166), stamped with the timebase (R71). -/
def State.raiseOf (s : State) (subject : Subject) (detail : Detail) : Raise :=
  ⟨subject, detail, s.time, .every none⟩

/-- Raises several factors in the order given. -/
def raiseAll (raise : Raiser) : List Raise → State → State
  | [], s => s
  | r :: rs, s => raiseAll raise rs (raise r s)

/-! ## Work left to the end of the event -/

/-- R157: one reallocation, after every change of the event. -/
def State.needRealloc (s : State) : State := s.modWork fun w => { w with realloc := true }

/-- R99, R100: one recomputation of the effective ceiling, when the event's changes are complete. -/
def State.needCeiling (s : State) : State := s.modWork fun w => { w with ceiling := true }

end Sys2Proof.Machine
end

