-- ==== Sys2Proof/Machine/Operands.lean ====
section
/-! DEFINITION. Every operand form of the links: parameter bytes, the check byte, the request catalogue with its
lengths, groups and roles, the codes of R188, and the bytes of responses and notices (R188, R189). -/

namespace Sys2Proof.Machine

/-! ## Parameter bytes (R188: most significant byte first) -/

def byteAt (ps : List Byte) (i : Nat) : Nat := (ps.getD i 0).toNat
def wordAt (ps : List Byte) (i : Nat) : Nat := byteAt ps i * 256 + byteAt ps (i + 1)

/-- A signed value of two bytes, in two's complement. -/
def signedAt (ps : List Byte) (i : Nat) : Int :=
  if wordAt ps i < 32768 then wordAt ps i else (wordAt ps i : Int) - 65536

/-- A set of factors: three bytes, bit k for factor k. -/
def factorSetAt (ps : List Byte) : BitVec 24 :=
  BitVec.ofNat 24 (byteAt ps 0 * 65536 + byteAt ps 1 * 256 + byteAt ps 2)

def groupOf : Nat → Option Group
  | 0 => some .travel | 1 => some .armL | 2 => some .armR | 3 => some .armC
  | 4 => some .spray | 5 => some .profile | 6 => some .account | _ => none

def armOf : Nat → Option Arm
  | 0 => some .l | 1 => some .r | 2 => some .c | _ => none

def zoneOf : Nat → Option Zone
  | 0 => some .l | 1 => some .r | 2 => some .c | 3 => some .mouth | _ => none

def slotOf (n : Nat) : Option SlotNo := if h : n < 8 then some ⟨n, h⟩ else none
def entryOf (n : Nat) : Option EntryNo := slotOf n

def windowOf : Nat → Option Window
  | 50 => some .ms50 | 100 => some .ms100 | 200 => some .ms200 | 500 => some .ms500 | _ => none

def windowMs : Window → Nat
  | .ms50 => 50 | .ms100 => 100 | .ms200 => 200 | .ms500 => 500

/-- A set of arms, bit 0 for L; none where another bit stands (R48). -/
def armSetOf (v : Nat) : Option ArmSet :=
  if v < 8 then some ⟨v.testBit 0, v.testBit 1, v.testBit 2⟩ else none

def zoneSetOf (v : Nat) : Option ZoneSet :=
  if v < 16 then some ⟨v.testBit 0, v.testBit 1, v.testBit 2, v.testBit 3⟩ else none

def armSetBits (p : ArmSet) : Nat := p.l.toNat + 2 * p.r.toNat + 4 * p.c.toNat
def zoneSetBits (p : ZoneSet) : Nat := p.l.toNat + 2 * p.r.toNat + 4 * p.c.toNat + 8 * p.mouth.toNat

/-- The four-byte coupling points of SET_POINTS (R188). -/
def pointsOf : List Byte → List Point
  | a :: b :: c :: d :: rest => ⟨wordAt [a, b] 0, c.toNat, d.toNat⟩ :: pointsOf rest
  | _ => []

/-! ## The check byte (R188) -/

/-- One shift of the CRC register. -/
def crcShift (r : Byte) : Byte := if r.getLsbD 7 then (r <<< 1) ^^^ 0x1D#8 else r <<< 1

def crcByte (r b : Byte) : Byte := (List.range 8).foldl (fun x _ => crcShift x) (r ^^^ b)

/-- The CRC of the bytes before it: the register starts at FFh. -/
def crc8 (bytes : List Byte) : Byte := bytes.foldl crcByte 0xFF#8

/-- A whole good request frame. -/
def requestFrame (code tag : Byte) (params : List Byte) : List Byte :=
  let body := code :: tag :: BitVec.ofNat 8 params.length :: params
  body ++ [crc8 body]

/-! ## The catalogue (R7, R9, R188) -/

/-- The requests of the catalogue; the four commands of ARM_COMMAND and the two of RESET_PART share a code. -/
def requestCodes : List Byte :=
  [0x01, 0x02, 0x10, 0x11, 0x12, 0x13, 0x20, 0x21, 0x22, 0x23, 0x24, 0x25, 0x26,
   0x30, 0x31, 0x32, 0x33, 0x34, 0x35, 0x36, 0x37, 0x38, 0x39, 0x40, 0x41, 0x42, 0x43, 0x44, 0x45] ++
  [0x50, 0x51, 0x58, 0x59, 0x5A, 0x5B, 0x60, 0x70, 0x71, 0x72, 0x73, 0x74, 0x75, 0x76,
   0x80, 0x81, 0x82, 0x83, 0x84, 0x85, 0x86]

/-- The permission matrix (R28). -/
def permitted (g : Group) (st : Station) : Bool :=
  match g, st with
  | .account, _ => true
  | .travel, .b => false
  | .travel, _ => true
  | _, .a => false
  | _, _ => true

/-- What stages 1 to 4 of R7 need of a request: its code, whether R8 exempts it from the attendance test, its
parameter form, and its role test. -/
structure Form where
  code : Byte
  exempt : Bool
  formOk : List Byte → Bool
  roleOk : Station → List Byte → Bool

def anyRole : Station → List Byte → Bool := fun _ _ => true
def groupRole (g : Group) : Station → List Byte → Bool := fun st _ => permitted g st
def lengthIs (n : Nat) : List Byte → Bool := fun ps => ps.length == n

/-- The form of a claim request: one byte that names a group (R7, R29). -/
def claimForm (code : Byte) : Form where
  code := code
  exempt := false
  formOk := fun ps => ps.length == 1 && (groupOf (byteAt ps 0)).isSome
  roleOk := fun st ps => match groupOf (byteAt ps 0) with
    | some g => permitted g st
    | none => false

/-- A request that acts on a fixed group and takes n bytes. -/
def onGroup (code : Byte) (g : Group) (n : Nat) : Form := ⟨code, false, lengthIs n, groupRole g⟩

/-- A request that every attending station may send and that takes n bytes. -/
def fromAny (code : Byte) (n : Nat) : Form := ⟨code, false, lengthIs n, anyRole⟩

/-- A request of the TRAVEL station alone (R9). -/
def travelOnly (code : Byte) (formOk : List Byte → Bool) : Form := ⟨code, false, formOk, fun st _ => st == .a⟩

namespace Form

def nop : Form := ⟨0x01, true, lengthIs 0, anyRole⟩
def identify : Form := ⟨0x02, true, lengthIs 0, anyRole⟩
def reportIn : Form := ⟨0x10, true, lengthIs 2, anyRole⟩
def keepPrepare : Form := fromAny 0x11 0
def keepCommit : Form := fromAny 0x12 0
def reportOut : Form := fromAny 0x13 0
def claimTry : Form := claimForm 0x20
def claimWait : Form := claimForm 0x21
def release : Form := claimForm 0x22
def yieldGroup : Form := claimForm 0x23
/-- OVERRIDE: the CAB station, naming an arm group or SPRAY (R9, R29). -/
def override : Form where
  code := 0x24
  exempt := false
  formOk := fun ps => ps.length == 1 && (groupOf (byteAt ps 0)).isSome
  roleOk := fun st ps => st == .c && match groupOf (byteAt ps 0) with
    | some .armL => true
    | some .armR => true
    | some .armC => true
    | some .spray => true
    | _ => false
def withdrawWait : Form := claimForm 0x25
/-- READ_CLAIM: any attending station may read any group (R37). -/
def readClaim : Form := ⟨0x26, false, (claimForm 0x26).formOk, anyRole⟩
def openDraft : Form := onGroup 0x30 .profile 1
def writeDraft : Form := onGroup 0x31 .profile 3
/-- SET_POINTS: 2 to 8 points of four bytes (R49). -/
def setPoints : Form where
  code := 0x32
  exempt := false
  formOk := fun ps => decide (8 ≤ ps.length) && decide (ps.length ≤ 32) && ps.length % 4 == 0
  roleOk := groupRole .profile
def commitDraft : Form := onGroup 0x33 .profile 0
def discardDraft : Form := onGroup 0x34 .profile 0
def eraseProfile : Form := onGroup 0x35 .profile 1
def selectProfile : Form := onGroup 0x36 .profile 1
def abortChangeover : Form := onGroup 0x37 .profile 0
def readProfile : Form := fromAny 0x38 1
def readChangeover : Form := fromAny 0x39 0
def setTravel : Form := onGroup 0x40 .travel 2
def releasePark : Form := onGroup 0x41 .travel 0
def applyPark : Form := onGroup 0x42 .travel 0
def engineReport : Form := travelOnly 0x43 (lengthIs 2)
def clearCap : Form := onGroup 0x44 .travel 0
def readTravel : Form := fromAny 0x45 0
/-- ARM_COMMAND: an existing arm at stage 3, its arm group at stage 4 (R7, R9). -/
def armCommand : Form where
  code := 0x50
  exempt := false
  formOk := fun ps => ps.length == 2 && (armOf (byteAt ps 0)).isSome
  roleOk := fun st ps => match armOf (byteAt ps 0) with
    | some a => permitted a.group st
    | none => false
def readArm : Form := ⟨0x51, false, fun ps => ps.length == 1 && (armOf (byteAt ps 0)).isSome, anyRole⟩
def zoneOverride : Form :=
  ⟨0x58, false, fun ps => ps.length == 2 && (zoneOf (byteAt ps 0)).isSome, groupRole .spray⟩
def refill : Form := onGroup 0x59 .account 2
def readSpray : Form := fromAny 0x5A 0
def readWater : Form := fromAny 0x5B 0
def readFlow : Form := fromAny 0x60 0
def readNotices : Form := fromAny 0x70 0
def ackFactors : Form := fromAny 0x71 3
def setNoticeMask : Form := fromAny 0x72 3
def setMasterMask : Form := fromAny 0x73 1
def bindReaction : Form := fromAny 0x74 6
def unbindReaction : Form := fromAny 0x75 1
def readReactions : Form := fromAny 0x76 0
/-- An item number 1 to 35 (R7, R179). -/
def itemOk (n : Nat) : Bool := decide (1 ≤ n) && decide (n ≤ 35)
def commissionSet : Form := travelOnly 0x80 fun ps => ps.length == 3 && itemOk (byteAt ps 0)
def commissionCommit : Form := travelOnly 0x81 (lengthIs 0)
/-- READ_COMMISSION: an item, or 0 for STATUS (R7, R188). -/
def readCommission : Form :=
  ⟨0x82, false, fun ps => ps.length == 1 && (byteAt ps 0 == 0 || itemOk (byteAt ps 0)), anyRole⟩
def safeStop : Form := fromAny 0x83 0
def resume : Form := travelOnly 0x84 (lengthIs 0)
/-- RESET_PART: the TRAVEL and CAB stations (R9). -/
def resetPart : Form := ⟨0x85, false, lengthIs 1, fun st _ => st == .a || st == .c⟩
def readResetCause : Form := ⟨0x86, true, lengthIs 0, anyRole⟩

end Form

/-! ## Codes (R188, R189) -/

def Status.code : Status → Byte
  | .none => 0x00 | .ok => 0x01 | .accepted => 0x02 | .refusedBusy => 0x03 | .refusedClaim => 0x04
  | .refusedRole => 0x05 | .refusedState => 0x06 | .badParam => 0x07 | .badFrame => 0x08
  | .unknownRequest => 0x09 | .notAttending => 0x0A | .notCommissioned => 0x0B | .fixed => 0x0C

def Reason.code : Reason → Byte
  | .notParked => 0x01 | .safeStop => 0x02 | .resetPending => 0x03 | .seat => 0x04 | .moving => 0x05
  | .reaction => 0x06 | .changeover => 0x07 | .fault => 0x08 | .uncommissionedItem => 0x09
  | .notFault => 0x0A | .notAtRest => 0x0B | .conflict => 0x0C | .committed => 0x0D
  | .notInSafeStop => 0x0E | .clockFault => 0x0F | .reverse => 0x10

/-- Field codes of WRITE_DRAFT; 10 stands for the coupling points in a verdict. -/
def DraftField.code : DraftField → Nat
  | .name => 1 | .ceiling => 2 | .armSet => 3 | .force .l => 4 | .force .r => 5 | .force .c => 6
  | .zoneSet => 7 | .dwell => 8 | .reserve => 9 | .points => 10

def draftFieldOf : Nat → Option DraftField
  | 1 => some .name | 2 => some .ceiling | 3 => some .armSet | 4 => some (.force .l)
  | 5 => some (.force .r) | 6 => some (.force .c) | 7 => some .zoneSet | 8 => some .dwell
  | 9 => some .reserve | _ => none

def CeilingSource.number : CeilingSource → Nat
  | .cap => 0 | .dry => 1 | .flow => 2 | .armMotion => 3 | .maximum => 4 | .profile => 5

def SafeCause.number : SafeCause → Nat
  | .request => 0 | .operator => 1 | .noStation => 2 | .clockFault => 3

/-- The outcome nibble of a reacted notice, 1 to 10 (R189). -/
def ActionOutcome.number : ActionOutcome → Nat
  | .stowed => 1 | .faulted => 2 | .notCommissioned => 3 | .superseded => 4 | .halted => 5
  | .forcedOff => 6 | .reached => 7 | .cleared => 8 | .unbound => 9 | .stopped => 10

/-- The subject nibble; none is Fh (R189). -/
def Subject.number : Subject → Nat
  | .none => 15
  | .station st => st.number
  | .group g => g.number
  | .slot n => n.val
  | .arm a => a.number
  | .source c => c.number
  | .level n => n
  | .cause c => c.number

/-! ## The 24 detail bits (R189) -/

def Standing.number : Standing → Nat
  | .absent => 0 | .attending => 1 | .lapsed => 2
def Window.number : Window → Nat
  | .ms50 => 0 | .ms100 => 1 | .ms200 => 2 | .ms500 => 3
def Departure.number : Departure → Nat
  | .left => 0 | .expired => 1
def Handover.number : Handover → Nat
  | .released => 0 | .yielded => 1 | .holderLeft => 2 | .holderLapsed => 3
def ChangeOutcome.number : ChangeOutcome → Nat
  | .completed => 0 | .degraded => 1 | .aborted => 2
def ChangeKind.number : ChangeKind → Nat
  | .select => 0 | .toTransport => 1 | .reapply => 2 | .abortReturn => 3
def ChangeEnding.number : ChangeEnding → Nat
  | .arms => 0 | .safeStop => 1
def ArmState.number : ArmState → Nat
  | .stowed => 0 | .lowering => 1 | .working => 2 | .deflected => 3 | .raising => 4 | .halted => 5 | .fault => 6
def Origin.number : Origin → Nat
  | .command => 0 | .changeover => 1 | .stowOrder => 2 | .pinned => 3 | .reaction => 4 | .none => 5
def FaultCause.number : FaultCause → Nat
  | .none => 0 | .lowerTimeout => 1 | .raiseTimeout => 2 | .switchConflict => 3
def TravelState.number : TravelState → Nat
  | .parked => 0 | .hold => 1 | .drive => 2 | .stopping => 3
def safeCauseBits (c : SafeCauses) : Nat :=
  c.request.toNat + 2 * c.operator.toNat + 4 * c.noStation.toNat + 8 * c.clockFault.toNat

/-- A detail's items, each with its width, from bit 23 downward (R189). Positions in the lists of the defining rules are
log entry 21; the 2 bits of CHANGEOVER_DONE's ending and of STATION_LAPSED's LEFT or EXPIRED, for which R189's table names
no width, are log entry 41. -/
def Detail.items : Detail → List (Nat × Int)
  | .stationJoined w c => [(2, w.number), (2, c.number)]
  | .stationLapsed d w => [(2, d.number), (2, (w.map Window.number).getD 0)]
  | .claimGranted h => [(2, h.number)]
  | .claimLost => []
  | .changeoverDone o k e d n => [(2, o.number), (2, k.number), (2, e.number), (1, d.toNat), (16, n)]
  | .armSettled r o => [(3, r.number), (3, o.number)]
  | .armFault c f o => [(2, c.number), (3, f.number), (3, o.number)]
  | .armDeflected v t => [(12, v), (7, t)]
  | .armPinned l v => [(12, l / 10), (12, v)]
  | .rotationStall t b g => [(7, t), (10, b), (6, g)]
  | .overspeed v p => [(12, v), (12, p)]
  | .reverseBlocked d n => [(12, d), (3, armSetBits n)]
  | .ceilingChanged p v => [(3, p.number), (12, v)]
  | .flowShort c d g q => (7, (c : Int)) :: (8, (d : Int)) :: (7, (g : Int)) :: (match q with
    | some n => [(2, (n : Int))]
    | none => [])
  | .engineStale e b a => [(10, e.getD 0 / 10), (7, b), (7, a)]
  | .waterLow e l => [(12, e), (1, l.toNat)]
  | .waterEmpty e l => [(12, e), (1, l.toNat)]
  | .pumpDry e => [(12, e)]
  | .frost z => [(4, zoneSetBits z)]
  | .safeStopEntered c a => [(4, safeCauseBits c), (1, a.toNat)]
  | .safeStopLeft c => [(4, safeCauseBits c)]
  | .clockFault n => [(16, min n 65535)]
  | .draftDiscarded => []
  | .operatorAbsent v t => [(12, v), (2, t.number)]

/-- Items packed from the top of the bits that remain. -/
def packItems : Nat → List (Nat × Int) → Nat
  | _, [] => 0
  | room, (w, v) :: rest => (v % 2 ^ w).toNat * 2 ^ (room - w) + packItems (room - w) rest

def Detail.bits (d : Detail) : BitVec 24 := BitVec.ofNat 24 (packItems 24 d.items)

/-! ## Numbers as bytes -/

def bytes2 (n : Nat) : List Byte := [BitVec.ofNat 8 (n / 256), BitVec.ofNat 8 n]
def bytes3 (n : Nat) : List Byte := BitVec.ofNat 8 (n / 65536) :: bytes2 n
def bytes4 (n : Nat) : List Byte := BitVec.ofNat 8 (n / 16777216) :: bytes3 n
def bytes8 (n : Nat) : List Byte := bytes4 (n / 4294967296) ++ bytes4 n

/-! ## Records as bytes -/

/-- The 44 bytes of READ_PROFILE for a slot (R188). The bits that R188 gives no content, bit 3 of bytes 0 and 5, are sent
as 0: the model's choice (log entry 45). -/
def slotBytes : Slot → List Byte
  | .empty => List.replicate 44 0
  | .held u r =>
    let state := match u with
      | .ready => 1 | .active => 2 | .incoming => 3 | .outgoing => 4
    let level := fun v => if v < 256 then BitVec.ofNat 8 v else Config.levelByte v
    let points := r.points.flatMap fun p =>
      bytes2 p.speed ++ [BitVec.ofNat 8 p.rotation, BitVec.ofNat 8 p.spray]
    [BitVec.ofNat 8 (state + 16 * r.points.length)] ++ bytes2 r.name ++ bytes2 r.ceiling ++
      [BitVec.ofNat 8 (armSetBits r.arms + 16 * zoneSetBits r.zones),
       level r.levels.l, level r.levels.r, level r.levels.c] ++
      bytes2 r.dwell ++ [BitVec.ofNat 8 r.reserve] ++
      (points ++ List.replicate 32 0).take 32

/-- The factor's number (R166). -/
def Detail.factor : Detail → Fin 24
  | .stationJoined .. => 0
  | .stationLapsed .. => 1
  | .claimGranted .. => 2
  | .claimLost => 3
  | .changeoverDone .. => 4
  | .armSettled .. => 5
  | .armFault .. => 6
  | .armDeflected .. => 7
  | .armPinned .. => 8
  | .rotationStall .. => 9
  | .overspeed .. => 10
  | .reverseBlocked .. => 11
  | .ceilingChanged .. => 12
  | .flowShort .. => 13
  | .engineStale .. => 14
  | .waterLow .. => 15
  | .waterEmpty .. => 16
  | .pumpDry .. => 17
  | .frost .. => 18
  | .safeStopEntered .. => 19
  | .safeStopLeft .. => 20
  | .clockFault .. => 21
  | .draftDiscarded => 22
  | .operatorAbsent .. => 23

/-- The ten bytes of a notice (R189). The bits that R189 gives no content, bit 7 of bytes 0 and 1, are sent as 0: the
model's choice (log entry 45). -/
def noticeBytes (n : Notice) : List Byte :=
  let entry := (n.record.reacted.map fun c => c.entry.val).getD 0
  let outcome := (n.record.reacted.map fun c => c.outcome.number).getD 0
  let zones := (n.record.reacted.map fun c => zoneSetBits c.zones).getD 0
  [BitVec.ofNat 8 (n.record.detail.factor.val + 32 * n.deferred.toNat + 64 * n.record.reacted.isSome.toNat),
   BitVec.ofNat 8 (n.record.subject.number + 16 * entry)] ++
    bytes4 n.record.time.toNat ++ bytes3 n.record.detail.bits.toNat ++ [BitVec.ofNat 8 (16 * outcome + zones)]

/-- A response's data bytes: the layouts of R16, R188 and R189, and a free packing for every other (log entry 5).
Bits 5 and 6 of the first byte of READ_NOTICES data, which R189 gives no content, are sent as 0: the model's choice (log
entry 45). -/
def Payload.bytes : Payload → List Byte
  | .none => []
  | .reason r => [r.code]
  | .identity => bytes2 7523 ++ [30, 1] ++ bytes8 Config.unitNumber.toNat
  | .verdict v => [BitVec.ofNat 8 v.field.code, BitVec.ofNat 8 v.point]
  | .slot s => slotBytes s
  | .notices remaining overflow taken =>
    BitVec.ofNat 8 (remaining + 128 * overflow.toNat) :: taken.flatMap noticeBytes
  | .failedCheck check k => [BitVec.ofNat 8 check, BitVec.ofNat 8 k]
  | p => (Config.packing p).take 44

/-- A response frame: status, tag, code, length, data, CRC (R188). -/
def Response.wire (r : Response) : List Byte :=
  let body := [r.status.code, r.tag, r.code, BitVec.ofNat 8 r.data.bytes.length] ++ r.data.bytes
  body ++ [crc8 body]

/-- The k-th byte clocked out in a transaction; 0 after the frame (R4). -/
def Link.outByte (l : Link) (k : Nat) : Byte :=
  match l.outgoing with
  | some r => r.wire.getD k 0
  | none => 0

/-- The k-th byte on the link's data output, none while it is high-impedance: it is driven in RECEIVING alone (R3,
R13). -/
def Link.dataOut (l : Link) (k : Nat) : Option Byte := if l.state = .receiving then some (l.outByte k) else none

/-- A request code that the catalogue names (R7 stage 1). -/
def knownCode (c : Byte) : Bool := requestCodes.contains c

end Sys2Proof.Machine
end

