-- ==== Sys2Proof/Machine/Flags.lean ====
section
/-! DEFINITION. The Notice Unit: factor flags, held records, masks, notice queues, delivery of a raise, matching
against the reaction table and completion of a reaction's action (R166 to R177). -/

namespace Sys2Proof.Machine

/-! ## One station's factor state -/

/-- A notice at the tail of the queue, or dropped with the overflow flag set (R168). -/
def StationNotices.append (v : StationNotices) (n : Notice) : StationNotices :=
  if v.queue.length < 16 then { v with queue := v.queue ++ [n] } else { v with overflow := true }

/-- A factor held back from the queue, by its own mask or by the master mask (R167). -/
def StationNotices.holdsBack (v : StationNotices) (k : Fin 24) : Bool := v.masks.getLsbD k || v.master

/-- Delivery of a raise to the station (R167). -/
def StationNotices.take (v : StationNotices) (h : HeldRecord) : StationNotices :=
  let k := h.detail.factor
  let w := { v with flags := v.flags ||| BitVec.twoPow 24 k, held := v.held.set k (some h) }
  if v.holdsBack k then w else w.append ⟨h, false⟩

/-- The deferred notice of factor k, from its held record (R171). -/
def StationNotices.appendDeferred (v : StationNotices) (k : Fin 24) : StationNotices :=
  match v.held[k] with
  | some h => v.append ⟨h, true⟩
  | none => v

def factorList : List (Fin 24) := List.finRange 24

/-- Deferred notices, in factor order, for the factors of a set whose flags are set (R171). -/
def StationNotices.defer (v : StationNotices) (which : BitVec 24) : StationNotices :=
  factorList.foldl (fun w (k : Fin 24) => if which.getLsbD k.val && v.flags.getLsbD k.val then w.appendDeferred k else w) v

/-- R171: the masks replaced; each factor newly unmasked with its flag set is brought in while the master mask is
clear. -/
def StationNotices.setMasks (v : StationNotices) (set : BitVec 24) : StationNotices :=
  let w := { v with masks := set }
  if v.master then w else w.defer (v.masks &&& ~~~set)

/-- R171: the master mask; clearing a set one brings in every unmasked factor whose flag is set. -/
def StationNotices.setMaster (v : StationNotices) (on : Bool) : StationNotices :=
  let w := { v with master := on }
  if v.master && !on then w.defer (~~~v.masks) else w

/-- Driven low exactly while the queue is non-empty and the master mask clear (R14, R168). -/
def StationNotices.lineLow (v : StationNotices) : Bool := !v.queue.isEmpty && !v.master

/-! ## Delivery (R166, R167) -/

def State.attends (s : State) (st : Station) : Bool := (s.attendance.get st).state == .attending

/-- Whether a raise reaches a station at this moment. -/
def State.reaches (s : State) (u : Audience) (st : Station) : Bool :=
  match u with
  | .every skip => s.attends st && skip != some st
  | .only x => s.attends st && st == x

def Raise.record (r : Raise) (reacted : Option Completion) : HeldRecord :=
  ⟨r.subject, r.detail, r.time, reacted⟩

/-- Delivery of a raise to every station it reaches. -/
def deliver (r : Raise) (reacted : Option Completion) (s : State) : State :=
  s.modNotices fun p => PerStation.of fun st =>
    if s.reaches r.audience st then (p.get st).take (r.record reacted) else p.get st

/-- A raise that no reaction takes. -/
def deliverPlain : Raiser := fun r s => deliver r none s

/-! ## The reaction table (R173 to R177) -/

/-- R174: a subject filter against a raise. -/
def Filter.fits (f : Filter) (r : Raise) : Bool :=
  match f with
  | .any => true
  | .arm a => r.subject == .arm a
  | .level n => r.subject == .level n
  | .zone z => match r.detail with
    | .frost zones => zones.get z
    | _ => false

def Binding.fits (b : Binding) (r : Raise) : Bool :=
  b.enabled && b.factor == r.detail.factor && b.filter.fits r

/-- The lowest-numbered BOUND entry that fits the raise (R176). -/
def State.matching (s : State) (r : Raise) : Option EntryNo :=
  entryList.find? fun e => (s.reactions[e].map fun b => b.fits r).getD false

def State.setReaction (s : State) (e : EntryNo) (b : Option Binding) : State :=
  s.modReactions fun t => t.set e b

/-- Completion of an entry's action: the in-flight mark is cleared, a DRAINING entry becomes FREE, and the raise it
held is dealt with (R177). Nothing where the entry is not in flight. -/
def release (e : EntryNo) (k : Raise → State → State) (s : State) : State :=
  match s.reactions[e] with
  | none => s
  | some b => match b.held with
    | none => s
    | some r => k r (s.setReaction e (if b.enabled then some { b with held := none } else none))

/-- Completion with the held raise delivered at once, with the reacted mark (R177). -/
def completeWith (e : EntryNo) (o : ActionOutcome) (zones : ZoneSet) (s : State) : State :=
  release e (fun r => deliver r (some ⟨e, o, zones⟩)) s

def complete (e : EntryNo) (o : ActionOutcome) (s : State) : State := completeWith e o (.all false) s

/-- Whether entry e is in flight with an action that p picks. -/
def State.inFlight (s : State) (p : Action → Bool) (e : EntryNo) : Bool :=
  (s.reactions[e].map fun b => b.held.isSome && p b.action).getD false

/-- Completes, in ascending order of entry number, the entries that are in flight with an action p picks (R177). -/
def completeAll (p : Action → Bool) (o : ActionOutcome) (s : State) : State :=
  (entryList.filter (s.inFlight p)).foldl (fun t e => complete e o t) s

end Sys2Proof.Machine
end

