-- ==== Sys2Proof/Machine/Governor.lean ====
section
/-! DEFINITION. The Travel Governor's own operations: ramp, trim, displacement, stopping, the effective and reverse
ceilings, the flow ceiling, caps, overspeed (R86 to R109). -/

namespace Sys2Proof.Machine

/-! ## Ceilings (R99, R106) -/

/-- The six sources of the effective ceiling as READ_TRAVEL shows them (R99, R109). CAP and FLOW hold no value while not in
force; that 0 is shown for it is the model's choice (log entry 46). -/
def State.capSource (s : State) : SourceView :=
  let caps := s.travel.caps.toList.filterMap id
  match caps with
  | [] => ⟨false, 0⟩
  | v :: vs => ⟨true, vs.foldl min v⟩
def State.drySource (s : State) : SourceView :=
  ⟨s.travel.waterEmpty && !s.travel.zonesEmpty, s.item 30⟩
/-- R101; 0 is shown while the flow ceiling is not in force (log entry 46). -/
def State.flowSource (s : State) : SourceView := ⟨s.travel.flowCeiling.isSome, s.travel.flowCeiling.getD 0⟩
def State.motionSource (s : State) : SourceView := ⟨PerArm.anySet s.travel.armMoving, s.item 7⟩
def State.maximumSource (s : State) : SourceView := ⟨true, s.item 2⟩
/-- The profile source, its maximum read at the event that uses it (R44, R87). -/
def State.profileSource (s : State) : SourceView :=
  ⟨true, match s.travel.profileLimit with
    | .maximum => s.item 2
    | .fixed v => v
    | .lowerOfMaximum v => min v (s.item 2)⟩

/-- The lowest source in force, the first in the table where several are equal (R99). -/
def State.lowestSource (s : State) : Nat × CeilingSource :=
  let pick := fun (best : Nat × CeilingSource) (v : SourceView) (c : CeilingSource) =>
    if v.inForce && decide (v.value ≤ best.1) then (v.value, c) else best
  let p := (s.profileSource.value, CeilingSource.profile)
  let p := pick p s.maximumSource .maximum
  let p := pick p s.motionSource .armMotion
  let p := pick p s.flowSource .flow
  let p := pick p s.drySource .dry
  pick p s.capSource .cap

/-- The reverse ceiling in counts of 0.1 km/h (R106). -/
def State.reverseCeiling (s : State) : Nat := if s.travel.reverseOpen then s.item 3 else 0

/-- The entries whose cap was met at its hand-over in this event are in flight, with the raise each still holds. -/
def holdReached (s : State) : State :=
  s.work.reached.foldl (fun t p => match t.reactions[p.1] with
    | some b => if b.held.isNone then t.setReaction p.1 (some { b with held := some p.2 }) else t
    | none => t) s

/-- Those entries are out of flight again. -/
def freeReached (s : State) : State :=
  s.work.reached.foldl (fun t p =>
    if (t.reactions[p.1].bind Binding.held) = some p.2 then release p.1 (fun _ u => u) t else t) s

/-- R99, R100: the ceiling recomputed once the event's changes are complete, CEILING_CHANGED raised at most once in
the event. An action that this raise starts may change the source again: the raise made stands and no other follows
(log entry 11). An entry whose cap was met at its hand-over is in flight from this raise to the
end of the event, so that the chain of its action does not start it again (R176, log entry 19). -/
def ceilingCheck (raise : Raiser) (s : State) : State :=
  if s.work.ceiling then
    let p := s.lowestSource
    let before := s.travel.limiting
    let t := (s.modTravel fun g => { g with ceiling := p.1, limiting := p.2 }).modWork fun w =>
      { w with ceiling := false }
    if p.2 = before || s.work.ceilingRaised then t
    else raise (t.raiseOf (.source p.2) (.ceilingChanged before p.1))
      (holdReached (t.modWork fun w => { w with ceilingRaised := true }))
  else s

/-! ## The ramp (R91 to R95) -/

/-- The ramp target in steps of 0.001 km/h (R91). -/
def State.rampTarget (s : State) : Int :=
  match s.travel.state with
  | .drive =>
    if 0 ≤ s.travel.demand then min s.travel.demand s.travel.ceiling * 100
    else max s.travel.demand (-(s.reverseCeiling : Int)) * 100
  | _ => 0

/-- One ramp step; the limits are whole steps of 0.001 km/h (R92, R188). -/
def rampStep (setpoint target accel decel : Int) : Int :=
  if 0 < setpoint then
    if setpoint ≤ target then min target (setpoint + accel)
    else max (max target 0) (setpoint - decel)
  else if setpoint < 0 then
    if target ≤ setpoint then max target (setpoint - accel)
    else min (min target 0) (setpoint + decel)
  else if 0 ≤ target then min target accel
  else max target (-accel)

/-- R94: the trim after the step. -/
def trimStep (trim setpoint wheelSpeed : Int) : Int :=
  clampInt (-2500) 2500 (trim + (toCounts setpoint - wheelSpeed))

/-- R95: the displacement; the feed-forward by an unwritten full speed is log entry 6. -/
def displacement (setpoint trim : Int) (fullSpeed : Nat) : Int :=
  let forward : Int := percentOf setpoint.natAbs fullSpeed
  clampInt (-100) 100 ((if setpoint < 0 then -forward else forward) + trim.tdiv 100)

/-- R95: the two travel outputs of a displacement. -/
def Travel.command (g : Travel) (d : Int) : Travel :=
  { g with forward := d.toNat, reverse := (-d).toNat }

/-! ## Stopping (R96 to R98) -/

/-- Entry to PARKED (R89, R97, R107). -/
def Travel.park (g : Travel) : Travel :=
  { g with state := .parked, brakeDriven := false, forward := 0, reverse := 0, trim := 0,
           rampTimer := .stopped, overspeedTimer := .stopped, overspeedExpired := false }

/-- R185: a pending settled reset is taken when the TG is PARKED and every arm STOWED or FAULT (log entry 18). -/
def settledTest (s : State) : State :=
  if s.supervision.pendingReset.isSome && s.travel.state == .parked && PerArm.allSet s.supervision.armDone then
    s.modWork fun w => { w with reset := some (.settled false) }
  else s

/-- R97: the end of STOPPING, tested at a ramp expiry, a WHEEL gate expiry and at entry. -/
def stopTest (s : State) : State :=
  if s.travel.state == .stopping && s.travel.setpoint == 0 && s.travel.wheelSpeed == 0 then
    if s.travel.safeStop || s.travel.resetPending then
      settledTest (completeAll (· == .stopTravel) .stopped
        (s.modTravel fun g => { g.park with causes := StopCauses.empty }))
    else
      completeAll (· == .stopTravel) .stopped
        (s.modTravel fun g => { g with state := .hold, causes := StopCauses.empty })
  else s

/-- R96: a stop cause reaches the TG. -/
def enterStopping (add : StopCauses → StopCauses) (s : State) : State :=
  match s.travel.state with
  | .hold => stopTest (s.modTravel fun g => { g with state := .stopping, causes := add g.causes, demand := 0 })
  | .drive => stopTest (s.modTravel fun g => { g with state := .stopping, causes := add g.causes, demand := 0 })
  | .stopping => s.modTravel fun g => { g with causes := add g.causes }
  | .parked => s

/-- R98: the TRAVEL holder has lost the group. -/
def travelHolderGone (s : State) : State :=
  if s.travel.state == .drive then enterStopping (fun c => { c with holderGone := true }) s else s

/-! ## Overspeed (R107) -/

def Travel.overspeeding (g : Travel) : Bool :=
  decide (0 < g.wheelSpeed) && decide (20 < g.wheelSpeed - toCounts g.setpoint)

/-- The test of R107, in every state but PARKED. -/
def Travel.testOverspeed (g : Travel) : Travel :=
  if g.state == .parked then g
  else if g.overspeeding then
    if g.overspeedTimer.isRunning || g.overspeedExpired then g else { g with overspeedTimer := .running 1000 }
  else { g with overspeedTimer := .stopped, overspeedExpired := false }

def overspeedTest (s : State) : State := s.modTravel Travel.testOverspeed

/-! ## The flow ceiling (R101, R163) -/

/-- The level-2 flag with an offer. -/
def Travel.takeOffer (g : Travel) (o : Nat) : Travel :=
  { g with shortFlag := true, offer := some o, releaseTimer := .stopped,
           flowCeiling := some (match g.flowCeiling with
             | some v => min v o
             | none => o) }

/-- The level-2 flag cleared. -/
def Travel.clearOffer (g : Travel) : Travel :=
  { g with shortFlag := false, offer := none,
           releaseTimer := if g.flowCeiling.isSome then .running 2000 else g.releaseTimer }

/-! ## Caps and STOP_TRAVEL (R102 to R105) -/

/-- The setpoint is not above a cap (R103). -/
def Travel.meetsCap (g : Travel) (cap : Nat) : Bool := decide (g.setpoint ≤ cap * 100)

/-- A CAP_SPEED action that completes at its hand-over: the raise it held waits for the CEILING_CHANGED of the new cap.
The entry is in flight from that factor to the end of the event (holdReached); before it another raise starts the action
anew (R103, R176, log entry 19). -/
def reachAtOnce (e : EntryNo) (s : State) : State :=
  release e (fun r t => t.modWork fun w => { w with reached := w.reached ++ [(e, r)] }) s

/-- A CAP_SPEED action handed to the TG (R103). -/
def capAction (e : EntryNo) (cap : Nat) (s : State) : State :=
  let t := (s.modTravel fun g => { g with caps := g.caps.set e (some cap) }).needCeiling
  if s.travel.meetsCap cap then reachAtOnce e t else t

/-- The raises of the CAP_SPEED actions that completed at their hand-over in this event, in the order of completion. -/
def deliverReached (s : State) : State :=
  s.work.reached.foldl (fun t p => deliver p.2 (some ⟨p.1, .reached, .all false⟩) t)
    ((freeReached s).modWork fun w => { w with reached := [] })

/-- R103 at step 6 of R91: each cap action in flight tested. -/
def capTest (s : State) : State :=
  (entryList.filter fun e => s.inFlight (fun a => match a with
    | .capSpeed _ => (s.travel.caps[e].map s.travel.meetsCap).getD false
    | _ => false) e).foldl (fun t e => complete e .reached t) s

def removeCap (e : EntryNo) (s : State) : State :=
  (s.modTravel fun g => { g with caps := g.caps.set e none }).needCeiling

def Action.isCap : Action → Bool
  | .capSpeed _ => true
  | _ => false

/-- CLEAR_CAP's effect; with no cap installed no source changes and nothing is recomputed (R104). -/
def clearCaps (s : State) : State :=
  let t := s.modTravel fun g => { g with caps := Vector.replicate 8 none }
  completeAll Action.isCap .cleared (if s.capSource.inForce then t.needCeiling else t)

/-- A STOP_TRAVEL action handed to the TG (R105). -/
def stopAction (e : EntryNo) (s : State) : State :=
  if s.travel.state == .parked then complete e .stopped s
  else enterStopping (fun c => { c with stopTravel := true }) s

/-! ## Arm reports (R87, R106, R112) -/

/-- The TG takes an arm's report. Where the reverse ceiling becomes 0.0 a negative setpoint is set to 0.000 at once,
and in DRIVE with a negative demand a REVERSE_BLOCKED is due (R106). -/
def travelTakesArm (a : Arm) (stowed moving : Bool) (s : State) : State :=
  let movingChanged := s.travel.armMoving.get a != moving
  let t := s.modTravel fun g =>
    { g with armStowed := g.armStowed.set a stowed, armMoving := g.armMoving.set a moving }
  let t := if movingChanged then t.needCeiling else t
  let opened := PerArm.allSet t.travel.armStowed
  if s.travel.reverseOpen && !opened then
    let u := t.modTravel fun g => { g with reverseOpen := false, setpoint := max g.setpoint 0 }
    if u.travel.state == .drive && decide (u.travel.demand < 0) then
      u.modWork fun w => { w with blocked := some u.travel.demand }
    else u
  else t.modTravel fun g => { g with reverseOpen := opened }

/-- The REVERSE_BLOCKED that is due, raised once in its event when the event's reports have come, with the arms that
are not STOWED then (R106, log entry 37). -/
def raiseBlocked (raise : Raiser) (s : State) : State :=
  match s.work.blocked with
  | some d => raise (s.raiseOf .none (.reverseBlocked d (s.travel.armStowed.map (!·))))
      (s.modWork fun w => { w with blocked := none })
  | none => s

/-! ## The ramp expiry (R91) -/

/-- Steps 1 to 3: setpoint, trim, displacement. -/
def rampMove (s : State) : State :=
  s.modTravel fun g =>
    let p := rampStep g.setpoint s.rampTarget (s.item 5) (s.item 6)
    let tr := trimStep g.trim p g.wheelSpeed
    { g with setpoint := p, trim := tr }.command (displacement p tr (s.item 4))

/-- Step 4: DRIVE to HOLD (R93), or the end of STOPPING (R97). -/
def rampState (s : State) : State :=
  if s.travel.state == .drive && s.travel.setpoint == 0 && s.travel.demand == 0 then
    s.modTravel fun g => { g with state := .hold }
  else stopTest s

/-- R91: the whole expiry, the timer reloaded first. Where step 4 ends STOPPING and step 6 meets caps, the raises of the
STOP_TRAVEL entries are delivered before those of the CAP_SPEED entries, each kind in entry order (log entry 44). -/
def rampExpiry (s : State) : State :=
  capTest (overspeedTest (rampState (rampMove (s.modTravel fun g => { g with rampTimer := .running 10 }))))

/-! ## READ_TRAVEL (R109) -/

/-- READ_TRAVEL's items. The direction is that of the last WHEEL pulse, live between gates (R76, log entry 39); the
ramp target in PARKED is log entry 23. -/
def travelView (s : State) : TravelView where
  state := s.travel.state
  causes := s.travel.causes
  demand := s.travel.demand
  target := toCounts s.rampTarget
  setpoint := toCounts s.travel.setpoint
  trim := s.travel.trim.tdiv 100
  ceiling := s.travel.ceiling
  limiting := s.travel.limiting
  cap := s.capSource
  capEntries := s.travel.caps.map (·.isSome)
  dry := s.drySource
  flow := s.flowSource
  armMotion := s.motionSource
  maximum := s.maximumSource
  profile := s.profileSource
  releaseTimer := s.travel.releaseTimer
  reverseCeiling := s.reverseCeiling
  overspeedTimer := s.travel.overspeedTimer
  wheelSpeed := s.travel.wheelSpeed
  direction := s.capture.direction
  seat := s.travel.seat
  forward := s.travel.forward
  reverse := s.travel.reverse
  brakeDriven := s.travel.brakeDriven

end Sys2Proof.Machine
end

