-- ==== Sys2Proof/Machine/Budget.lean ====
section
/-! DEFINITION. The Flow Arbiter: capacity, postings, the three-level reallocation, grants handed on, short flags and
the flow ceiling offer (R153 to R165). -/

namespace Sys2Proof.Machine

/-! ## Capacity (R153) -/

/-- The capacity by the staleness mark; a rated engine speed of 0 gives a FRESH capacity of 0. -/
def State.capacityNow (s : State) : Nat :=
  match s.flow.mark with
  | .fresh => s.item 19 * min (s.flow.lastEngine.getD 0) (s.item 21) / s.item 21
  | .stale => s.item 20

/-- A recomputation; a reallocation follows where the value changed. -/
def recomputeCapacity (s : State) : State :=
  if s.capacityNow = s.flow.capacity then s
  else (s.modFlow fun f => { f with capacity := s.capacityNow }).needRealloc

/-! ## Postings (R156, R158) -/

/-- An arm posts its lift demand whole: its consumer takes the tail of the lift queue. A demand posted already keeps
its place (R122, R156). -/
def postLift (a : Arm) (s : State) : State :=
  let d := s.liftItem a
  let t := s.modArm a fun u => { u with liftPosted := true }
  if s.flow.liftDemand.get a = 0 ∧ d ≠ 0 then
    ((t.modFlow fun f => { f with liftDemand := f.liftDemand.set a d, queue := f.queue ++ [a] }).modWork
      fun w => { w with newLifts := w.newLifts ++ [a] }).needRealloc
  else t

/-- A withdrawal removes the consumer from whichever list holds it, and its grant becomes 0. -/
def withdrawLift (a : Arm) (s : State) : State :=
  let t := s.modArm a fun u => { u with liftPosted := false, liftGrant := 0 }
  if s.flow.liftDemand.get a = 0 then t
  else
    ((t.modFlow fun f =>
      { f with liftDemand := f.liftDemand.set a 0, liftGrant := f.liftGrant.set a 0,
               queue := f.queue.filter (· != a), granted := f.granted.filter (· != a) }).modWork
      fun w => { w with newLifts := w.newLifts.filter (· != a) }).needRealloc

def postRotation (a : Arm) (d : Nat) (s : State) : State :=
  if s.flow.rotDemand.get a = d then s
  else (s.modFlow fun f => { f with rotDemand := f.rotDemand.set a d }).needRealloc

def postPump (d : Nat) (s : State) : State :=
  if s.flow.pumpDemand = d then s
  else (s.modFlow fun f => { f with pumpDemand := d }).needRealloc

/-! ## The three levels (R158 to R161) -/

/-- R159, withdrawal: while the lift grants exceed the capacity, the most recently granted goes to the queue's
head. -/
def Flow.withdrawLifts : Nat → Flow → Flow
  | 0, f => f
  | n + 1, f =>
    if f.capacity < f.liftGrant.sum then
      match f.granted.getLast? with
      | none => f
      | some a => Flow.withdrawLifts n
          { f with granted := f.granted.dropLast, queue := a :: f.queue, liftGrant := f.liftGrant.set a 0 }
    else f

/-- R159, granting: the head while its whole demand fits, stopping at the first that does not. -/
def Flow.grantLifts : Nat → Flow → Flow
  | 0, f => f
  | n + 1, f =>
    match f.queue with
    | [] => f
    | a :: rest =>
      if f.liftDemand.get a + f.liftGrant.sum ≤ f.capacity then
        Flow.grantLifts n { f with queue := rest, granted := f.granted ++ [a],
                                   liftGrant := f.liftGrant.set a (f.liftDemand.get a) }
      else f

/-- R160: rotation shares what the lifts leave. -/
def Flow.grantRotation (f : Flow) : Flow :=
  let room := f.capacity - f.liftGrant.sum
  let asked := f.rotDemand.sum
  { f with rotGrant := if asked ≤ room then f.rotDemand else f.rotDemand.map fun d => d * room / asked }

/-- R161: the pump takes the lesser of its demand and what remains. -/
def Flow.grantPump (f : Flow) : Flow :=
  { f with pumpGrant := min f.pumpDemand (f.capacity - (f.liftGrant.sum + f.rotGrant.sum)) }

def Flow.settle (f : Flow) : Flow :=
  ((Flow.grantLifts 3 (Flow.withdrawLifts 3 f)).grantRotation).grantPump

/-! ## Short flags and the offer (R162, R163) -/

def Flow.isShort3 (f : Flow) : Bool := !f.queue.isEmpty
def Flow.isShort2 (f : Flow) : Bool :=
  Arm.list.any fun a => decide (f.rotGrant.get a < f.rotDemand.get a)
def Flow.isShort1 (f : Flow) : Bool := decide (f.pumpGrant < f.pumpDemand)

/-- The consumer with the lowest ratio of grant to demand, the ratios compared exactly, as (grant, demand). -/
def Flow.lowestRatio (f : Flow) : Nat × Nat :=
  Arm.list.foldl (fun best a =>
    let g := f.rotGrant.get a
    let d := f.rotDemand.get a
    if 0 < d && g * best.2 < best.1 * d then (g, d) else best) (1, 1)

/-- The flow ceiling offer at a measured speed (R163). -/
def Flow.offerAt (f : Flow) (speed : Int) : Nat :=
  max 10 (speed.natAbs * f.lowestRatio.1 / f.lowestRatio.2)

/-! ## Grants handed on (R161) -/

/-- R121: the motion timeout of the direction the arm moves in. -/
def State.motionTimeout (s : State) (st : ArmState) : Nat :=
  if st == .lowering then s.item 8 else s.item 9

/-- A whole grant starts or resumes the motion, a withdrawn one pauses it (R121). -/
def ArmUnit.takeLift (u : ArmUnit) (grant : Nat) (timeout : Nat) : ArmUnit :=
  if u.sub == .awaitingFlow && decide (0 < grant) then
    { u with liftGrant := grant, sub := .moving,
             liftDownOpen := u.state == .lowering, liftUpOpen := u.state == .raising,
             motionTimer := match u.motionTimer with
               | .paused n => .running n
               | _ => .running timeout }
  else if u.sub == .moving && grant == 0 then
    { u with liftGrant := 0, sub := .awaitingFlow, liftDownOpen := false, liftUpOpen := false,
             motionTimer := u.motionTimer.pause }
  else { u with liftGrant := grant }

/-- ROT_x from the grant, in WORKING and DEFLECTED (R131). -/
def ArmUnit.rotOut (u : ArmUnit) (full : Nat) : Nat :=
  if u.state == .working || u.state == .deflected then percentOf (u.rotGrant * 100) full else 0

def ArmUnit.takeRotation (u : ArmUnit) (grant full : Nat) : ArmUnit :=
  let v := { u with rotGrant := grant }
  { v with rot := v.rotOut full }

/-- PUMP_W and the dry-run timer from the grant (R140, R144). -/
def Spray.takeGrant (v : Spray) (grant full dryRun : Nat) : Spray :=
  { v with pumpGrant := grant, pumpOut := percentOf (grant * 100) full,
           dryRunTimer := if grant = 0 then .stopped
             else if v.pumpGrant = 0 then .running dryRun else v.dryRunTimer }

/-! ## The reallocation (R157) -/

/-- R158: two or three lift demands posted in one event stand in the queue in an order of the free value's choice
(log entry 7). -/
def pick : Nat → List Arm → List Arm
  | n, [x, y] => if n % 2 = 0 then [x, y] else [y, x]
  | n, [x, y, z] =>
    match n % 6 with
    | 0 => [x, y, z] | 1 => [x, z, y] | 2 => [y, x, z] | 3 => [y, z, x] | 4 => [z, x, y] | _ => [z, y, x]
  | _, l => l

/-- The queue with the lifts newly posted in this event in the chosen order; the counter advances where there was
a choice. -/
def orderPosted (s : State) : State :=
  let t := s.modWork fun w => { w with newLifts := [] }
  if 2 ≤ s.work.newLifts.length then
    let u := t.modFlow fun f =>
      { f with queue := f.queue.filter (fun a => !s.work.newLifts.contains a) ++
                 pick (Config.postOrder s.freeCount) s.work.newLifts }
    { u with freeCount := s.freeCount + 1 }
  else t

/-- The grants of the settled flow, posted to the arms and the Spray Unit. -/
def postGrants (s : State) : State :=
  (s.modArms fun p => PerArm.of fun a =>
    let u := p.get a
    (u.takeLift (s.flow.liftGrant.get a) (s.motionTimeout u.state)).takeRotation (s.flow.rotGrant.get a)
      (s.item 12)).modSpray fun v => v.takeGrant s.flow.pumpGrant (s.item 18) (s.item 29)

/-- The FLOW_SHORT factors of the flags that go from clear to set, level 3 first (R162). -/
def shortRaises (before : Flow) (s : State) : List Raise :=
  let f := s.flow
  let raised := fun (was now : Bool) (n : Nat) (d : Detail) =>
    if !was && now then [s.raiseOf (.level n) d] else []
  raised before.short3 f.short3 3 (.flowShort f.capacity f.liftDemand.sum f.liftGrant.sum (some f.queue.length)) ++
    raised before.short2 f.short2 2 (.flowShort f.capacity f.rotDemand.sum f.rotGrant.sum none) ++
    raised before.short1 f.short1 1 (.flowShort f.capacity f.pumpDemand f.pumpGrant none)

/-- The flags set from the settled grants (R162). -/
def setShortFlags (s : State) : State :=
  s.modFlow fun f => { f with short3 := f.isShort3, short2 := f.isShort2, short1 := f.isShort1 }

/-- The level-2 flag and the offer handed to the TG; the ceiling is recomputed where the flow ceiling changes (R99,
R163). -/
def handOffer (was : Bool) (s : State) : State :=
  if s.flow.short2 then
    let o := s.flow.offerAt s.capture.wheelSpeed
    let t := (s.modFlow fun f => { f with lastOffer := some o }).modTravel fun g => g.takeOffer o
    if t.travel.flowCeiling = s.travel.flowCeiling then t else t.needCeiling
  else if was then s.modTravel Travel.clearOffer
  else s

/-- One reallocation, with the factors it raises (R157 to R163). -/
def reallocate (s : State) : State × List Raise :=
  let t := orderPosted (s.modWork fun w => { w with realloc := false })
  let t := setShortFlags (postGrants (t.modFlow Flow.settle))
  let t := handOffer s.flow.short2 t
  (t, shortRaises s.flow t)

/-! ## Engine reports (R154, R155) -/

def takeEngine (speed : Nat) (s : State) : State :=
  recomputeCapacity (s.modFlow fun f =>
    { f with lastEngine := some speed, mark := .fresh, timer := .running 1000 })

end Sys2Proof.Machine
end

