-- ==== Sys2Proof/Machine/Zones.lean ====
section
/-! DEFINITION. The coupling and the Spray Unit: zone states, duties, valves, pump demand, dwell and the dry-run
timer (R43, R134 to R144). -/

namespace Sys2Proof.Machine

/-! ## The coupling (R43) -/

/-- The value between two points, computed exactly and rounded down. -/
def between (f : Point → Nat) (p q : Point) (v : Nat) : Nat :=
  (f p * (q.speed - v) + f q * (v - p.speed)) / (q.speed - p.speed)

/-- A coupling at a magnitude; the transport coupling has no point and gives 0 (R44). -/
def coupling (f : Point → Nat) (v : Nat) : List Point → Nat
  | [] => 0
  | [p] => f p
  | p :: q :: rest => if q.speed ≤ v then coupling f v (q :: rest) else between f p q v

def rotationAt (points : List Point) (speed : Int) : Nat := coupling Point.rotation speed.natAbs points
def sprayAt (points : List Point) (speed : Int) : Nat := coupling Point.spray speed.natAbs points

/-! ## Zone states (R136) -/

def ArmState.isDown : ArmState → Bool
  | .working => true
  | .deflected => true
  | _ => false

/-- Condition 6: no brush is down for the zone. -/
def Spray.brushUp (v : Spray) (z : Zone) : Bool :=
  match z.arm with
  | some a => !(v.armState.get a).isDown
  | none => !(PerArm.anySet (v.armState.map ArmState.isDown))

/-- Condition 8: an arm zone whose arm is DEFLECTED. -/
def Spray.brushDeflected (v : Spray) (z : Zone) : Bool :=
  match z.arm with
  | some a => v.armState.get a == .deflected
  | none => false

/-- The first condition of R136 that applies. -/
def Spray.decide (v : Spray) (z : Zone) : ZoneState :=
  if v.frost then .inhibited .frost
  else if v.waterState == .empty then .inhibited .empty
  else if v.safeStop then .inhibited .safeStop
  else if v.forcedOff.get z then .inhibited .forced
  else if !v.zoneSet.get z then .off
  else if v.brushUp z then .off
  else if v.dwell == .standing then .suspended .dwell
  else if v.brushDeflected z then .suspended .deflected
  else if sprayAt v.points v.wheelSpeed = 0 then .off
  else .on

/-- Zone states, then duties (R138) and valves (R137). -/
def Spray.evaluate (v : Spray) : Spray :=
  let zones := PerZone.of v.decide
  { v with zones := zones,
           duty := zones.map fun z => if z == .on then sprayAt v.points v.wheelSpeed else 0,
           valves := zones.map (· == .on) }

/-- The pump duty demand (R140). -/
def State.pumpDutyOf (s : State) (v : Spray) : Nat :=
  let share := fun z => if v.zones.get z == .on then s.weight z * v.duty.get z else 0
  let sum := min 100 ((share .l + share .r + share .c + share .mouth) / 100)
  if v.waterState == .reserve then sum * v.reserve / 100 else sum

/-- The evaluation of R136 with all that follows it in the same event: duties, valves, pump demand (R137 to
R140). -/
def evaluateZones (s : State) : State :=
  let v := s.spray.evaluate
  let duty := s.pumpDutyOf v
  let demand := ceilDiv (duty * s.item 18) 100
  postPump demand (s.modSpray fun _ => { v with pumpDuty := duty, pumpDemand := demand })

/-! ## Dwell (R139) -/

/-- The dwell condition at a WHEEL gate expiry. -/
def Spray.dwellStep (v : Spray) : Spray :=
  if v.wheelSpeed = 0 then
    match v.dwell with
    | .moving =>
      if v.dwellDelay = 0 then { v with dwell := .standing }
      else { v with dwell := .dwelling, dwellTimer := .running v.dwellDelay }
    | _ => v
  else
    match v.dwell with
    | .dwelling => { v with dwell := .moving, dwellTimer := .stopped }
    | _ => { v with dwell := .moving }

/-! ## Handing on (R135) -/

def sprayTakesArm (a : Arm) (st : ArmState) (s : State) : State :=
  evaluateZones (s.modSpray fun v => { v with armState := v.armState.set a st })

def sprayTakesWater (w : WaterState) (s : State) : State :=
  evaluateZones (s.modSpray fun v => { v with waterState := w })

def sprayTakesSafeStop (on : Bool) (s : State) : State :=
  evaluateZones (s.modSpray fun v => { v with safeStop := on })

def sprayTakesSpeed (speed : Int) (s : State) : State :=
  evaluateZones (s.modSpray fun v => { v with wheelSpeed := speed }.dwellStep)

/-- A FROST switch event: FROST is raised on assertion, with the zones that were ON before it (R143). -/
def sprayTakesFrost (raise : Raiser) (on : Bool) (s : State) : State :=
  let were := s.spray.zones.map (· == .on)
  let t := evaluateZones (s.modSpray fun v => { v with frost := on })
  if on then raise (t.raiseOf .none (.frost were)) t else t

/-- A FLOW pulse at the dry-run timer (R144). -/
def dryRunPulse (s : State) : State :=
  s.modSpray fun v => if 0 < v.pumpGrant then { v with dryRunTimer := .running (s.item 29) } else v

/-- A FORCE_ZONE_OFF action: the override of the zones named, and completion at once with those that changed
(R142), in front of what the end of the event raises (log entry 43). -/
def forceZones (e : EntryNo) (z : Option Zone) (s : State) : State :=
  let named := PerZone.of fun i => z == none || z == some i
  let changed := PerZone.of fun i => named.get i && !s.spray.forcedOff.get i
  completeWith e .forcedOff changed (evaluateZones (s.modSpray fun v =>
    { v with forcedOff := PerZone.of fun i => named.get i || v.forcedOff.get i }))

/-- READ_SPRAY's items (R151). -/
def sprayView (s : State) : SprayView where
  zones := s.spray.zones
  forcedOff := s.spray.forcedOff
  duty := s.spray.duty
  valves := s.spray.valves
  frost := s.spray.frost
  waterState := s.spray.waterState
  safeStop := s.spray.safeStop
  dwell := s.spray.dwell
  dwellTimer := s.spray.dwellTimer
  dwellDelay := s.spray.dwellDelay
  zoneSet := s.spray.zoneSet
  reserve := s.spray.reserve
  pumpDuty := s.spray.pumpDuty
  pumpDemand := s.spray.pumpDemand
  pumpGrant := s.spray.pumpGrant
  pumpOut := s.spray.pumpOut
  dryRunTimer := s.spray.dryRunTimer

end Sys2Proof.Machine
end

