-- ==== Sys2Proof/Machine/Tank.lean ====
section
/-! DEFINITION. The Water Account: the estimate, the tank switches, the water state and its factors, refill and swept
distance (R145 to R150). -/

namespace Sys2Proof.Machine

/-- The greatest value of the dispensed and swept-distance counters (R145). -/
def counterMax : Nat := 4294967295

/-- The water state of an account (R148). -/
def Water.stateFor (w : Water) (lowVolume : Nat) : WaterState :=
  if w.dryLatch || w.estimate == 0 then .empty
  else if lowVolume < w.estimate && !w.low then .ample
  else .reserve

/-- The estimate held at or below the low volume while LOW is asserted (R147). -/
def Water.clampLow (w : Water) (lowVolume : Nat) : Water :=
  if w.low then { w with estimate := min w.estimate lowVolume } else w

/-- The factor of entering a water state (R148). -/
def Water.factor (w : Water) : WaterState → Option Detail
  | .ample => none
  | .reserve => some (.waterLow w.estimate w.low)
  | .empty => some (.waterEmpty w.estimate w.dryLatch)

/-- The state handed to the Spray Unit, and to the TG as EMPTY or not (R148). -/
def handWater (s : State) : State :=
  let t := sprayTakesWater s.water.state s
  let empty := s.water.state == .empty
  if s.travel.waterEmpty == empty then t
  else (t.modTravel fun g => { g with waterEmpty := empty }).needCeiling

/-- R148: the state recomputed; where it changes, its factor is raised and then the state is handed on. -/
def recomputeWater (raise : Raiser) (s : State) : State :=
  let now := s.water.stateFor (s.item 23)
  if now = s.water.state then s
  else
    let t := s.modWater fun w => { w with state := now }
    handWater (match t.water.factor now with
      | some d => raise (t.raiseOf .none d) t
      | none => t)

/-- A FLOW pulse counted (R146). -/
def Water.pulse (w : Water) (perLitre : Nat) : Water :=
  if w.pulses + 1 < perLitre then { w with pulses := w.pulses + 1 }
  else { w with pulses := 0, dispensed := min (w.dispensed + 1) counterMax, estimate := w.estimate - 1 }

/-- A FLOW pulse at the account; the water state is recomputed when a litre has passed (R146, R148). -/
def waterTakesPulse (raise : Raiser) (s : State) : State :=
  match s.item? 24 with
  | none => s
  | some n =>
    let t := s.modWater fun w => w.pulse n
    if s.water.pulses + 1 < n then t else recomputeWater raise t

/-- R147: the account at a FULL rise; with the capacity unwritten the estimate stands. -/
def Water.fill (w : Water) (capacity : Option Nat) (lowVolume : Nat) : Water :=
  { w with estimate := capacity.getD w.estimate, pulses := 0, dryLatch := false }.clampLow lowVolume

/-- FULL's switch event (R147). -/
def waterTakesFull (raise : Raiser) (on : Bool) (s : State) : State :=
  let t := s.modWater fun w => { w with full := on }
  if on then recomputeWater raise (t.modWater fun w => w.fill (s.item? 22) (s.item 23))
  else t

/-- LOW's switch event (R147). -/
def waterTakesLow (raise : Raiser) (on : Bool) (s : State) : State :=
  recomputeWater raise (s.modWater fun w => { w with low := on }.clampLow (s.item 23))

/-- The Spray Unit reports a dry run: the latch is set and PUMP_DRY raised before WATER_EMPTY (R144, R148). -/
def waterRunsDry (raise : Raiser) (s : State) : State :=
  let t := s.modWater fun w => { w with dryLatch := true }
  recomputeWater raise (raise (t.raiseOf .none (.pumpDry t.water.estimate)) t)

/-- REFILL's effect on the account, before the state is recomputed (R149). -/
def Water.refill (w : Water) (volume capacity lowVolume : Nat) : Water :=
  { w with estimate := min volume capacity, pulses := 0, dryLatch := false, dispensed := 0, swept := 0,
           sweptPulses := 0 }.clampLow lowVolume

/-- Swept distance at a WHEEL gate expiry (R150). -/
def Water.sweep (w : Water) (count perMetre : Nat) : Water :=
  if PerArm.anySet w.armDown && decide (0 < perMetre) then
    let sum := w.sweptPulses + count
    { w with sweptPulses := sum % perMetre, swept := min (w.swept + sum / perMetre) counterMax }
  else w

def waterTakesArm (a : Arm) (st : ArmState) (s : State) : State :=
  s.modWater fun w => { w with armDown := w.armDown.set a st.isDown }

/-- READ_WATER's items (R152). -/
def waterView (s : State) : WaterView where
  estimate := s.water.estimate
  pulses := s.water.pulses
  state := s.water.state
  dryLatch := s.water.dryLatch
  dispensed := s.water.dispensed
  swept := s.water.swept
  low := s.water.low
  full := s.water.full
  waterFlow := s.capture.waterFlow

end Sys2Proof.Machine
end

