-- ==== Sys2Proof/Machine/Changeover.lean ====
section
/-! DEFINITION. The Profile Unit's values in force and the changeover record: handing on, progress, completion,
cutting short, overtaking (R44, R45, R58 to R67). -/

namespace Sys2Proof.Machine

/-! ## Slots -/

def State.slot (s : State) (n : SlotNo) : Slot := s.profile.slots[n]

def Slot.record? : Slot → Option Profile
  | .empty => none
  | .held _ r => some r

def Slot.usedAs (u : SlotUse) : Slot → Bool
  | .held v _ => v == u
  | .empty => false

def Slot.become (u : SlotUse) : Slot → Slot
  | .held _ r => .held u r
  | .empty => .empty

/-- The slot in a state that at most one slot has (R41). -/
def State.slotUsed (s : State) (u : SlotUse) : Option SlotNo :=
  (List.finRange 8).find? fun n => (s.slot n).usedAs u

/-- Every slot in state u becomes v. -/
def State.moveSlots (s : State) (u v : SlotUse) : State :=
  s.modProfile fun p => { p with slots := p.slots.map fun x => if x.usedAs u then x.become v else x }

def State.setSlot (s : State) (n : SlotNo) (x : Slot) : State :=
  s.modProfile fun p => { p with slots := p.slots.set n x }

/-! ## The values in force (R44) -/

/-- What the Profile Unit hands to the blocks that read the profile in force. -/
structure Values where
  limit : ProfileLimit
  arms : ArmSet
  levels : PerArm Nat
  zones : ZoneSet
  dwell : Nat
  reserve : Nat
  points : List Point

/-- A profile's values under a ceiling; the level of an arm outside the set is 0. -/
def Profile.values (r : Profile) (limit : ProfileLimit) : Values where
  limit := limit
  arms := r.arms
  levels := PerArm.of fun a => if r.arms.get a then r.levels.get a else 0
  zones := r.zones
  dwell := r.dwell
  reserve := r.reserve
  points := r.points

/-- The transport values under a ceiling. -/
def Values.transport (limit : ProfileLimit) : Values where
  limit := limit
  arms := .all false
  levels := .all 0
  zones := .all false
  dwell := 0
  reserve := 100
  points := []

def Values.ofSide (limit : ProfileLimit) : Option Profile → Values
  | some r => r.values limit
  | none => Values.transport limit

/-- The lower of two sides' ceilings; an absent side stands at the commissioned maximum (log entry 28). -/
def sideLimit : Option Profile → Option Profile → ProfileLimit
  | some f, some t => .fixed (min f.ceiling t.ceiling)
  | some r, none => .lowerOfMaximum r.ceiling
  | none, some r => .lowerOfMaximum r.ceiling
  | none, none => .maximum

/-- One side's ceiling. -/
def oneLimit : Option Profile → ProfileLimit
  | some r => .fixed r.ceiling
  | none => .maximum

def State.recordAt (s : State) (n : Option SlotNo) : Option Profile := n.bind fun i => (s.slot i).record?

/-- The values in force (R44). -/
def State.valuesInForce (s : State) : Values :=
  match s.profile.changeover with
  | none =>
    let r := s.recordAt (s.slotUsed .active)
    Values.ofSide (oneLimit r) r
  | some c =>
    let f := s.recordAt c.fromSlot
    let t := s.recordAt c.toSlot
    match c.kind with
    | .select => Values.ofSide (sideLimit f t) t
    | .toTransport => Values.transport (oneLimit f)
    | .reapply => Values.ofSide (oneLimit t) t
    | .abortReturn => Values.ofSide (sideLimit f t) f

/-! ## What an arm commands (R111, R130, R131) -/

/-- The rotation target of an arm (R131). -/
def ArmUnit.targetNow (u : ArmUnit) : Nat :=
  match u.state with
  | .working => rotationAt u.points u.wheelSpeed
  | .deflected => rotationAt u.points u.wheelSpeed / 2
  | _ => 0

/-- R132: the stall condition. -/
def ArmUnit.stalling (u : ArmUnit) (brushMax : Nat) : Bool :=
  decide (0 < u.rotTarget) && decide (u.brushSpeed * 400 < u.rotTarget * brushMax)

/-- R132: a stall test. -/
def ArmUnit.stallTest (u : ArmUnit) (brushMax stallTime : Nat) : ArmUnit :=
  if u.stalling brushMax then
    if u.stallTimer.isRunning || u.stallExpired then u else { u with stallTimer := .running stallTime }
  else { u with stallTimer := .stopped, stallExpired := false }

/-- R111: outputs and rotation demand from the arm's state; a changed rotation target brings a stall test. -/
def ArmUnit.refresh (u : ArmUnit) (rotFull brushMax stallTime : Nat) : ArmUnit :=
  let target := u.targetNow
  let v := { u with
    liftDownOpen := u.state == .lowering && u.sub == .moving
    liftUpOpen := u.state == .raising && u.sub == .moving
    force := if u.state == .working then u.level * 100 / 15 else 0
    rotTarget := target
    rotDemand := ceilDiv (target * rotFull) 100
    rot := u.rotOut rotFull }
  if target = u.rotTarget then v else v.stallTest brushMax stallTime

/-- The arm refreshed, its rotation demand posted. -/
def refreshArm (a : Arm) (s : State) : State :=
  let t := s.modArm a fun u => u.refresh (s.item 12) (s.item 10) (s.item 13)
  postRotation a (t.arms.get a).rotDemand t

/-! ## Handing on (R45) -/

def armTakesValues (v : Values) (a : Arm) (s : State) : State :=
  refreshArm a (s.modArm a fun u =>
    { u with inSet := v.arms.get a, level := v.levels.get a, points := v.points })

/-- The values in force handed to the Travel Governor, the Arm Units and the Spray Unit. -/
def handValues (s : State) : State :=
  let v := s.valuesInForce
  let t := (s.modTravel fun g =>
    { g with profileLimit := v.limit, zonesEmpty := !PerZone.anySet v.zones }).needCeiling
  let t := armTakesValues v .c (armTakesValues v .r (armTakesValues v .l t))
  evaluateZones (t.modSpray fun p =>
    { p with zoneSet := v.zones, points := v.points, dwellDelay := v.dwell, reserve := v.reserve })

/-! ## The end of a changeover (R60, R64, R67) -/

def changeoverDone (raise : Raiser) (c : Changeover) (o : ChangeOutcome) (e : ChangeEnding) (s : State) : State :=
  let active := s.slotUsed .active
  let name := ((s.recordAt active).map Profile.name).getD 0
  let subject := match active with
    | some n => Subject.slot n
    | none => Subject.none
  raise (s.raiseOf subject (.changeoverDone o c.kind e c.degraded name)) s

def State.dropRecord (s : State) : State := s.modProfile fun p => { p with changeover := none }

/-- R60: the slot states by kind. -/
def endSlots (k : ChangeKind) (s : State) : State :=
  match k with
  | .select => (s.moveSlots .outgoing .ready).moveSlots .incoming .active
  | .toTransport => s.moveSlots .outgoing .ready
  | .reapply => s
  | .abortReturn => (s.moveSlots .incoming .ready).moveSlots .outgoing .active

/-- R60: completion. -/
def completeChangeover (raise : Raiser) (c : Changeover) (s : State) : State :=
  let outcome := if c.kind = .abortReturn then .aborted else if c.degraded then .degraded else .completed
  changeoverDone raise c outcome .arms (handValues ((endSlots c.kind s).dropRecord))

/-- A record with no pending arm left completes, unless its arms are still being given their targets (R57, R58). -/
def completeIfDone (raise : Raiser) (s : State) : State :=
  match s.profile.changeover with
  | some c =>
    if s.work.targeting then s
    else if c.pending = .all none then completeChangeover raise c s else s
  | none => s

def ArmState.meets (st : ArmState) : ArmTarget → Bool
  | .stowed => st == .stowed
  | .down => st.isDown

/-- R59: an arm's report against its entry. -/
def changeoverProgress (raise : Raiser) (a : Arm) (st : ArmState) (s : State) : State :=
  match s.profile.changeover with
  | none => s
  | some c =>
    match c.pending.get a with
    | none => s
    | some p =>
      if st == .fault || st.meets p.target then
        let d := { c with pending := c.pending.set a none, degraded := c.degraded || st == .fault }
        completeIfDone raise (s.modProfile fun v => { v with changeover := some d })
      else s

/-- R64: safe stop cuts a changeover short. -/
def cutShort (raise : Raiser) (s : State) : State :=
  match s.profile.changeover with
  | none => s
  | some c =>
    changeoverDone raise c .aborted .safeStop
      (handValues (((s.moveSlots .incoming .ready).moveSlots .outgoing .active).dropRecord))

/-- R61, R65: the arm's entry is marked overtaken. -/
def overtake (a : Arm) (s : State) : State :=
  match s.profile.changeover with
  | none => s
  | some c =>
    match c.pending.get a with
    | none => s
    | some p =>
      let d := { c with pending := c.pending.set a (some { p with overtaken := true }) }
      s.modProfile fun v => { v with changeover := some d }

/-- An arm pending and not overtaken (R58). -/
def State.involved (s : State) (a : Arm) : Bool :=
  match s.profile.changeover with
  | some c => match c.pending.get a with
    | some p => !p.overtaken
    | none => false
  | none => false

/-! ## The draft (R52) -/

def closeDraft (s : State) : State := s.modProfile fun p => { p with draft := none }

end Sys2Proof.Machine
end

