-- ==== Sys2Proof/Machine/ArmMotion.lean ====
section
/-! DEFINITION. The Arm Units: entering, reversing and ending a motion, halting, faulting, switch events, deflection,
stow orders, reaction actions, and the report of every change of state (R110 to R133). -/

namespace Sys2Proof.Machine

def State.arm (s : State) (a : Arm) : ArmUnit := s.arms.get a

/-! ## The report of a change of state (R112) -/

/-- The Supervision Unit's copy; becoming STOWED or FAULT brings the test of R185. -/
def superTakesArm (a : Arm) (st : ArmState) (s : State) : State :=
  let done := st == .stowed || st == .fault
  let t := s.modSupervision fun v => { v with armDone := v.armDone.set a done }
  if done then settledTest t else t

/-- The report: the TG, the Spray Unit, the Water Account and the Supervision Unit take the state the arm now has,
the Profile Unit the state of this change (log entry 13). -/
def reportArm (raise : Raiser) (a : Arm) (st : ArmState) (s : State) : State :=
  let now := (s.arm a).state
  let t := travelTakesArm a (now == .stowed) (now == .lowering || now == .raising) s
  let t := sprayTakesArm a (t.arm a).state t
  let t := waterTakesArm a (t.arm a).state t
  let t := superTakesArm a (t.arm a).state t
  changeoverProgress raise a st t

/-- A reaction in flight on the arm completes (R126). -/
def endReaction (a : Arm) (o : ActionOutcome) (s : State) : State :=
  match (s.arm a).reaction with
  | some e => complete e o (s.modArm a fun u => { u with reaction := none })
  | none => s

/-- The arm's factors in their order, each with its detail of the arm as it then stands. -/
def raiseArm (raise : Raiser) (a : Arm) (factors : List (ArmUnit → Detail)) (s : State) : State :=
  factors.foldl (fun t d => raise (t.raiseOf (.arm a) (d (t.arm a))) t) s

/-- After a change of the arm's record: outputs and demand, then its factors, then the completion of its reaction,
then the report, so that a CHANGEOVER_DONE stands behind the factors (R111, R112, R119, R123; log entry 13). -/
def announce (raise : Raiser) (a : Arm) (st : ArmState) (factors : List (ArmUnit → Detail))
    (outcome : Option ActionOutcome) (s : State) : State :=
  let t := raiseArm raise a factors (refreshArm a s)
  let t := match outcome with
    | some o => endReaction a o t
    | none => t
  reportArm raise a st t

/-! ## Ending a motion (R119) -/

/-- The origin is none before ARM_SETTLED is raised, so that an origin REACTION of a RAISE_ARM which that raise starts
stands (log entry 49). -/
def endLowering (raise : Raiser) (a : Arm) (s : State) : State :=
  let u := s.arm a
  let st := if u.contact then ArmState.deflected else .working
  announce raise a st [fun _ => .armSettled st u.origin] none
    ((withdrawLift a s).modArm a fun u =>
      { u with state := st, sub := .none, motionTimer := .stopped, origin := .none,
               pinnedTimer := if u.contact then .running (s.item 14) else u.pinnedTimer })

/-- Factors that R112 wants before the report follow ARM_SETTLED; the origin is none before both (log entry 49). -/
def endRaising (raise : Raiser) (a : Arm) (factors : List (ArmUnit → Detail)) (s : State) : State :=
  let o := (s.arm a).origin
  announce raise a .stowed ((fun _ => .armSettled .stowed o) :: factors) (some .stowed)
    ((withdrawLift a s).modArm a fun u =>
      { u with state := .stowed, sub := .none, motionTimer := .stopped, origin := .none })

/-! ## Entering a motion (R118) -/

/-- The awaiting-speed test against the last published speed. -/
def State.slowEnough (s : State) (a : Arm) : Bool := decide ((s.arm a).wheelSpeed.natAbs ≤ s.item 7)

/-- The end of awaiting-speed: the lift demand is posted. -/
def awaitFlow (a : Arm) (s : State) : State :=
  postLift a (s.modArm a fun u => { u with sub := .awaitingFlow })

def enterLowering (raise : Raiser) (a : Arm) (o : Origin) (s : State) : State :=
  let t := s.modArm a fun u => { u with target := .down, origin := o, motionTimer := .stopped }
  if (t.arm a).down then endLowering raise a t
  else
    let t := t.modArm a fun u => { u with state := .lowering, sub := .awaitingSpeed }
    announce raise a .lowering [] none (if t.slowEnough a then awaitFlow a t else t)

/-- The factors given follow the entry and come before the report, at UP behind ARM_SETTLED (R112, R119, R129). -/
def enterRaising (raise : Raiser) (a : Arm) (o : Origin) (factors : List (ArmUnit → Detail)) (s : State) : State :=
  let t := s.modArm a fun u =>
    { u with target := .stowed, origin := o, motionTimer := .stopped, settleTimer := .stopped,
             pinnedTimer := .stopped }
  if (t.arm a).up then endRaising raise a factors t
  else announce raise a .raising factors none (awaitFlow a (t.modArm a fun u => { u with state := .raising }))

/-! ## Reversals (R122) -/

def reverseToRaising (raise : Raiser) (a : Arm) (o : Origin) (s : State) : State :=
  let t := s.modArm a fun u => { u with target := .stowed, origin := o, motionTimer := .stopped }
  if (t.arm a).up then endRaising raise a [] t
  else
    let t := t.modArm a fun u => { u with state := .raising }
    announce raise a .raising [] none
      (if (t.arm a).sub == .moving then t.modArm a fun u => { u with motionTimer := .running (s.item 9) }
       else awaitFlow a t)

def reverseToLowering (raise : Raiser) (a : Arm) (o : Origin) (s : State) : State :=
  let t := s.modArm a fun u => { u with target := .down, origin := o, motionTimer := .stopped }
  if (t.arm a).down then endLowering raise a t
  else
    let t := t.modArm a fun u => { u with state := .lowering }
    announce raise a .lowering [] none
      (if t.slowEnough a then
        if (t.arm a).sub == .moving then t.modArm a fun u => { u with motionTimer := .running (s.item 8) } else t
       else (withdrawLift a t).modArm a fun u => { u with sub := .awaitingSpeed })

/-- LOWER by the arm's state (R114), for any cause. -/
def takeLower (raise : Raiser) (a : Arm) (o : Origin) (s : State) : State :=
  match (s.arm a).state with
  | .stowed => enterLowering raise a o s
  | .halted => enterLowering raise a o s
  | .raising => reverseToLowering raise a o s
  | _ => s

/-- RAISE by the arm's state (R115), for any cause. -/
def takeRaise (raise : Raiser) (a : Arm) (o : Origin) (s : State) : State :=
  match (s.arm a).state with
  | .working => enterRaising raise a o [] s
  | .deflected => enterRaising raise a o [] s
  | .halted => enterRaising raise a o [] s
  | .lowering => reverseToRaising raise a o s
  | _ => s

/-! ## Halting and faulting (R116, R117, R123) -/

def ArmUnit.stopAll (u : ArmUnit) : ArmUnit :=
  { u with sub := .none, motionTimer := .stopped, settleTimer := .stopped, pinnedTimer := .stopped,
           stallTimer := .stopped, origin := .none }

/-- An arm that HALT stops (R116). -/
def ArmState.halts : ArmState → Bool
  | .lowering => true
  | .raising => true
  | .working => true
  | .deflected => true
  | _ => false

def haltArm (raise : Raiser) (a : Arm) (s : State) : State :=
  if (s.arm a).state.halts then
    announce raise a .halted [] none
      ((withdrawLift a s).modArm a fun u => { u.stopAll with state := .halted })
  else s

def faultArm (raise : Raiser) (a : Arm) (c : FaultCause) (s : State) : State :=
  let u := s.arm a
  announce raise a .fault [fun _ => .armFault c u.state u.origin] (some .faulted)
    ((withdrawLift a s).modArm a fun u => { u.stopAll with state := .fault, fault := c })

def clearFault (raise : Raiser) (a : Arm) (s : State) : State :=
  announce raise a .halted [] none (s.modArm a fun u => { u with state := .halted, fault := .none })

/-! ## Stow orders and reaction actions (R125, R126) -/

/-- The lift demand and the raise timeout are written (R115, R125, R126). -/
def State.canRaise (s : State) (a : Arm) : Bool := (s.liftItem? a).isSome && (s.item? 9).isSome

/-- R125: a stow order; a pending arm is marked overtaken. -/
def stowOrder (raise : Raiser) (a : Arm) (s : State) : State :=
  let t := overtake a s
  if t.canRaise a then takeRaise raise a .stowOrder t else t

/-- An earlier RAISE_ARM in flight on the arm is superseded, and a pending arm is marked overtaken (R126, R61). -/
def supersede (a : Arm) (s : State) : State := overtake a (endReaction a .superseded s)

/-- RAISE_ARM handed to the arm (R126; the order of its outcomes is log entry 20). Where it completes at once its raise
is delivered here, in front of what the end of the event raises; an arm at UP has made its report by then, so that the raise
stands behind a CHANGEOVER_DONE which that report brings (log entry 43). -/
def raiseAction (raise : Raiser) (e : EntryNo) (a : Arm) (s : State) : State :=
  let t := supersede a s
  let u := t.arm a
  if u.state = .stowed then complete e .stowed t
  else if u.state = .fault then complete e .faulted t
  else if !t.canRaise a then complete e .notCommissioned t
  else if u.up && u.state != .raising then complete e .stowed (takeRaise raise a .reaction t)
  else takeRaise raise a .reaction (t.modArm a fun u => { u with reaction := some e })

/-- HALT_ARM handed to the arm (R126). The raise it held is delivered here, in front of the FLOW_SHORT and the
CEILING_CHANGED that the end of the event brings for the arm's new state (log entry 43). -/
def haltAction (raise : Raiser) (e : EntryNo) (a : Arm) (s : State) : State :=
  let t := haltArm raise a (supersede a s)
  complete e (match (t.arm a).state with
    | .stowed => .stowed
    | .fault => .faulted
    | _ => .halted) t

/-! ## Switch events and deflection (R120, R127, R128) -/

/-- R127. -/
def deflect (raise : Raiser) (a : Arm) (s : State) : State :=
  announce raise a .deflected [fun u => .armDeflected u.wheelSpeed u.rotTarget] none
    (s.modArm a fun u => { u with state := .deflected, pinnedTimer := .running (s.item 14) })

/-- UP and DOWN both asserted on an arm that is not in FAULT (R120). -/
def ArmUnit.conflicts (u : ArmUnit) : Bool := u.up && u.down && u.state != .fault

/-- After the UP or DOWN copy has changed: the conflict test, then the end of a motion. -/
def endSwitchEvent (raise : Raiser) (a : Arm) (s : State) : State :=
  let u := s.arm a
  if u.conflicts then faultArm raise a .switchConflict s
  else if u.down && u.state == .lowering then endLowering raise a s
  else if u.up && u.state == .raising then endRaising raise a [] s
  else s

def armTakesUp (raise : Raiser) (a : Arm) (on : Bool) (s : State) : State :=
  endSwitchEvent raise a (s.modArm a fun u => { u with up := on })

def armTakesDown (raise : Raiser) (a : Arm) (on : Bool) (s : State) : State :=
  endSwitchEvent raise a (s.modArm a fun u => { u with down := on })

/-- The timers of a DEFLECTED arm at a CONTACT event (R128). -/
def ArmUnit.contactTimers (u : ArmUnit) (limit : Nat) : ArmUnit :=
  if u.state == .deflected then
    if u.contact then
      if u.settleTimer.isRunning then { u with settleTimer := .stopped, pinnedTimer := .running limit } else u
    else { u with settleTimer := .running 300, pinnedTimer := .stopped }
  else u

def armTakesContact (raise : Raiser) (a : Arm) (on : Bool) (s : State) : State :=
  let t := s.modArm a fun u => { u with contact := on }
  if on && (t.arm a).state == .working then deflect raise a t
  else t.modArm a fun u => u.contactTimers (s.item 14)

/-! ## Measured speeds (R77, R78) -/

/-- A WHEEL gate expiry at the arm: the awaiting-speed test and the rotation target. -/
def armTakesSpeed (speed : Int) (a : Arm) (s : State) : State :=
  let t := s.modArm a fun u => { u with wheelSpeed := speed }
  refreshArm a (if (t.arm a).sub == .awaitingSpeed && t.slowEnough a then awaitFlow a t else t)

/-- A brush gate expiry at the arm: a stall test (R132). -/
def armTakesBrush (speed : Nat) (a : Arm) (s : State) : State :=
  s.modArm a fun u => { u with brushSpeed := speed }.stallTest (s.item 10) (s.item 13)

/-! ## Timer expiries -/

/-- R123. -/
def motionExpiry (raise : Raiser) (a : Arm) (s : State) : State :=
  faultArm raise a (if (s.arm a).state == .lowering then .lowerTimeout else .raiseTimeout) s

/-- R128: back to WORKING. -/
def settleExpiry (raise : Raiser) (a : Arm) (s : State) : State :=
  announce raise a .working [] none (s.modArm a fun u => { u with state := .working, settleTimer := .stopped })

/-- R129: the automatic raise. -/
def pinnedExpiry (raise : Raiser) (a : Arm) (s : State) : State :=
  enterRaising raise a .pinned [fun u => .armPinned (s.item 14) u.wheelSpeed] s

/-- R132: the mark is set before the factor is raised (log entry 15). -/
def stallExpiry (raise : Raiser) (a : Arm) (s : State) : State :=
  let t := s.modArm a fun u => { u with stallTimer := .stopped, stallExpired := true }
  let u := t.arm a
  raise (t.raiseOf (.arm a) (.rotationStall u.rotTarget u.brushSpeed u.rotGrant)) t

/-- READ_ARM's items (R133). -/
def armView (u : ArmUnit) : ArmView where
  state := u.state
  sub := u.sub
  target := u.target
  origin := u.origin
  fault := u.fault
  motionTimer := u.motionTimer
  settleTimer := u.settleTimer
  pinnedTimer := u.pinnedTimer
  stallTimer := u.stallTimer
  rotTarget := u.rotTarget
  rotDemand := u.rotDemand
  rotGrant := u.rotGrant
  liftPosted := u.liftPosted
  liftGrant := u.liftGrant
  reaction := u.reaction
  level := u.level
  brushSpeed := u.brushSpeed
  up := u.up
  down := u.down
  contact := u.contact
  liftDownOpen := u.liftDownOpen
  liftUpOpen := u.liftUpOpen
  force := u.force
  rot := u.rot

end Sys2Proof.Machine
end

