-- ==== Sys2Proof/Machine/SafeStop.lean ====
section
/-! DEFINITION. Starting and turning back a changeover, and entering and leaving safe stop (R57, R58, R62, R63, R96,
R181 to R183). -/

namespace Sys2Proof.Machine

/-! ## Changeover targets (R58) -/

def setPending (a : Arm) (p : PendingArm) (s : State) : State :=
  match s.profile.changeover with
  | some c => s.modProfile fun v => { v with changeover := some { c with pending := c.pending.set a (some p) } }
  | none => s

def setDegraded (s : State) : State :=
  match s.profile.changeover with
  | some c => s.modProfile fun v => { v with changeover := some { c with degraded := true } }
  | none => s

/-- R58: one arm given its changeover target. -/
def giveTarget (raise : Raiser) (a : Arm) (t : ArmTarget) (s : State) : State :=
  let u := s.arm a
  if u.state = .fault then setDegraded s
  else if u.state.meets t then s
  else if u.reaction.isSome then setPending a ⟨t, true⟩ s
  else
    let s := setPending a ⟨t, false⟩ s
    match t with
    | .down => takeLower raise a .changeover s
    | .stowed => takeRaise raise a .changeover s

def targetFor (set : ArmSet) (a : Arm) : ArmTarget := if set.get a then .down else .stowed

def State.targeting (s : State) (on : Bool) : State := s.modWork fun w => { w with targeting := on }

/-- The three arms in turn, no completion before the last (R57, R58). R58 says "in turn" and gives no order: L, R,
centre is the model's choice (log entry 36). -/
def giveTargets (raise : Raiser) (set : ArmSet) (s : State) : State :=
  (Arm.list.foldl (fun t a => giveTarget raise a (targetFor set a) t) (s.targeting true)).targeting false

/-- The arm set of a side of the changeover; empty where there is none. -/
def State.sideArms (s : State) (n : Option SlotNo) : ArmSet :=
  ((s.recordAt n).map Profile.arms).getD (.all false)

/-- R57: the slots and the record of a SELECT_PROFILE accepted. -/
def startRecord (target : Option SlotNo) (s : State) : State :=
  let t := s.moveSlots .active .outgoing
  let t := match target with
    | some n => t.setSlot n ((t.slot n).become .incoming)
    | none => t
  let kind := match target with
    | some _ => ChangeKind.select
    | none => .toTransport
  t.modProfile fun p => { p with changeover := some ⟨kind, s.slotUsed .active, target, s.time, .all none, false⟩ }

/-- R57: a SELECT_PROFILE accepted. -/
def startChangeover (raise : Raiser) (target : Option SlotNo) (s : State) : State :=
  let t := startRecord target s
  completeIfDone raise (giveTargets raise (t.sideArms target) (handValues t))

/-- R62: the slots and the record of an ABORT_CHANGEOVER accepted. -/
def abortRecord (c : Changeover) (s : State) : State :=
  let t := if c.kind = .reapply then s.moveSlots .active .incoming else s
  let d := { c with kind := .abortReturn, start := s.time, pending := .all none }
  t.modProfile fun p => { p with changeover := some d }

/-- R62: an ABORT_CHANGEOVER accepted. -/
def abortChangeover (raise : Raiser) (c : Changeover) (s : State) : State :=
  let t := abortRecord c s
  completeIfDone raise (handValues (giveTargets raise (t.sideArms c.fromSlot) t))

/-- R63: a REAPPLY of the ACTIVE slot, where there is one. -/
def startReapply (raise : Raiser) (s : State) : State :=
  match s.slotUsed .active with
  | none => s
  | some n =>
    let t := s.modProfile fun p =>
      { p with changeover := some ⟨.reapply, none, some n, s.time, .all none, false⟩ }
    completeIfDone raise (giveTargets raise (t.sideArms (some n)) (handValues t))

/-! ## Safe stop (R181, R182) -/

def SafeCauses.add (c : SafeCauses) : SafeCause → SafeCauses
  | .request => { c with request := true }
  | .operator => { c with operator := true }
  | .noStation => { c with noStation := true }
  | .clockFault => { c with clockFault := true }

/-- The TG is told of safe stop, or of a cause added to it (R96). -/
def travelTakesCause (s : State) : State := enterStopping (fun c => { c with safeStop := true }) s

/-- Safe stop coming into force, handed to the four blocks (R182; their order is log entry 14, that of the three arms
log entry 36). -/
def handSafeStop (raise : Raiser) (s : State) : State :=
  let t := travelTakesCause (s.modTravel fun g => { g with safeStop := true })
  let t := cutShort raise t
  let t := Arm.list.foldl (fun t a => stowOrder raise a t) t
  sprayTakesSafeStop true t

/-- R181: safe stop entered, or a cause added to it. -/
def enterSafeStop (raise : Raiser) (c : SafeCause) (s : State) : State :=
  let already := s.supervision.safeStop
  let t := s.modSupervision fun v => { v with safeStop := true, causes := v.causes.add c }
  let t := raise (t.raiseOf (.cause c) (.safeStopEntered t.supervision.causes already)) t
  if already then travelTakesCause t else handSafeStop raise t

/-- R183: safe stop ended by RESUME. -/
def leaveSafeStop (raise : Raiser) (s : State) : State :=
  let ended := s.supervision.causes
  let t := s.modSupervision fun v => { v with safeStop := false, causes := SafeCauses.empty }
  let t := raise (t.raiseOf .none (.safeStopLeft ended)) t
  let t := t.modTravel fun g => { g with safeStop := false }
  startReapply raise (sprayTakesSafeStop false t)

/-- The crystal is declared lost (R70, R181). -/
def clockFault (raise : Raiser) (s : State) : State :=
  enterSafeStop raise .clockFault (raise (s.raiseOf .none (.clockFault s.clock.lastCycles)) s)

/-- R181: the SEAT input at the Supervision Unit; the copy of the speed is the TG's. -/
def superTakesSeat (raise : Raiser) (on : Bool) (s : State) : State :=
  if !on && s.supervision.mode == .operational && s.travel.wheelSpeed != 0 then
    enterSafeStop raise .operator
      (raise (s.raiseOf .none (.operatorAbsent s.travel.wheelSpeed s.travel.state)) s)
  else s

/-- R184: an accepted settled reset handed on to the TG and the arms, L, R, centre (log entry 36), then the test of
R185. -/
def handPendingReset (raise : Raiser) (s : State) : State :=
  let t := enterStopping (fun c => { c with resetPending := true })
    (s.modTravel fun g => { g with resetPending := true })
  settledTest (Arm.list.foldl (fun t a => stowOrder raise a t) t)

end Sys2Proof.Machine
end

