-- ==== Sys2Proof/Machine/Reactions.lean ====
section
/-! DEFINITION. Raising a factor: matching, the hand-over of the bound action, delivery (R176). -/

namespace Sys2Proof.Machine

/-- The action of entry e handed to its owner (R176). -/
def handAction (raise : Raiser) (e : EntryNo) (a : Action) (s : State) : State :=
  match a with
  | .raiseArm x => raiseAction raise e x s
  | .haltArm x => haltAction raise e x s
  | .forceZoneOff z => forceZones e z s
  | .capSpeed v => capAction e v s
  | .stopTravel => stopAction e s

/-- One raise, with the raise its action is given (R176). -/
def raiseOnce (inner : Raiser) : Raiser := fun r s =>
  match s.matching r with
  | none => deliverPlain r s
  | some e =>
    match s.reactions[e] with
    | none => deliverPlain r s
    | some b =>
      if b.held.isSome then deliverPlain r s
      else handAction inner e b.action (s.setReaction e (some { b with held := some r }))

/-- Raises nested to a depth; a chain reaches each of the eight entries at most once (R176, log entry 31). -/
def raiseWith : Nat → Raiser
  | 0 => deliverPlain
  | n + 1 => raiseOnce (raiseWith n)

/-- The raise every block is given. -/
def raiseFactor : Raiser := raiseWith 8

end Sys2Proof.Machine
end

