-- ==== Sys2Proof/Machine/Settle.lean ====
section
/-! DEFINITION. The end of an event: the single reallocation and ceiling recomputation it leaves to do, a reset that
it takes, what each kind of reset leaves, and leaving STARTING (R69, R100, R110, R157, R186). -/

namespace Sys2Proof.Machine

/-! ## Resets (R186) -/

/-- The requested kinds keep the commissioning set, the records, the bound entries and the account. -/
def ResetKind.keeps : ResetKind → Bool
  | .immediate => true
  | .settled _ => true
  | _ => false

/-- R187: a station's reset-cause record after a reset. -/
def ResetCauses.after (c : ResetCauses) : ResetKind → ResetCauses
  | .powerOn => { ResetCauses.empty with powerOn := true }
  | .line => { c with line := true }
  | .immediate => { c with immediate := true }
  | .settled timeout => { c with settled := true, settleTimeout := c.settleTimeout || timeout }

def superAfterReset (k : ResetKind) (v : Supervision) : Supervision :=
  let causes := v.resetCauses.map (·.after k)
  if k.keeps then { Supervision.reset with items := v.items, committed := v.committed, resetCauses := causes }
  else { Supervision.reset with resetCauses := causes }

/-- R40: every record kept is READY. -/
def profileAfterReset (k : ResetKind) (p : Profiles) : Profiles :=
  if k.keeps then { Profiles.reset with slots := p.slots.map (Slot.become .ready) } else Profiles.reset

/-- R177: bound entries kept with in flight clear, DRAINING entries FREE. -/
def bindingAfterReset : Option Binding → Option Binding
  | some b => if b.enabled then some { b with held := none } else none
  | none => none

/-- R145: the account kept by a requested reset; its copies are taken anew at leaving STARTING. -/
def waterAfterReset (k : ResetKind) (w : Water) : Water :=
  if k.keeps then { w with armDown := .all false, low := false, full := false } else Water.reset

/-- R85: the gate intervals of the items kept. -/
def captureAfterReset (v : Supervision) : Capture :=
  let interval := fun k => (v.item k).getD 100
  { Capture.reset with
    wheel := CaptureChannel.reset (interval 31)
    brush := ⟨CaptureChannel.reset (interval 32), CaptureChannel.reset (interval 33),
      CaptureChannel.reset (interval 34)⟩
    flow := CaptureChannel.reset (interval 35) }

/-- Pins keep their levels; nothing is sampled (R80, R85). -/
def SwitchInput.unsampled (i : SwitchInput) : SwitchInput := ⟨i.raw, false, .stopped⟩

def Switches.map (f : SwitchInput → SwitchInput) (w : Switches) : Switches where
  up := w.up.map f
  down := w.down.map f
  contact := w.contact.map f
  full := f w.full
  low := f w.low
  frost := f w.frost
  seat := f w.seat

/-- The part after a reset of kind k, the pins as they stand (R13, R17, R28, R40, R46, R55, R69, R71, R85, R86, R110,
R134, R145, R165, R172, R177, R186, R187). -/
def afterReset (k : ResetKind) (s : State) : State :=
  let v := superAfterReset k s.supervision
  let w := waterAfterReset k s.water
  { State.reset with
    pending := s.pending
    freeCount := s.freeCount
    clock := { Clock.reset with
      phase := if s.clock.resetLineAsserted then .held else .settling
      resetLineAsserted := s.clock.resetLineAsserted }
    links := s.links.map fun l => { Link.reset with chipSelectLow := l.chipSelectLow }
    profile := profileAfterReset k s.profile
    capture := captureAfterReset v
    switches := s.switches.map SwitchInput.unsampled
    travel := { Travel.reset with
      ceiling := (v.item 2).getD 0
      waterEmpty := w.state == .empty
      committed := v.committed }
    spray := { Spray.reset with waterState := w.state }
    water := w
    flow := { Flow.reset with capacity := (v.item 20).getD 0 }
    reactions := if k.keeps then s.reactions.map bindingAfterReset else State.reset.reactions
    supervision := v }

/-! ## The end of an event -/

/-- A reallocation and the factors it raises (R157, R162). -/
def reallocPass (raise : Raiser) (s : State) : State :=
  let p := reallocate s
  raiseAll raise p.2 p.1

/-- Whether the reallocation, or an action that one of its factors starts, changes a source of the effective ceiling: the
recomputation of R100 is then complete only after it. -/
def reallocMovesCeiling (raise : Raiser) (s : State) : Bool :=
  (reallocPass raise (s.modWork fun w => { w with ceiling := false })).work.ceiling

/-- One pass over what is left to do. CEILING_CHANGED comes before the FLOW_SHORT factors where no source of the ceiling
changes with them, else after them (log entries 11, 12). -/
def settlePass (raise : Raiser) (s : State) : State :=
  if s.work.realloc then
    if reallocMovesCeiling raise s then reallocPass raise s else reallocPass raise (ceilingCheck raise s)
  else ceilingCheck raise s

def Work.left (w : Work) : Bool := w.realloc || w.ceiling

/-- Passes until nothing is left; the last with no further reaction (log entry 31). -/
def settle : Nat → State → State
  | 0, s => ceilingCheck deliverPlain (if s.work.realloc then reallocPass deliverPlain s else s)
  | n + 1, s => if s.work.left then settle n (settlePass raiseFactor s) else s

/-- What an event leaves to its end: REVERSE_BLOCKED, the passes, the raises of caps met at their hand-over. -/
def settleAll (s : State) : State := deliverReached (settle 16 (raiseBlocked raiseFactor s))

/-- The end of an event: what is left is done, and a reset it has led to is taken (log entry 18). -/
def finish (s : State) : State :=
  let t := settleAll s
  match t.work.reset with
  | some k => afterReset k t
  | none => t.modWork fun _ => Work.clear

/-- An event: its effect with the raise of the reaction table, then its end. -/
def event (f : Raiser → State → State) (s : State) : State := finish (f raiseFactor s)

/-! ## Leaving STARTING (R69, R80, R110, R134, R148, R178) -/

/-- R80: each debounced level is its raw level. -/
def SwitchInput.sample (i : SwitchInput) : SwitchInput := ⟨i.raw, i.raw, .stopped⟩

/-- R3. -/
def Link.leaveStarting (l : Link) : Link :=
  { l with state := if l.chipSelectLow then .disregard else .idle }

def CaptureChannel.load (c : CaptureChannel) : CaptureChannel := { c with timer := .running c.interval }

/-- Clock, mode, links, gate timers and sampled levels. -/
def startRunning (lost : Bool) (s : State) : State :=
  let w := s.switches.map SwitchInput.sample
  { s with
    clock := { s.clock with
      phase := .running
      selector := if lost then .internal else s.clock.selector
      verdict := if lost then .lost else s.clock.verdict }
    links := s.links.map Link.leaveStarting
    capture := { s.capture with
      wheel := s.capture.wheel.load, brush := s.capture.brush.map CaptureChannel.load, flow := s.capture.flow.load }
    switches := w
    arms := PerArm.of fun a => { s.arms.get a with
      up := (w.up.get a).level, down := (w.down.get a).level, contact := (w.contact.get a).level }
    travel := { s.travel with seat := w.seat.level }
    water := { s.water with low := w.low.level, full := w.full.level }
    spray := { s.spray with frost := w.frost.level }
    supervision := { s.supervision with
      mode := if s.supervision.committed then .operational else .commissioning } }

/-- R110: the arm's starting state and its report, which raises nothing. -/
def startArm (raise : Raiser) (a : Arm) (s : State) : State :=
  let st := if (s.arm a).up then ArmState.stowed else .halted
  announce raise a st [] none (s.modArm a fun u => { u with state := st })

/-- R110, R120: the conflict test at leaving STARTING. -/
def conflictTest (raise : Raiser) (a : Arm) (s : State) : State :=
  if (s.arm a).conflicts then faultArm raise a .switchConflict s else s

/-- R145, R147, R148: the LOW clamp and the water state, which raises no factor here but is handed on. -/
def startWater (s : State) : State :=
  let w := s.water.clampLow (s.item 23)
  handWater (s.modWater fun _ => { w with state := w.stateFor (s.item 23) })

/-- Leaving STARTING, with the verdict LOST or not (R69): every block takes what it samples, then the conflict tests of
the three arms, then a lost crystal. The order of the arms is log entry 36; that safe stop's stow orders are taken at this
event is log entry 38. The conflict tests before the lost crystal is the model's choice (log entry 48). -/
def leaveStarting (lost : Bool) (raise : Raiser) (s : State) : State :=
  let t := Arm.list.foldl (fun t a => startArm raise a t) (startRunning lost s)
  let t := (evaluateZones (startWater t)).needCeiling
  let t := Arm.list.foldl (fun t a => conflictTest raise a t) t
  if lost then clockFault raise t else t

end Sys2Proof.Machine
end

