-- ==== Sys2Proof/Machine/Links.lean ====
section
/-! DEFINITION. The links: bytes received, frame ends, the stages before the owner, the owner's decision and the
response slot (R3 to R13). -/

namespace Sys2Proof.Machine

/-! ## Receiving (R5) -/

/-- One byte clocked in: stored at the position of the count, but for bytes after an over-long declared length or
after the whole frame. -/
def clockByte (frame : List Byte) (count : Nat) (b : Byte) : List Byte :=
  if count < 3 then frame ++ [b]
  else
    let n := byteAt frame 2
    if 40 < n || 4 + n ≤ count then frame else frame ++ [b]

def clockBytesFrom : Nat → List Byte → List Byte → List Byte
  | _, frame, [] => frame
  | count, frame, b :: rest => clockBytesFrom (count + 1) (clockByte frame count b) rest

/-- The receive frame after the bytes of a transaction. -/
def clockBytes (bytes : List Byte) : List Byte := clockBytesFrom 0 [] bytes

/-! ## Frame form (R6) -/

/-- The frame of the bytes clocked in is good: long enough, not over-long, its CRC right. -/
def goodFrame (bytes : List Byte) : Bool :=
  let n := byteAt bytes 2
  decide (3 ≤ bytes.length) && decide (n ≤ 40) && decide (4 + n ≤ bytes.length) &&
    byteAt bytes (3 + n) == (crc8 (bytes.take (3 + n))).toNat

/-- The link at a frame end: what it received, and IDLE (R3). The count is that of the bytes stored: later ones have no
effect (R5; over-long frames: log entry 40). -/
def Link.endFrame (l : Link) (bytes : List Byte) : Link :=
  let frame := clockBytes bytes
  { l with state := .idle, chipSelectLow := false, rxFrame := frame, rxCount := frame.length }

/-- A response placed in the slot (R11). -/
def place (st : Station) (r : Response) (s : State) : State := s.modLink st fun l => { l with slot := r }

/-! ## Answers -/

/-- An owner's decision: the status, the data, and the state it leaves. -/
structure Answer where
  status : Status
  data : Payload
  state : State

namespace Answer

def ok (s : State) : Answer := ⟨.ok, .none, s⟩
def okWith (d : Payload) (s : State) : Answer := ⟨.ok, d, s⟩
def accepted (s : State) : Answer := ⟨.accepted, .none, s⟩
def refuse (st : Status) (s : State) : Answer := ⟨st, .none, s⟩
def refuseFor (st : Status) (r : Reason) (s : State) : Answer := ⟨st, .reason r, s⟩

end Answer

/-- An owner's decision on a request from a station with its parameters. -/
abbrev Owner := Station → List Byte → State → Answer

/-! ## The stages (R7, R21) -/

/-- R21: the Attendance Unit is told of a good frame, which clears the prepared flag; KEEP_PREPARE sets it again. -/
def tell (st : Station) (s : State) : State := s.modAttend st fun v => { v with prepared := false }

/-- Stages 2 to 4 of R7, then the owner. -/
def decideRequest (f : Form) (owner : Owner) (st : Station) (params : List Byte) (s : State) : Answer :=
  if !f.exempt && !s.attends st then .refuse .notAttending s
  else if !f.formOk params then .refuse .badParam s
  else if !f.roleOk st params then .refuse .refusedRole s
  else owner st params s

/-- The rise of chip select on a link that takes no frame: OFFLINE ignores it, DISREGARD ends (R3). In IDLE it
cannot occur (log entry 1). -/
def riseUntaken (st : Station) (s : State) : State :=
  s.modLink st fun l => match l.state with
    | .offline => { l with chipSelectLow := false }
    | .disregard => { l with state := .idle, chipSelectLow := false }
    | _ => l

/-- A frame end on a RECEIVING link (R6); on any other the rise of chip select takes no frame. -/
def atFrameEnd (st : Station) (bytes : List Byte) (k : State → State) (s : State) : State :=
  if (s.links.get st).state = .receiving then k (s.modLink st fun l => l.endFrame bytes)
  else riseUntaken st s

/-- BAD_FRAME, echoing the tag and code received (R6). -/
def placeBadFrame (st : Station) (bytes : List Byte) (s : State) : State :=
  place st ⟨.badFrame, bytes.getD 1 0, bytes.getD 0 0, .none⟩ s

/-- A request whose frame passed R6: told to the Attendance Unit, decided, answered (R7, R10, R11). -/
def serveGood (f : Form) (owner : Owner) (st : Station) (tag : Byte) (params : List Byte) (s : State) : State :=
  let a := decideRequest f owner st params (tell st s)
  place st ⟨a.status, tag, f.code, a.data⟩ a.state

/-- A request's frame end. Parameters beyond 40 bytes make the frame over-long (R5, R6). -/
def serve (f : Form) (owner : Owner) (st : Station) (tag : Byte) (params : List Byte) (s : State) : State :=
  let bytes := requestFrame f.code tag params
  atFrameEnd st bytes
    (fun t => if 40 < params.length then placeBadFrame st bytes t else serveGood f owner st tag params t) s

/-- A request whose decision can raise factors: the event ends with what is left to do (R157, R100, R184). -/
def serveEvent (f : Form) (owner : Raiser → Owner) (st : Station) (tag : Byte) (params : List Byte) (s : State) :
    State :=
  event (fun raise => serve f (owner raise) st tag params) s

/-! ## Tests shared by owners (R10) -/

def State.holds (s : State) (st : Station) (g : Group) : Bool := (s.claims.get g).holder == some st

/-- The claim test of R10, then the rest of the decision. -/
def claimTest (g : Group) (k : Owner) : Owner := fun st ps s =>
  if s.holds st g then k st ps s else .refuse .refusedClaim s

/-- The commissioning test of R10. -/
def commissionTest (k : Owner) : Owner := fun st ps s =>
  if s.supervision.mode = .commissioning then .refuse .notCommissioned s else k st ps s

/-- An owner for the group a claim request names; stage 3 has shown that it exists. -/
def forGroup (k : Group → Owner) : Owner := fun st ps s =>
  match groupOf (byteAt ps 0) with
  | some g => k g st ps s
  | none => .refuse .badParam s

def forArm (k : Arm → Owner) : Owner := fun st ps s =>
  match armOf (byteAt ps 0) with
  | some a => k a st ps s
  | none => .refuse .badParam s

def forZone (k : Zone → Owner) : Owner := fun st ps s =>
  match zoneOf (byteAt ps 0) with
  | some z => k z st ps s
  | none => .refuse .badParam s

/-- An owner for the slot the first parameter names; a number outside 0 to 7 is BAD_PARAM (R47, R53). -/
def forSlot (k : SlotNo → Owner) : Owner := fun st ps s =>
  match slotOf (byteAt ps 0) with
  | some n => k n st ps s
  | none => .refuse .badParam s

end Sys2Proof.Machine
end

