-- ==== Sys2Proof/Machine/ArmRequests.lean ====
section
/-! DEFINITION. The meanings of the four ARM_COMMANDs, of READ_ARM and of the arms' timer expiries (R113 to R117, R123,
R128, R129, R132, R133). -/

namespace Sys2Proof.Machine

/-! ## ARM_COMMAND (R113) -/

/-- The command byte names another of the four commands, so the frame is another row's (log entry 26). -/
def otherCommand (cmd : Nat) (ps : List Byte) : Bool :=
  ps.length == 2 && decide (byteAt ps 1 < 4) && byteAt ps 1 != cmd

/-- The tests of R10 and R113 before a command's own; `before` is the commissioning test of LOWER. -/
def armOwner (cmd : Nat) (before : Owner → Owner) (k : Arm → Owner) : Owner :=
  forArm fun a => claimTest a.group fun st ps s =>
    if byteAt ps 1 ≠ cmd then .refuse .badParam s
    else before (fun st ps s =>
      if (s.arm a).reaction.isSome then .refuseFor .refusedState .reaction s
      else if s.involved a then .refuseFor .refusedBusy .changeover s
      else k a st ps s) st ps s

/-- A row of ARM_COMMAND; the command code that is none of the four is BAD_PARAM on any of them. -/
def serveArm (cmd : Nat) (before : Owner → Owner) (k : Raiser → Arm → Owner) (l : Station) (tag : Byte)
    (params : List Byte) (s : State) : State :=
  if otherCommand cmd params then s
  else serveEvent Form.armCommand (fun raise => armOwner cmd before (k raise)) l tag params s

/-- R114: the refusals of LOWER. -/
def lowerTest (a : Arm) (s : State) : Option Reason :=
  if (s.arm a).state = .fault then some .fault
  else if s.supervision.safeStop then some .safeStop
  else if s.supervision.pendingReset.isSome then some .resetPending
  else if s.travel.setpoint < 0 then some .reverse
  else none

/-- LOWER starts or reverses a motion, or finds the target already DOWN (R114). -/
def ArmState.lowers : ArmState → Bool
  | .stowed => true
  | .halted => true
  | .raising => true
  | _ => false

def lowerOwner (raise : Raiser) (a : Arm) : Owner := fun _ _ s =>
  match lowerTest a s with
  | some r => .refuseFor .refusedState r s
  | none => if (s.arm a).state.lowers then .accepted (takeLower raise a .command s) else .ok s

/-- R115: the refusals of RAISE. Where both apply the reason is FAULT: R115 gives no order, and this is the model's (log
entry 20). -/
def raiseTest (a : Arm) (s : State) : Option Reason :=
  if (s.arm a).state = .fault then some .fault
  else if !s.canRaise a then some .uncommissionedItem
  else none

/-- RAISE starts or reverses a motion, or finds the arm on its way or stowed (R115). -/
def ArmState.raises : ArmState → Bool
  | .working => true
  | .deflected => true
  | .halted => true
  | .lowering => true
  | _ => false

def raiseOwner (raise : Raiser) (a : Arm) : Owner := fun _ _ s =>
  match raiseTest a s with
  | some r => .refuseFor .refusedState r s
  | none => if (s.arm a).state.raises then .accepted (takeRaise raise a .command s) else .ok s

def haltOwner (raise : Raiser) (a : Arm) : Owner := fun _ _ s =>
  if (s.arm a).state = .fault then .refuseFor .refusedState .fault s else .ok (haltArm raise a s)

/-- R117: the refusals of CLEAR_FAULT. -/
def clearTest (a : Arm) (s : State) : Option Reason :=
  if (s.arm a).state ≠ .fault then some .notFault
  else if s.travel.setpoint ≠ 0 then some .notAtRest
  else if (s.arm a).up && (s.arm a).down then some .conflict
  else none

def clearOwner (raise : Raiser) (a : Arm) : Owner := fun _ _ s =>
  match clearTest a s with
  | some r => .refuseFor .refusedState r s
  | none => .ok (clearFault raise a s)

/-- ARM_LOWER (R114). -/
def execArmLower (l : Station) (tag : Byte) (params : List Byte) (s : State) : Host.Outcome State Fault Refusal :=
  .next (serveArm 0 commissionTest lowerOwner l tag params s)

/-- ARM_RAISE (R115). -/
def execArmRaise (l : Station) (tag : Byte) (params : List Byte) (s : State) : Host.Outcome State Fault Refusal :=
  .next (serveArm 1 id raiseOwner l tag params s)

/-- ARM_HALT (R116). -/
def execArmHalt (l : Station) (tag : Byte) (params : List Byte) (s : State) : Host.Outcome State Fault Refusal :=
  .next (serveArm 2 id haltOwner l tag params s)

/-- ARM_CLEAR_FAULT (R117). -/
def execArmClearFault (l : Station) (tag : Byte) (params : List Byte) (s : State) :
    Host.Outcome State Fault Refusal :=
  .next (serveArm 3 id clearOwner l tag params s)

/-- READ_ARM (R133). -/
def execReadArm (l : Station) (tag : Byte) (params : List Byte) (s : State) : Host.Outcome State Fault Refusal :=
  .next (serve Form.readArm (forArm fun a _ _ t => .okWith (.arm (armView (t.arm a))) t) l tag params s)

/-! ## Timer expiries -/

/-- MOTION_TIMER_EXPIRY, for a timer that is due (R123). -/
def execMotionTimerExpiry (a : Arm) (s : State) : Host.Outcome State Fault Refusal :=
  .next (if (s.arm a).motionTimer.due then event (fun raise => motionExpiry raise a) s else s)

/-- SETTLE_TIMER_EXPIRY, for a timer that is due; it runs in DEFLECTED alone (R128, log entry 1). -/
def execSettleTimerExpiry (a : Arm) (s : State) : Host.Outcome State Fault Refusal :=
  .next (if (s.arm a).settleTimer.due && (s.arm a).state == .deflected then event (fun raise => settleExpiry raise a) s else s)

/-- PINNED_TIMER_EXPIRY, for a timer that is due (R129). -/
def execPinnedTimerExpiry (a : Arm) (s : State) : Host.Outcome State Fault Refusal :=
  .next (if (s.arm a).pinnedTimer.due then event (fun raise => pinnedExpiry raise a) s else s)

/-- STALL_TIMER_EXPIRY, for a timer that is due (R132). -/
def execStallTimerExpiry (a : Arm) (s : State) : Host.Outcome State Fault Refusal :=
  .next (if (s.arm a).stallTimer.due then event (fun raise => stallExpiry raise a) s else s)

end Sys2Proof.Machine
end

