-- ==== Sys2Proof/Machine/Claims.lean ====
section
/-! DEFINITION. The Claim Unit: handing a group on, and the meanings of the claim requests (R28 to R37). -/

namespace Sys2Proof.Machine

/-! ## Handing on (R30) -/

/-- A new holder, stamped, taken out of the waiting list. -/
def Claim.give (c : Claim) (st : Station) (now : Time) : Claim :=
  { holder := some st, takenAt := now, waiting := c.waiting.filter (· != st) }

def giveGroup (g : Group) (st : Station) (s : State) : State := s.modClaim g fun c => c.give st s.time

/-- The holder gone: the oldest waiter becomes holder, or the group is free. -/
def Claim.passOn (c : Claim) (now : Time) : Claim :=
  match c.waiting with
  | [] => ⟨none, now, []⟩
  | w :: _ => c.give w now

/-- CLAIM_GRANTED for the waiter that has received the group, where there was one. -/
def grantRaise (raise : Raiser) (g : Group) (why : Handover) (oldest : Option Station) (s : State) : State :=
  match oldest with
  | some w => raise ⟨.group g, .claimGranted why, s.time, .only w⟩ s
  | none => s

/-- A draft of the station is closed, and DRAFT_DISCARDED is raised for it (R30, R52). -/
def discardDraftOf (raise : Raiser) (st : Station) (s : State) : State :=
  match s.profile.draft with
  | some d =>
    if d.owner = st then raise ⟨.slot d.origin, .draftDiscarded, s.time, .only st⟩ (closeDraft s) else s
  | none => s

/-- The consequences for the group of its previous holder losing it (R30). -/
def lostGroup (raise : Raiser) (g : Group) (st : Station) (s : State) : State :=
  match g with
  | .travel => travelHolderGone s
  | .profile => discardDraftOf raise st s
  | _ => s

/-! ## CLAIM_TRY and CLAIM_WAIT (R31, R32) -/

def claimTryOwner (g : Group) : Owner := fun st _ s =>
  let h := (s.claims.get g).holder
  match h with
  | none => .okWith (.previousHolder none) (giveGroup g st s)
  | some x => if x = st then .okWith (.previousHolder h) s else ⟨.refusedBusy, .previousHolder h, s⟩

def claimWaitOwner (g : Group) : Owner := fun st _ s =>
  let c := s.claims.get g
  match c.holder with
  | none => .okWith (.previousHolder none) (giveGroup g st s)
  | some x =>
    if x = st || c.waiting.contains st then .refuse .refusedState s
    else .accepted (s.modClaim g fun c => { c with waiting := c.waiting ++ [st] })

/-- CLAIM_TRY (R31). -/
def execClaimTry (l : Station) (tag : Byte) (params : List Byte) (s : State) : Host.Outcome State Fault Refusal :=
  .next (serve Form.claimTry (forGroup claimTryOwner) l tag params s)

/-- CLAIM_WAIT (R32). -/
def execClaimWait (l : Station) (tag : Byte) (params : List Byte) (s : State) : Host.Outcome State Fault Refusal :=
  .next (serve Form.claimWait (forGroup claimWaitOwner) l tag params s)

/-! ## RELEASE and YIELD (R33, R34) -/

def releaseOwner (raise : Raiser) (g : Group) : Owner := fun st _ s =>
  if s.holds st g then
    let oldest := (s.claims.get g).waiting.head?
    let t := s.modClaim g fun c => c.passOn s.time
    .ok (lostGroup raise g st (grantRaise raise g .released oldest t))
  else .refuse .refusedState s

/-- R34: the entry after a yield. -/
def Claim.yieldBy (c : Claim) (st : Station) (now : Time) : Claim :=
  let d := c.passOn now
  { d with waiting := d.waiting ++ [st] }

def yieldOwner (raise : Raiser) (g : Group) : Owner := fun st _ s =>
  let c := s.claims.get g
  if s.holds st g && !c.waiting.isEmpty then
    let t := s.modClaim g fun c => c.yieldBy st s.time
    .ok (lostGroup raise g st (grantRaise raise g .yielded c.waiting.head? t))
  else .refuse .refusedState s

/-- RELEASE (R33). -/
def execRelease (l : Station) (tag : Byte) (params : List Byte) (s : State) : Host.Outcome State Fault Refusal :=
  .next (serveEvent Form.release (fun raise => forGroup (releaseOwner raise)) l tag params s)

/-- YIELD (R34). -/
def execYield (l : Station) (tag : Byte) (params : List Byte) (s : State) : Host.Outcome State Fault Refusal :=
  .next (serveEvent Form.yieldGroup (fun raise => forGroup (yieldOwner raise)) l tag params s)

/-! ## OVERRIDE (R35) -/

/-- R35: the entry after an override of another holder. -/
def Claim.overrideBy (c : Claim) (st before : Station) (now : Time) : Claim :=
  let d := c.give st now
  { d with waiting := before :: d.waiting }

def overrideOwner (raise : Raiser) (g : Group) : Owner := fun st _ s =>
  let h := (s.claims.get g).holder
  match h with
  | none => .okWith (.previousHolder none) (giveGroup g st s)
  | some x =>
    if x = st then .okWith (.previousHolder h) s
    else
      let t := s.modClaim g fun c => c.overrideBy st x s.time
      .okWith (.previousHolder h) (raise ⟨.group g, .claimLost, s.time, .only x⟩ t)

/-- OVERRIDE (R35). -/
def execOverride (l : Station) (tag : Byte) (params : List Byte) (s : State) : Host.Outcome State Fault Refusal :=
  .next (serveEvent Form.override (fun raise => forGroup (overrideOwner raise)) l tag params s)

/-! ## WITHDRAW_WAIT and READ_CLAIM (R36, R37) -/

def withdrawOwner (g : Group) : Owner := fun st _ s =>
  if (s.claims.get g).waiting.contains st then
    .ok (s.modClaim g fun c => { c with waiting := c.waiting.filter (· != st) })
  else .refuse .refusedState s

/-- WITHDRAW_WAIT (R36). -/
def execWithdrawWait (l : Station) (tag : Byte) (params : List Byte) (s : State) :
    Host.Outcome State Fault Refusal :=
  .next (serve Form.withdrawWait (forGroup withdrawOwner) l tag params s)

/-- READ_CLAIM (R37). -/
def execReadClaim (l : Station) (tag : Byte) (params : List Byte) (s : State) : Host.Outcome State Fault Refusal :=
  .next (serve Form.readClaim (forGroup fun g _ _ t => .okWith (.claim (t.claims.get g)) t) l tag params s)

end Sys2Proof.Machine
end

