-- ==== Sys2Proof/Machine/Attendance.lean ====
section
/-! DEFINITION. The Attendance Unit: the meanings of reporting in, the renewal pair, leaving and lapsing, and the
teardown (R17 to R27). -/

namespace Sys2Proof.Machine

/-! ## REPORT_IN (R18) -/

def reportInOwner (raise : Raiser) : Owner := fun st ps s =>
  match windowOf (wordAt ps 0) with
  | none => .refuse .badParam s
  | some w =>
    if s.attends st then .refuse .refusedState s
    else
      let came := (s.attendance.get st).state
      let t := s.modAttend st fun _ => ⟨.attending, some w, .running (windowMs w), false⟩
      .ok (raise ⟨.station st, .stationJoined w came, t.time, .every (some st)⟩ t)

/-- REPORT_IN (R18). -/
def execReportIn (l : Station) (tag : Byte) (params : List Byte) (s : State) : Host.Outcome State Fault Refusal :=
  .next (serveEvent Form.reportIn reportInOwner l tag params s)

/-! ## The renewal pair (R20, R22) -/

/-- KEEP_PREPARE (R20). -/
def execKeepPrepare (l : Station) (tag : Byte) (params : List Byte) (s : State) :
    Host.Outcome State Fault Refusal :=
  .next (serve Form.keepPrepare (fun st _ t => .ok (t.modAttend st fun v => { v with prepared := true }))
    l tag params s)

/-- A renewal completed reloads the counter with the window (R22). -/
def Attendance.renew (v : Attendance) : Attendance :=
  match v.window with
  | some w => { v with counter := .running (windowMs w) }
  | none => v

/-- KEEP_COMMIT: whether the flag stood is read before the frame end clears it (R21, R22). -/
def execKeepCommit (l : Station) (tag : Byte) (params : List Byte) (s : State) :
    Host.Outcome State Fault Refusal :=
  let prepared := (s.attendance.get l).prepared
  .next (serve Form.keepCommit (fun st _ t =>
    if prepared then .ok (t.modAttend st Attendance.renew) else .refuse .refusedState t) l tag params s)

/-! ## The teardown (R25 to R27) -/

/-- R25 for one group. -/
def leaveGroup (raise : Raiser) (st : Station) (why : Handover) (s : State) (g : Group) : State :=
  let c := s.claims.get g
  if c.holder = some st then
    let t := grantRaise raise g why c.waiting.head? (s.modClaim g fun c => c.passOn s.time)
    if g = .travel then travelHolderGone t else t
  else s.modClaim g fun c => { c with waiting := c.waiting.filter (· != st) }

/-- R27: the last station gone while the vehicle is not parked. -/
def noStationTest (raise : Raiser) (s : State) : State :=
  if !(Station.list.any s.attends) && s.supervision.mode == .operational && s.travel.state != .parked then
    enterSafeStop raise .noStation s
  else s

/-- The attendance record of a station that has left or lapsed (R23, R24). -/
def Attendance.departed (v : Attendance) : Departure → Attendance
  | .left => Attendance.reset
  | .expired => ⟨.lapsed, v.window, .stopped, false⟩

/-- The teardown: the claim table in order, the draft, STATION_LAPSED, the record and the factor state, the test of
R27 (R25 to R27, R172; that the draft is closed after the seventh group is log entry 16). -/
def teardown (raise : Raiser) (st : Station) (why : Departure) (s : State) : State :=
  let handover := match why with
    | .left => Handover.holderLeft
    | .expired => .holderLapsed
  let window := (s.attendance.get st).window
  let t := Group.list.foldl (leaveGroup raise st handover) s
  let t := discardDraftOf raise st t
  let t := raise ⟨.station st, .stationLapsed why window, t.time, .every (some st)⟩ t
  let t := t.modAttend st fun v => v.departed why
  noStationTest raise (t.modStation st fun _ => StationNotices.reset)

/-- REPORT_OUT (R23). -/
def execReportOut (l : Station) (tag : Byte) (params : List Byte) (s : State) : Host.Outcome State Fault Refusal :=
  .next (serveEvent Form.reportOut (fun raise st _ t => .ok (teardown raise st .left t)) l tag params s)

/-- WINDOW_COUNTER_EXPIRY, for a counter that is due (R24). -/
def execWindowCounterExpiry (st : Station) (s : State) : Host.Outcome State Fault Refusal :=
  .next (if (s.attendance.get st).counter.due then event (fun raise => teardown raise st .expired) s else s)

end Sys2Proof.Machine
end

