-- ==== Sys2Proof/Machine/ClockAndReset.lean ====
section
/-! DEFINITION. The meanings of power, the reset line, the crystal and PLL events, the clock monitor and the timebase
(R69 to R72, R83, R186). -/

namespace Sys2Proof.Machine

/-- POWER_ON_RESET (R186). -/
def execPowerOnReset (s : State) : Host.Outcome State Fault Refusal := .next (afterReset .powerOn s)

/-- LINE_RESET: the line asserted, the part held in reset (R83, R186). -/
def execLineReset (s : State) : Host.Outcome State Fault Refusal :=
  .next (if s.clock.resetLineAsserted then s
    else afterReset .line (s.modClock fun c => { c with resetLineAsserted := true }))

/-- RESET_LINE_RELEASED: STARTING begins with the crystal's settling (R69, R83). -/
def execResetLineReleased (s : State) : Host.Outcome State Fault Refusal :=
  .next (if s.clock.resetLineAsserted then
      s.modClock fun c => { c with
        resetLineAsserted := false
        phase := if c.phase = .held then .settling else c.phase }
    else s)

/-- CRYSTAL_SETTLED (R69). -/
def execCrystalSettled (s : State) : Host.Outcome State Fault Refusal :=
  .next (s.modClock fun c => { c with phase := if c.phase = .settling then .locking else c.phase })

/-- PLL_LOCKED: the part leaves STARTING, the verdict SOUND (R69). -/
def execPllLocked (s : State) : Host.Outcome State Fault Refusal :=
  .next (if s.clock.phase = .locking then event (leaveStarting false) s else s)

/-- PLL_LOCK_TIMEOUT: the part leaves STARTING on the internal oscillator, the verdict LOST (R69). -/
def execPllLockTimeout (s : State) : Host.Outcome State Fault Refusal :=
  .next (if s.clock.phase = .locking then event (leaveStarting true) s else s)

/-- The crystal lost during operation: selector and verdict, then the clock fault (R70). -/
def loseCrystal (raise : Raiser) (s : State) : State :=
  clockFault raise (s.modClock fun c => { c with selector := .internal, verdict := .lost })

/-- R70: a count of a sound crystal. -/
def soundCount (cycles : Nat) : Bool := decide (12000 ≤ cycles) && decide (cycles ≤ 20000)

/-- CLOCK_MONITOR_INTERVAL: the count is tested while the part runs with the verdict SOUND (R70, log entry 17). -/
def execClockMonitorInterval (cycles : Nat) (s : State) : Host.Outcome State Fault Refusal :=
  .next (if s.clock.phase = .locking || s.clock.phase = .running then
      let t := s.modClock fun c => { c with lastCycles := cycles }
      if s.clock.phase = .running && s.clock.verdict = .sound && !soundCount cycles then event loseCrystal t else t
    else s)

def CaptureChannel.tick (c : CaptureChannel) : CaptureChannel := { c with timer := c.timer.tick }
def SwitchInput.tick (i : SwitchInput) : SwitchInput := { i with counter := i.counter.tick }
def Attendance.tick (v : Attendance) : Attendance := { v with counter := v.counter.tick }
def ArmUnit.tick (u : ArmUnit) : ArmUnit :=
  { u with motionTimer := u.motionTimer.tick, settleTimer := u.settleTimer.tick,
           pinnedTimer := u.pinnedTimer.tick, stallTimer := u.stallTimer.tick }

/-- Every running timer's count falls by one (R72). -/
def tickTimers (s : State) : State :=
  { s with
    attendance := s.attendance.map Attendance.tick
    capture := { s.capture with
      wheel := s.capture.wheel.tick, brush := s.capture.brush.map CaptureChannel.tick, flow := s.capture.flow.tick }
    switches := s.switches.map SwitchInput.tick
    travel := { s.travel with
      rampTimer := s.travel.rampTimer.tick
      overspeedTimer := s.travel.overspeedTimer.tick
      releaseTimer := s.travel.releaseTimer.tick }
    arms := s.arms.map ArmUnit.tick
    spray := { s.spray with
      dwellTimer := s.spray.dwellTimer.tick, dryRunTimer := s.spray.dryRunTimer.tick }
    flow := { s.flow with timer := s.flow.timer.tick }
    supervision := { s.supervision with settledTimer := s.supervision.settledTimer.tick } }

/-- TIMEBASE_TICK: the count advances once the part has left STARTING, and wraps (R71, R72). -/
def execTimebaseTick (s : State) : Host.Outcome State Fault Refusal :=
  .next (if s.clock.phase = .running then { tickTimers s with time := s.time + 1 } else s)

end Sys2Proof.Machine
end

