-- ==== Sys2Proof/Machine/Field.lean ====
section
/-! DEFINITION. The meanings of capture pulses, gate expiries, switch levels and debounce expiries, and the measured
values (R73 to R80). -/

namespace Sys2Proof.Machine

/-! ## Channels (R74) -/

def Capture.channel (c : Capture) : Channel → CaptureChannel
  | .wheel => c.wheel
  | .brush a => c.brush.get a
  | .flow => c.flow

def Capture.setChannel (c : Capture) (ch : Channel) (x : CaptureChannel) : Capture :=
  match ch with
  | .wheel => { c with wheel := x }
  | .brush a => { c with brush := c.brush.set a x }
  | .flow => { c with flow := x }

/-- The channel's gate interval item, 31 to 35 (R179). -/
def gateItem : Channel → Nat
  | .wheel => 31
  | .brush a => 32 + a.number
  | .flow => 35

/-! ## Pulses (R73, R74, R79) -/

/-- The counter stays at 65 535. -/
def CaptureChannel.pulse (c : CaptureChannel) : CaptureChannel := { c with counter := min (c.counter + 1) 65535 }

/-- A pulse counted; a WHEEL pulse also sets the direction by phase B's level. -/
def countPulse (ch : Channel) (phaseBHigh : Bool) (s : State) : State :=
  s.modCapture fun c =>
    let d := c.setChannel ch (c.channel ch).pulse
    if ch = .wheel then { d with direction := if phaseBHigh then .reverse else .forward } else d

/-- A FLOW pulse reaches the dry-run timer and the account (R79). -/
def flowPulse (raise : Raiser) (s : State) : State := waterTakesPulse raise (dryRunPulse s)

/-- CAPTURE_PULSE; edges in reset and STARTING are not counted (R73). -/
def execCapturePulse (ch : Channel) (phaseBHigh : Bool) (s : State) : Host.Outcome State Fault Refusal :=
  .next (if s.clock.phase = .running then
      let t := countPulse ch phaseBHigh s
      if ch = .flow then event flowPulse t else t
    else s)

/-! ## Gate expiry (R75) -/

def CaptureChannel.sum (c : CaptureChannel) : Nat := c.oldest + c.older + c.newer + c.newest

/-- Steps 1 to 4: the window moves, the counter returns to 0, a new interval takes effect with an empty window, the
timer is reloaded. -/
def CaptureChannel.close (c : CaptureChannel) (interval : Nat) : CaptureChannel :=
  if interval = c.interval then
    { c with counter := 0, oldest := c.older, older := c.newer, newer := c.newest, newest := c.counter,
             timer := .running interval }
  else CaptureChannel.reset interval |>.load

/-- A magnitude from a window sum: at least 1 where a pulse stands in the window, 0 while the item is unwritten. -/
def measured (sum scale gate : Nat) (item : Option Nat) : Nat :=
  match item with
  | none => 0
  | some p => if sum = 0 then 0 else max 1 (sum * scale / (p * 4 * gate))

/-- R76: the measured wheel speed. -/
def wheelSpeedOf (c : CaptureChannel) (d : Direction) (item : Option Nat) : Int :=
  let m := min 500 (measured c.sum 36000 c.interval item)
  match d with
  | .forward => m
  | .reverse => -(m : Int)

/-- R78. -/
def brushSpeedOf (c : CaptureChannel) (item : Option Nat) : Nat :=
  min 1000 (measured c.sum 60000 c.interval item)

/-- R79. -/
def waterFlowOf (c : CaptureChannel) (item : Option Nat) : Nat := measured c.sum 600000 c.interval item

/-- The TG at a WHEEL gate expiry: copy, end of STOPPING, overspeed (R97, R107). -/
def travelTakesSpeed (v : Int) (s : State) : State :=
  overspeedTest (stopTest (s.modTravel fun g => { g with wheelSpeed := v }))

/-- R77: the four blocks that take a published wheel speed. -/
def publishWheel (v : Int) (newest : Nat) (s : State) : State :=
  let t := travelTakesSpeed v s
  let t := Arm.list.foldl (fun t a => armTakesSpeed v a t) t
  let t := sprayTakesSpeed v t
  t.modWater fun w => w.sweep newest (s.item 1)

/-- R75, R76 to R79: a gate's end. -/
def gateExpiry (ch : Channel) (s : State) : State :=
  let c := (s.capture.channel ch).close ((s.item? (gateItem ch)).getD 100)
  let t := s.modCapture fun p => p.setChannel ch c
  match ch with
  | .wheel =>
    let v := wheelSpeedOf c s.capture.direction (s.item? 1)
    publishWheel v c.newest (t.modCapture fun p => { p with wheelSpeed := v })
  | .brush a =>
    let v := brushSpeedOf c (s.item? 11)
    armTakesBrush v a (t.modCapture fun p => { p with brushSpeed := p.brushSpeed.set a v })
  | .flow => t.modCapture fun p => { p with waterFlow := waterFlowOf c (s.item? 24) }

/-- GATE_EXPIRY, for a gate timer that is due (R75). -/
def execGateExpiry (ch : Channel) (s : State) : Host.Outcome State Fault Refusal :=
  .next (if (s.capture.channel ch).timer.due then event (fun _ => gateExpiry ch) s else s)

/-! ## Switch inputs (R80) -/

def Switches.input (w : Switches) : Switch → SwitchInput
  | .up a => w.up.get a
  | .down a => w.down.get a
  | .contact a => w.contact.get a
  | .full => w.full
  | .low => w.low
  | .frost => w.frost
  | .seat => w.seat

def Switches.setInput (w : Switches) (i : Switch) (x : SwitchInput) : Switches :=
  match i with
  | .up a => { w with up := w.up.set a x }
  | .down a => { w with down := w.down.set a x }
  | .contact a => { w with contact := w.contact.set a x }
  | .full => { w with full := x }
  | .low => { w with low := x }
  | .frost => { w with frost := x }
  | .seat => { w with seat := x }

/-- A raw level: away from the debounced level it loads the counter, back to it stops it; in reset and STARTING the
inputs are not debounced. -/
def SwitchInput.takeRaw (i : SwitchInput) (running asserted : Bool) : SwitchInput :=
  if i.raw = asserted then i
  else if !running then { i with raw := asserted }
  else { i with raw := asserted, counter := if asserted = i.level then .stopped else .running 20 }

/-- RAW_LEVEL_CHANGE (R80). -/
def execRawLevelChange (input : Switch) (asserted : Bool) (s : State) : Host.Outcome State Fault Refusal :=
  .next (s.modSwitches fun w =>
    w.setInput input ((w.input input).takeRaw (s.clock.phase == .running) asserted))

/-- The debounce counter's expiry at the input. -/
def SwitchInput.settled (i : SwitchInput) : SwitchInput := ⟨i.raw, i.raw, .stopped⟩

/-- The switch event handed to the input's owning blocks. -/
def switchEvent (raise : Raiser) (input : Switch) (on : Bool) (s : State) : State :=
  match input with
  | .up a => armTakesUp raise a on s
  | .down a => armTakesDown raise a on s
  | .contact a => armTakesContact raise a on s
  | .full => waterTakesFull raise on s
  | .low => waterTakesLow raise on s
  | .frost => sprayTakesFrost raise on s
  | .seat => superTakesSeat raise on (s.modTravel fun g => { g with seat := on })

def debounceExpiry (input : Switch) (raise : Raiser) (s : State) : State :=
  let i := (s.switches.input input).settled
  switchEvent raise input i.level (s.modSwitches fun w => w.setInput input i)

/-- DEBOUNCE_EXPIRY, for a counter that is due (R80). -/
def execDebounceExpiry (input : Switch) (s : State) : Host.Outcome State Fault Refusal :=
  .next (if (s.switches.input input).counter.due then event (debounceExpiry input) s else s)

end Sys2Proof.Machine
end

