-- ==== Sys2Proof/Machine/LinkEvents.lean ====
section
/-! DEFINITION. The meanings of chip select, of frames that carry no request of the catalogue, and of the requests the
link serves itself (R3 to R7, R15, R16). -/

namespace Sys2Proof.Machine

/-- R4: the response copied out, the receive frame cleared. -/
def Link.fall (l : Link) : Link :=
  match l.state with
  | .offline => { l with chipSelectLow := true }
  | .idle =>
    { l with state := .receiving, chipSelectLow := true, rxFrame := [], rxCount := 0, outgoing := some l.slot }
  | _ => l

/-- CHIP_SELECT_FALL (R3, R4). -/
def execChipSelectFall (l : Station) (s : State) : Host.Outcome State Fault Refusal :=
  .next (s.modLink l Link.fall)

/-- DISREGARD_END: chip select rises with no frame end; on an OFFLINE link only the pin changes (R3). -/
def execDisregardEnd (l : Station) (s : State) : Host.Outcome State Fault Refusal :=
  .next (riseUntaken l s)

/-- EMPTY_TRANSACTION: no request, the slot unchanged (R6). -/
def execEmptyTransaction (l : Station) (s : State) : Host.Outcome State Fault Refusal :=
  .next (atFrameEnd l [] (fun t => t) s)

/-- BAD_FRAME, for bytes that are some and form no good frame (R6, log entry 3). -/
def execBadFrame (l : Station) (bytes : List Byte) (s : State) : Host.Outcome State Fault Refusal :=
  .next (if bytes.isEmpty || goodFrame bytes then s else atFrameEnd l bytes (placeBadFrame l bytes) s)

/-- UNKNOWN_REQUEST, for a code outside the catalogue (R7, R21, log entry 3). -/
def execUnknownRequest (l : Station) (code tag : Byte) (params : List Byte) (s : State) :
    Host.Outcome State Fault Refusal :=
  .next (if knownCode code then s
    else
      let bytes := requestFrame code tag params
      atFrameEnd l bytes
        (fun t => if 40 < params.length then placeBadFrame l bytes t
          else place l ⟨.unknownRequest, tag, code, .none⟩ (tell l t)) s)

/-- NOP (R15). -/
def execNop (l : Station) (tag : Byte) (params : List Byte) (s : State) : Host.Outcome State Fault Refusal :=
  .next (serve Form.nop (fun _ _ t => .ok t) l tag params s)

/-- IDENTIFY (R16). -/
def execIdentify (l : Station) (tag : Byte) (params : List Byte) (s : State) :
    Host.Outcome State Fault Refusal :=
  .next (serve Form.identify (fun _ _ t => .okWith .identity t) l tag params s)

end Sys2Proof.Machine
end

