-- ==== Sys2Proof/Machine/NoticeRequests.lean ====
section
/-! DEFINITION. The meanings of the Notice Unit's requests: notices, flags, masks and the reaction table (R169 to R175). -/

namespace Sys2Proof.Machine

/-- R169: up to four notices removed, the overflow flag cleared. -/
def StationNotices.read (v : StationNotices) : StationNotices :=
  { v with queue := v.queue.drop 4, overflow := false }

def readNoticesOwner : Owner := fun st _ s =>
  let v := s.notices.get st
  .okWith (.notices (v.queue.drop 4).length v.overflow (v.queue.take 4)) (s.modStation st StationNotices.read)

/-- READ_NOTICES (R169). -/
def execReadNotices (l : Station) (tag : Byte) (params : List Byte) (s : State) : Host.Outcome State Fault Refusal :=
  .next (serve Form.readNotices readNoticesOwner l tag params s)

/-- R170. -/
def StationNotices.ack (v : StationNotices) (set : BitVec 24) : StationNotices :=
  { v with flags := v.flags &&& ~~~set }

/-- ACK_FACTORS (R170). -/
def execAckFactors (l : Station) (tag : Byte) (params : List Byte) (s : State) : Host.Outcome State Fault Refusal :=
  .next (serve Form.ackFactors (fun st ps t => .ok (t.modStation st fun v => v.ack (factorSetAt ps)))
    l tag params s)

/-- SET_NOTICE_MASK (R171). -/
def execSetNoticeMask (l : Station) (tag : Byte) (params : List Byte) (s : State) :
    Host.Outcome State Fault Refusal :=
  .next (serve Form.setNoticeMask (fun st ps t => .ok (t.modStation st fun v => v.setMasks (factorSetAt ps)))
    l tag params s)

def setMasterOwner : Owner := fun st ps s =>
  let v := byteAt ps 0
  if 1 < v then .refuse .badParam s else .ok (s.modStation st fun n => n.setMaster (v == 1))

/-- SET_MASTER_MASK (R171). -/
def execSetMasterMask (l : Station) (tag : Byte) (params : List Byte) (s : State) :
    Host.Outcome State Fault Refusal :=
  .next (serve Form.setMasterMask setMasterOwner l tag params s)

/-! ## The reaction table (R174, R175, R188) -/

def factorOf (n : Nat) : Option (Fin 24) := if h : n < 24 then some ⟨n, h⟩ else none

/-- A subject filter permitted for the factor. -/
def filterOf (factor v : Nat) : Option Filter :=
  if v = 0 then some .any
  else if 5 ≤ factor && factor ≤ 9 then (armOf (v - 1)).map .arm
  else if factor = 13 then if v ≤ 3 then some (.level v) else none
  else if factor = 18 then (zoneOf (v - 1)).map .zone
  else none

/-- An action with an operand of its kind and range. -/
def actionOf (code operand : Nat) : Option Action :=
  match code with
  | 0 => (armOf operand).map .raiseArm
  | 1 => (armOf operand).map .haltArm
  | 2 => if operand = 4 then some (.forceZoneOff none) else (zoneOf operand).map fun z => .forceZoneOff (some z)
  | 3 => if operand ≤ 250 then some (.capSpeed operand) else none
  | 4 => if operand = 0 then some .stopTravel else none
  | _ => none

/-- The entry and the binding that BIND_REACTION's parameters name; none where one is out of range (R174). -/
def bindingOf (st : Station) (ps : List Byte) : Option (EntryNo × Binding) :=
  match entryOf (byteAt ps 0), factorOf (byteAt ps 1), filterOf (byteAt ps 1) (byteAt ps 2),
    actionOf (byteAt ps 3) (wordAt ps 4) with
  | some e, some k, some f, some a => some (e, ⟨k, f, a, st, true, none⟩)
  | _, _, _, _ => none

def bindOwner : Owner := fun st ps s =>
  match bindingOf st ps with
  | none => .refuse .badParam s
  | some (e, b) =>
    if s.profile.changeover.isSome then .refuse .refusedBusy s
    else if s.reactions[e].isSome then .refuse .refusedBusy s
    else .ok (s.setReaction e (some b))

/-- BIND_REACTION (R174). -/
def execBindReaction (l : Station) (tag : Byte) (params : List Byte) (s : State) :
    Host.Outcome State Fault Refusal :=
  .next (serve Form.bindReaction bindOwner l tag params s)

/-- R175: the entry unbound; a CAP_SPEED entry's cap is removed, its action in flight completing with UNBOUND. -/
def unbind (e : EntryNo) (b : Binding) (s : State) : State :=
  let t := s.setReaction e (if b.held.isSome then some { b with enabled := false } else none)
  if b.action.isCap then
    let u := complete e .unbound t
    if s.travel.caps[e].isSome then removeCap e u else u
  else t

def unbindOwner : Owner := fun st ps s =>
  match entryOf (byteAt ps 0) with
  | none => .refuse .badParam s
  | some e =>
    match s.reactions[e] with
    | none => .refuse .refusedState s
    | some b =>
      if !b.enabled then .refuse .refusedState s
      else if b.installer ≠ st && st ≠ .c then .refuse .refusedRole s
      else .ok (unbind e b s)

/-- UNBIND_REACTION (R175). -/
def execUnbindReaction (l : Station) (tag : Byte) (params : List Byte) (s : State) :
    Host.Outcome State Fault Refusal :=
  .next (serveEvent Form.unbindReaction (fun _ => unbindOwner) l tag params s)

/-- READ_REACTIONS (R175). -/
def execReadReactions (l : Station) (tag : Byte) (params : List Byte) (s : State) :
    Host.Outcome State Fault Refusal :=
  .next (serve Form.readReactions (fun _ _ t => .okWith (.reactions t.reactions) t) l tag params s)

end Sys2Proof.Machine
end

