-- ==== Sys2Proof/Machine/ProfileRequests.lean ====
section
/-! DEFINITION. The meanings of the Profile Unit's requests: the draft, the slots, the changeover (R46 to R68). -/

namespace Sys2Proof.Machine

/-! ## The draft (R46 to R52) -/

/-- A draft of an EMPTY slot (R47). -/
def Draft.blank (owner : Station) (origin : SlotNo) : Draft where
  owner := owner
  origin := origin
  name := none
  ceiling := none
  arms := none
  levels := .all ⟨0, false⟩
  zones := none
  dwell := none
  reserve := none
  points := none
  verdict := none

/-- A draft of a READY slot's record, every field marked written (R47). -/
def Draft.ofRecord (owner : Station) (origin : SlotNo) (r : Profile) : Draft where
  owner := owner
  origin := origin
  name := some r.name
  ceiling := some r.ceiling
  arms := some r.arms
  levels := r.levels.map fun v => ⟨v, true⟩
  zones := some r.zones
  dwell := some r.dwell
  reserve := some r.reserve
  points := some r.points
  verdict := none

def setDraft (d : Draft) (s : State) : State := s.modProfile fun p => { p with draft := some d }

def openDraftOwner (n : SlotNo) : Owner := fun st _ s =>
  match s.slot n with
  | .empty => .ok (setDraft (Draft.blank st n) s)
  | .held .ready r => .ok (setDraft (Draft.ofRecord st n r) s)
  | .held _ _ => .refuse .refusedState s

/-- OPEN_DRAFT (R47). -/
def execOpenDraft (l : Station) (tag : Byte) (params : List Byte) (s : State) : Host.Outcome State Fault Refusal :=
  .next (serve Form.openDraft (claimTest .profile (forSlot openDraftOwner)) l tag params s)

/-- An owner for the open draft; a closed buffer is REFUSED_STATE (R46). -/
def withDraft (k : Draft → State → Answer) (s : State) : Answer :=
  match s.profile.draft with
  | some d => k d s
  | none => .refuse .refusedState s

/-- The draft with one field written; none where the value names a member outside its set, or the field is not
written so (R48). -/
def Draft.write (d : Draft) (f : DraftField) (v : Nat) : Option Draft :=
  match f with
  | .name => some { d with name := some v }
  | .ceiling => some { d with ceiling := some v }
  | .armSet => (armSetOf v).map fun x => { d with arms := some x }
  | .force a => some { d with levels := d.levels.set a ⟨v, true⟩ }
  | .zoneSet => (zoneSetOf v).map fun x => { d with zones := some x }
  | .dwell => some { d with dwell := some v }
  | .reserve => some { d with reserve := some v }
  | .points => none

/-- A field code and value that WRITE_DRAFT takes (R48). -/
def writeOk (f : DraftField) (v : Nat) : Bool :=
  match f with
  | .armSet => (armSetOf v).isSome
  | .zoneSet => (zoneSetOf v).isSome
  | _ => true

def writeDraftOwner : Owner := fun _ ps s =>
  let v := wordAt ps 1
  match draftFieldOf (byteAt ps 0) with
  | none => .refuse .badParam s
  | some f =>
    if writeOk f v then
      withDraft (fun d t => match d.write f v with
        | some e => .ok (setDraft e t)
        | none => .refuse .badParam t) s
    else .refuse .badParam s

/-- WRITE_DRAFT (R48). -/
def execWriteDraft (l : Station) (tag : Byte) (params : List Byte) (s : State) : Host.Outcome State Fault Refusal :=
  .next (serve Form.writeDraft (claimTest .profile writeDraftOwner) l tag params s)

def setPointsOwner : Owner := fun _ ps s =>
  withDraft (fun d t => .ok (setDraft { d with points := some (pointsOf ps) } t)) s

/-- SET_POINTS (R49). -/
def execSetPoints (l : Station) (tag : Byte) (params : List Byte) (s : State) : Host.Outcome State Fault Refusal :=
  .next (serve Form.setPoints (claimTest .profile setPointsOwner) l tag params s)

/-! ## Validation (R50) -/

/-- The first failing point, numbered from k; `before` is the speed of the point before it. -/
def badPoint (k : Nat) (before : Option Nat) : List Point → Option Nat
  | [] => none
  | p :: rest =>
    let order := match before with
      | none => p.speed == 0
      | some v => decide (v < p.speed)
    if order && decide (p.speed ≤ 200) && decide (p.rotation ≤ 100) && decide (p.spray ≤ 100) then
      badPoint (k + 1) (some p.speed) rest
    else some k

def within (lo hi : Nat) (v : Option Nat) : Bool :=
  match v with
  | some n => decide (lo ≤ n) && decide (n ≤ hi)
  | none => false

/-- FORCE_x: an arm in the draft's arm set needs a level 1 to 15. -/
def Draft.forceOk (d : Draft) (a : Arm) : Bool :=
  match d.arms with
  | some set => !set.get a || within 1 15 (some (d.levels.get a).value)
  | none => true

/-- The verdict of a validation: the first failing field in the order of R50. -/
def Draft.validate (d : Draft) : Option Verdict :=
  if d.name.isNone then some ⟨.name, 0⟩
  else if !within 10 200 d.ceiling then some ⟨.ceiling, 0⟩
  else if d.arms.isNone then some ⟨.armSet, 0⟩
  else if !d.forceOk .l then some ⟨.force .l, 0⟩
  else if !d.forceOk .r then some ⟨.force .r, 0⟩
  else if !d.forceOk .c then some ⟨.force .c, 0⟩
  else if d.zones.isNone then some ⟨.zoneSet, 0⟩
  else if !within 0 5000 d.dwell then some ⟨.dwell, 0⟩
  else if !within 25 100 d.reserve then some ⟨.reserve, 0⟩
  else match d.points with
    | none => some ⟨.points, 0⟩
    | some ps => (badPoint 1 none ps).map fun k => ⟨.points, k⟩

/-- The record a validated draft gives (R51). -/
def Draft.record (d : Draft) : Profile where
  name := d.name.getD 0
  ceiling := d.ceiling.getD 0
  arms := d.arms.getD (.all false)
  levels := d.levels.map DraftLevel.value
  zones := d.zones.getD (.all false)
  dwell := d.dwell.getD 0
  reserve := d.reserve.getD 0
  points := d.points.getD []

/-- A slot that a commit may fill (R51). -/
def Slot.open : Slot → Bool
  | .empty => true
  | .held .ready _ => true
  | _ => false

/-- R50, R51. A failing verdict is two data bytes (R188); "answered OK with verdict none" is an OK with no data, since R188
gives no bytes for it: the model's choice (log entry 42). -/
def commitDraftOwner : Owner := fun _ _ s =>
  withDraft (fun d t =>
    if (t.slot d.origin).open then
      match d.validate with
      | some v => ⟨.badParam, .verdict v, setDraft { d with verdict := some v } t⟩
      | none => .ok (closeDraft (t.setSlot d.origin (.held .ready d.record)))
    else .refuse .refusedState t) s

/-- COMMIT_DRAFT (R50, R51). -/
def execCommitDraft (l : Station) (tag : Byte) (params : List Byte) (s : State) : Host.Outcome State Fault Refusal :=
  .next (serve Form.commitDraft (claimTest .profile commitDraftOwner) l tag params s)

/-- DISCARD_DRAFT (R52). -/
def execDiscardDraft (l : Station) (tag : Byte) (params : List Byte) (s : State) :
    Host.Outcome State Fault Refusal :=
  .next (serve Form.discardDraft (claimTest .profile fun _ _ t => withDraft (fun _ u => .ok (closeDraft u)) t)
    l tag params s)

/-! ## Slots (R53, R54) -/

def eraseOwner (n : SlotNo) : Owner := fun _ _ s =>
  if (s.slot n).usedAs .ready then .ok (s.setSlot n .empty) else .refuse .refusedState s

/-- ERASE_PROFILE (R53). -/
def execEraseProfile (l : Station) (tag : Byte) (params : List Byte) (s : State) :
    Host.Outcome State Fault Refusal :=
  .next (serve Form.eraseProfile (claimTest .profile (forSlot eraseOwner)) l tag params s)

def readProfileOwner : Owner := fun _ ps s =>
  let v := byteAt ps 0
  match slotOf v with
  | some n => .okWith (.slot (s.slot n)) s
  | none => if v = 0xFE then .okWith (.draft s.profile.draft) s else .refuse .badParam s

/-- READ_PROFILE (R54). -/
def execReadProfile (l : Station) (tag : Byte) (params : List Byte) (s : State) : Host.Outcome State Fault Refusal :=
  .next (serve Form.readProfile readProfileOwner l tag params s)

/-! ## The changeover (R56, R57, R62, R68) -/

/-- The tests of R56, in order. -/
def selectTest (target : Option SlotNo) (s : State) : Option Status :=
  if s.supervision.safeStop || s.supervision.pendingReset.isSome then some .refusedState
  else if s.profile.changeover.isSome then some .refusedBusy
  else if (target.map fun n => !(s.slot n).usedAs .ready).getD false then some .refusedState
  else if s.travel.setpoint < 0 then some .refusedState
  else none

def selectTarget (raise : Raiser) (target : Option SlotNo) (s : State) : Answer :=
  match selectTest target s with
  | some st => .refuse st s
  | none => .accepted (startChangeover raise target s)

def selectOwner (raise : Raiser) : Owner := fun _ ps s =>
  let v := byteAt ps 0
  match slotOf v with
  | some n => selectTarget raise (some n) s
  | none => if v = 0xFF then selectTarget raise none s else .refuse .badParam s

/-- SELECT_PROFILE (R56, R57). -/
def execSelectProfile (l : Station) (tag : Byte) (params : List Byte) (s : State) :
    Host.Outcome State Fault Refusal :=
  .next (serveEvent Form.selectProfile
    (fun raise => claimTest .profile (commissionTest (selectOwner raise))) l tag params s)

def abortOwner (raise : Raiser) : Owner := fun _ _ s =>
  match s.profile.changeover with
  | none => .refuse .refusedState s
  | some c =>
    if c.kind = .abortReturn || s.supervision.pendingReset.isSome then .refuse .refusedState s
    else .accepted (abortChangeover raise c s)

/-- ABORT_CHANGEOVER (R62). -/
def execAbortChangeover (l : Station) (tag : Byte) (params : List Byte) (s : State) :
    Host.Outcome State Fault Refusal :=
  .next (serveEvent Form.abortChangeover (fun raise => claimTest .profile (abortOwner raise)) l tag params s)

def changeoverData (s : State) : Payload :=
  match s.profile.changeover with
  | some c => .changeover c
  | none => .noChangeover (s.slotUsed .active)

/-- READ_CHANGEOVER (R68). -/
def execReadChangeover (l : Station) (tag : Byte) (params : List Byte) (s : State) :
    Host.Outcome State Fault Refusal :=
  .next (serve Form.readChangeover (fun _ _ t => .okWith (changeoverData t) t) l tag params s)

end Sys2Proof.Machine
end

