-- ==== Sys2Proof/Machine/SprayWater.lean ====
section
/-! DEFINITION. The meanings of the Spray Unit's and the Water Account's requests and timer expiries (R139, R141, R144,
R149, R151, R152). -/

namespace Sys2Proof.Machine

/-- R141: one zone's override, then the evaluation. -/
def setOverride (z : Zone) (off : Bool) (s : State) : State :=
  evaluateZones (s.modSpray fun v => { v with forcedOff := v.forcedOff.set z off })

def zoneOverrideOwner (z : Zone) : Owner := fun _ ps s =>
  let v := byteAt ps 1
  if 1 < v then .refuse .badParam s
  else
    let t := setOverride z (v == 1) s
    .okWith (.zone (t.spray.zones.get z)) t

/-- R141: the data of an accepted override is the zone's state after the request, the end of its event included. -/
def answerZone (l : Station) (ps : List Byte) (s : State) : State :=
  match (s.links.get l).slot.data, zoneOf (byteAt ps 0) with
  | .zone _, some z => s.modLink l fun k => { k with slot := { k.slot with data := .zone (s.spray.zones.get z) } }
  | _, _ => s

/-- ZONE_OVERRIDE (R141). -/
def execZoneOverride (l : Station) (tag : Byte) (params : List Byte) (s : State) :
    Host.Outcome State Fault Refusal :=
  let t := serveEvent Form.zoneOverride (fun _ => claimTest .spray (forZone zoneOverrideOwner)) l tag params s
  .next (if (s.links.get l).state = .receiving then answerZone l params t else t)

/-- R139: STANDING, and the zones re-evaluated. -/
def dwellExpiry (s : State) : State :=
  evaluateZones (s.modSpray fun v => { v with dwell := .standing, dwellTimer := .stopped })

/-- DWELL_TIMER_EXPIRY, for a timer that is due (R139). -/
def execDwellTimerExpiry (s : State) : Host.Outcome State Fault Refusal :=
  .next (if s.spray.dwellTimer.due then event (fun _ => dwellExpiry) s else s)

/-- R144: the pump has run dry. -/
def dryRunExpiry (raise : Raiser) (s : State) : State :=
  waterRunsDry raise (s.modSpray fun v => { v with dryRunTimer := .stopped })

/-- DRY_RUN_TIMER_EXPIRY, for a timer that is due (R144). -/
def execDryRunTimerExpiry (s : State) : Host.Outcome State Fault Refusal :=
  .next (if s.spray.dryRunTimer.due then event dryRunExpiry s else s)

/-- R149. -/
def refillOwner (raise : Raiser) : Owner := fun _ ps s =>
  let v := wordAt ps 0
  if 4000 < v then .refuse .badParam s
  else
    match s.item? 22 with
    | none => .refuseFor .refusedState .uncommissionedItem s
    | some cap =>
      let t := recomputeWater raise (s.modWater fun w => w.refill v cap (s.item 23))
      .okWith (.refilled t.water.estimate t.water.state) t

/-- REFILL (R149). -/
def execRefill (l : Station) (tag : Byte) (params : List Byte) (s : State) : Host.Outcome State Fault Refusal :=
  .next (serveEvent Form.refill (fun raise => claimTest .account (refillOwner raise)) l tag params s)

/-- READ_SPRAY (R151). -/
def execReadSpray (l : Station) (tag : Byte) (params : List Byte) (s : State) : Host.Outcome State Fault Refusal :=
  .next (serve Form.readSpray (fun _ _ t => .okWith (.spray (sprayView t)) t) l tag params s)

/-- READ_WATER (R152). -/
def execReadWater (l : Station) (tag : Byte) (params : List Byte) (s : State) : Host.Outcome State Fault Refusal :=
  .next (serve Form.readWater (fun _ _ t => .okWith (.water (waterView t)) t) l tag params s)

end Sys2Proof.Machine
end

