-- ==== Sys2Proof/Machine/SupervisionRequests.lean ====
section
/-! DEFINITION. The meanings of the Supervision Unit's requests and of the settled reset timer's expiry (R179 to R187). -/

namespace Sys2Proof.Machine

/-! ## Commissioning (R179, R180) -/

/-- R179: an item's range. -/
def itemRange (k v : Nat) : Bool :=
  let between := fun lo hi => decide (lo ≤ v) && decide (v ≤ hi)
  match k with
  | 1 => between 1 1000
  | 2 => between 50 250
  | 3 => between 10 60
  | 4 => between 50 300
  | 5 => between 5 50
  | 6 => between 5 80
  | 7 => between 20 80
  | 8 => between 500 8000 && v % 100 == 0
  | 9 => between 500 8000 && v % 100 == 0
  | 10 => between 50 250
  | 11 => between 1 60
  | 12 => between 1 60
  | 13 => between 300 3000
  | 14 => between 2000 30000
  | 15 => between 1 40
  | 16 => between 1 40
  | 17 => between 1 40
  | 18 => between 1 40
  | 19 => between 1 127
  | 20 => between 0 127
  | 21 => between 800 3000
  | 22 => between 100 4000
  | 23 => between 10 1000
  | 24 => between 1 1000
  | 25 => between 0 100
  | 26 => between 0 100
  | 27 => between 0 100
  | 28 => between 0 100
  | 29 => between 1000 10000
  | 30 => between 20 250
  | 31 => v == 50 || v == 100 || v == 200
  | 32 => v == 50 || v == 100 || v == 200
  | 33 => v == 50 || v == 100 || v == 200
  | 34 => v == 50 || v == 100 || v == 200
  | 35 => v == 50 || v == 100 || v == 200
  | _ => false

/-- Item k takes a value; a number outside 1 to 35 names none. -/
def Supervision.write (v : Supervision) (k n : Nat) : Supervision :=
  if k = 0 then v else { v with items := v.items.setIfInBounds (k - 1) (some n) }

/-- What a written item brings at once: the capacity (R153) or the water state (R148). -/
def itemWritten (raise : Raiser) (k : Nat) (s : State) : State :=
  if k = 19 || k = 20 || k = 21 then recomputeCapacity s
  else if k = 22 || k = 23 then recomputeWater raise s
  else s

def commissionSetOwner (raise : Raiser) : Owner := fun _ ps s =>
  let k := byteAt ps 0
  let v := wordAt ps 1
  if !itemRange k v then .refuse .badParam s
  else if (s.item? k).isSome then .refuse .fixed s
  else .ok (itemWritten raise k (s.modSupervision fun x => x.write k v))

/-- COMMISSION_SET (R179). -/
def execCommissionSet (l : Station) (tag : Byte) (params : List Byte) (s : State) :
    Host.Outcome State Fault Refusal :=
  .next (serveEvent Form.commissionSet commissionSetOwner l tag params s)

/-- The lowest unwritten item. -/
def State.firstUnwritten (s : State) : Option Nat :=
  ((List.range 35).map (· + 1)).find? fun k => (s.item? k).isNone

/-- R180: the first failing check, with the item of check 1. -/
def commitCheck (s : State) : Option (Nat × Nat) :=
  match s.firstUnwritten with
  | some k => some (1, k)
  | none =>
    if s.item 19 < s.item 20 then some (2, 0)
    else if s.item 22 ≤ s.item 23 then some (3, 0)
    else if s.item 2 < s.item 7 then some (4, 0)
    else if s.item 2 < s.item 30 then some (5, 0)
    else none

/-- R178, R180: committed, OPERATIONAL, told to the TG, the ceiling recomputed. -/
def commitCommissioning (s : State) : State :=
  ((s.modSupervision fun v => { v with committed := true, mode := .operational }).modTravel
    fun g => { g with committed := true }).needCeiling

def commissionCommitOwner : Owner := fun _ _ s =>
  if s.supervision.mode ≠ .commissioning then .refuseFor .refusedState .committed s
  else
    match commitCheck s with
    | some (n, k) => ⟨.refusedState, .failedCheck n k, s⟩
    | none => .ok (commitCommissioning s)

/-- COMMISSION_COMMIT (R180). -/
def execCommissionCommit (l : Station) (tag : Byte) (params : List Byte) (s : State) :
    Host.Outcome State Fault Refusal :=
  .next (serveEvent Form.commissionCommit (fun _ => commissionCommitOwner) l tag params s)

/-- STATUS's items (R180). -/
def partStatus (s : State) : PartStatus where
  mode := s.supervision.mode
  committed := s.supervision.committed
  safeStop := s.supervision.safeStop
  causes := s.supervision.causes
  pendingReset := s.supervision.pendingReset
  settledTimer := s.supervision.settledTimer
  verdict := s.clock.verdict

def readCommissionOwner : Owner := fun _ ps s =>
  let k := byteAt ps 0
  .okWith (if k = 0 then .partStatus (partStatus s) else .item (s.item? k)) s

/-- READ_COMMISSION (R180). -/
def execReadCommission (l : Station) (tag : Byte) (params : List Byte) (s : State) :
    Host.Outcome State Fault Refusal :=
  .next (serve Form.readCommission readCommissionOwner l tag params s)

/-! ## Safe stop (R181, R183) -/

/-- SAFE_STOP (R181). -/
def execSafeStop (l : Station) (tag : Byte) (params : List Byte) (s : State) : Host.Outcome State Fault Refusal :=
  .next (serveEvent Form.safeStop (fun raise _ _ t => .ok (enterSafeStop raise .request t)) l tag params s)

/-- The tests of R183, in order. -/
def resumeTest (s : State) : Option Reason :=
  if !s.supervision.safeStop then some .notInSafeStop
  else if s.clock.verdict ≠ .sound then some .clockFault
  else if s.supervision.pendingReset.isSome then some .resetPending
  else if !s.switches.seat.level then some .seat
  else if s.travel.state ≠ .parked then some .notParked
  else none

def resumeOwner (raise : Raiser) : Owner := fun _ _ s =>
  match resumeTest s with
  | some r => .refuseFor .refusedState r s
  | none => .ok (leaveSafeStop raise s)

/-- RESUME (R183). -/
def execResume (l : Station) (tag : Byte) (params : List Byte) (s : State) : Host.Outcome State Fault Refusal :=
  .next (serveEvent Form.resume resumeOwner l tag params s)

/-! ## RESET_PART (R184, R185) -/

/-- The frame is the other row's (log entry 26). -/
def otherReset (kind : Nat) (ps : List Byte) : Bool :=
  ps.length == 1 && decide (byteAt ps 0 < 2) && byteAt ps 0 != kind

/-- RESET_PART; a parameter other than IMMEDIATE and SETTLED is BAD_PARAM on either row. -/
def serveReset (kind : Nat) (k : Raiser → Owner) (l : Station) (tag : Byte) (params : List Byte) (s : State) :
    State :=
  if otherReset kind params then s
  else serveEvent Form.resetPart
    (fun raise st ps t => if byteAt ps 0 ≠ kind then .refuse .badParam t else k raise st ps t) l tag params s

/-- R184, IMMEDIATE: the reset is taken at the frame end, and no response stands after it (R13). -/
def immediateOwner : Owner := fun _ _ s => .ok (s.modWork fun w => { w with reset := some .immediate })

/-- R184, SETTLED. -/
def settledOwner (raise : Raiser) : Owner := fun st _ s =>
  if s.supervision.pendingReset.isSome then .refuse .refusedBusy s
  else
    .accepted (handPendingReset raise (s.modSupervision fun v =>
      { v with pendingReset := some st, settledTimer := .running 15000 }))

/-- RESET_PART_IMMEDIATE (R184). -/
def execResetPartImmediate (l : Station) (tag : Byte) (params : List Byte) (s : State) :
    Host.Outcome State Fault Refusal :=
  .next (serveReset 0 (fun _ => immediateOwner) l tag params s)

/-- RESET_PART_SETTLED (R184). -/
def execResetPartSettled (l : Station) (tag : Byte) (params : List Byte) (s : State) :
    Host.Outcome State Fault Refusal :=
  .next (serveReset 1 settledOwner l tag params s)

/-- SETTLED_RESET_TIMER_EXPIRY, for a timer that is due (R185). -/
def execSettledResetTimerExpiry (s : State) : Host.Outcome State Fault Refusal :=
  .next (if s.supervision.settledTimer.due then afterReset (.settled true) s else s)

/-! ## READ_RESET_CAUSE (R187) -/

def readResetCauseOwner : Owner := fun st _ s =>
  .okWith (.resetCauses (s.supervision.resetCauses.get st)) (s.modSupervision fun v =>
    { v with resetCauses := v.resetCauses.set st ResetCauses.empty })

/-- READ_RESET_CAUSE (R187). -/
def execReadResetCause (l : Station) (tag : Byte) (params : List Byte) (s : State) :
    Host.Outcome State Fault Refusal :=
  .next (serve Form.readResetCause readResetCauseOwner l tag params s)

end Sys2Proof.Machine
end

