-- ==== Sys2Proof/Machine/TravelRequests.lean ====
section
/-! DEFINITION. The meanings of the Travel Governor's requests and timer expiries, and of the engine report (R88 to R91,
R101, R104, R107 to R109, R154, R155, R164). -/

namespace Sys2Proof.Machine

/-! ## Parking (R88, R89) -/

/-- The tests of R88, in order. -/
def releaseTest (s : State) : Option Reason :=
  if s.travel.state ≠ .parked then some .notParked
  else if s.travel.safeStop then some .safeStop
  else if s.travel.resetPending then some .resetPending
  else if !s.travel.seat then some .seat
  else if s.travel.wheelSpeed ≠ 0 then some .moving
  else none

def Travel.releasePark (g : Travel) : Travel :=
  { g with state := .hold, brakeDriven := true, rampTimer := .running 10 }

def releaseParkOwner : Owner := fun _ _ s =>
  match releaseTest s with
  | some r => .refuseFor .refusedState r s
  | none => .ok (s.modTravel Travel.releasePark)

/-- RELEASE_PARK (R88). -/
def execReleasePark (l : Station) (tag : Byte) (params : List Byte) (s : State) :
    Host.Outcome State Fault Refusal :=
  .next (serve Form.releasePark (claimTest .travel (commissionTest releaseParkOwner)) l tag params s)

def applyParkOwner : Owner := fun _ _ s =>
  match s.travel.state with
  | .hold => if s.travel.wheelSpeed = 0 then .ok (s.modTravel Travel.park) else .refuse .refusedState s
  | .parked => .ok s
  | _ => .refuse .refusedState s

/-- APPLY_PARK (R89). -/
def execApplyPark (l : Station) (tag : Byte) (params : List Byte) (s : State) : Host.Outcome State Fault Refusal :=
  .next (serve Form.applyPark (claimTest .travel applyParkOwner) l tag params s)

/-! ## SET_TRAVEL (R90, R106) -/

/-- The TG after an accepted demand; none where it is refused (R90). -/
def Travel.takeDemand (g : Travel) (v : Int) : Option Travel :=
  match g.state with
  | .parked => if v = 0 then some { g with demand := 0 } else none
  | .hold => if v = 0 then some g else some { g with demand := v, state := .drive }
  | .drive =>
    if v = 0 then some { g with demand := 0, state := if g.setpoint = 0 then .hold else .drive }
    else some { g with demand := v }
  | .stopping => none

/-- REVERSE_BLOCKED for a negative demand accepted while the reverse ceiling is 0.0 (R106). -/
def blockReverse (raise : Raiser) (v : Int) (s : State) : State :=
  if v < 0 ∧ s.reverseCeiling = 0 then
    raise (s.raiseOf .none (.reverseBlocked v (s.travel.armStowed.map (!·)))) s
  else s

def setTravelOwner (raise : Raiser) : Owner := fun _ ps s =>
  let v := signedAt ps 0
  if v < -250 ∨ 250 < v then .refuse .badParam s
  else
    match s.travel.takeDemand v with
    | none => .refuse .refusedState s
    | some g =>
      let t := s.modTravel fun _ => g
      .okWith (.travelSet g.demand (toCounts t.rampTarget)) (blockReverse raise v t)

/-- SET_TRAVEL (R90). -/
def execSetTravel (l : Station) (tag : Byte) (params : List Byte) (s : State) : Host.Outcome State Fault Refusal :=
  .next (serveEvent Form.setTravel (fun raise => claimTest .travel (setTravelOwner raise)) l tag params s)

/-! ## ENGINE_REPORT, CLEAR_CAP, READ_TRAVEL (R104, R108, R109) -/

def engineReportOwner : Owner := fun _ ps s =>
  let v := wordAt ps 0
  if 6000 < v then .refuse .badParam s else .ok (takeEngine v s)

/-- ENGINE_REPORT (R108, R154). -/
def execEngineReport (l : Station) (tag : Byte) (params : List Byte) (s : State) :
    Host.Outcome State Fault Refusal :=
  .next (serveEvent Form.engineReport (fun _ => engineReportOwner) l tag params s)

/-- CLEAR_CAP (R104). -/
def execClearCap (l : Station) (tag : Byte) (params : List Byte) (s : State) : Host.Outcome State Fault Refusal :=
  .next (serveEvent Form.clearCap (fun _ => claimTest .travel fun _ _ t => .ok (clearCaps t)) l tag params s)

/-- READ_TRAVEL (R109). -/
def execReadTravel (l : Station) (tag : Byte) (params : List Byte) (s : State) : Host.Outcome State Fault Refusal :=
  .next (serve Form.readTravel (fun _ _ t => .okWith (.travel (travelView t)) t) l tag params s)

/-! ## Timer expiries (R91, R101, R107) -/

/-- RAMP_TIMER_EXPIRY, for a timer that is due (R91). -/
def execRampTimerExpiry (s : State) : Host.Outcome State Fault Refusal :=
  .next (if s.travel.rampTimer.due then event (fun _ => rampExpiry) s else s)

def withdrawFlowCeiling (s : State) : State :=
  (s.modTravel fun g => { g with flowCeiling := none, releaseTimer := .stopped }).needCeiling

/-- FLOW_CEILING_RELEASE_EXPIRY, for a timer that is due (R101). -/
def execFlowCeilingReleaseExpiry (s : State) : Host.Outcome State Fault Refusal :=
  .next (if s.travel.releaseTimer.due then event (fun _ => withdrawFlowCeiling) s else s)

/-- R107: the mark is set before the factor is raised (log entry 15). -/
def overspeedExpiry (raise : Raiser) (s : State) : State :=
  let t := s.modTravel fun g => { g with overspeedTimer := .stopped, overspeedExpired := true }
  raise (t.raiseOf .none (.overspeed t.travel.wheelSpeed (toCounts t.travel.setpoint))) t

/-- OVERSPEED_TIMER_EXPIRY, for a timer that is due (R107). -/
def execOverspeedTimerExpiry (s : State) : Host.Outcome State Fault Refusal :=
  .next (if s.travel.overspeedTimer.due then event overspeedExpiry s else s)

/-! ## The Flow Arbiter (R155, R164) -/

/-- R155: the mark, the idle capacity, ENGINE_REPORT_STALE. That the factor stands in front of the FLOW_SHORT and the
CEILING_CHANGED of the reallocation is the model's choice (log entry 47). -/
def stalenessExpiry (raise : Raiser) (s : State) : State :=
  let t := recomputeCapacity (s.modFlow fun f => { f with mark := .stale, timer := .stopped })
  raise (t.raiseOf .none (.engineStale s.flow.lastEngine s.flow.capacity t.flow.capacity)) t

/-- STALENESS_TIMER_EXPIRY, for a timer that is due (R155). -/
def execStalenessTimerExpiry (s : State) : Host.Outcome State Fault Refusal :=
  .next (if s.flow.timer.due then event stalenessExpiry s else s)

def flowView (s : State) : FlowView := ⟨s.flow, s.travel.flowCeiling, s.travel.releaseTimer⟩

/-- READ_FLOW (R164). -/
def execReadFlow (l : Station) (tag : Byte) (params : List Byte) (s : State) : Host.Outcome State Fault Refusal :=
  .next (serve Form.readFlow (fun _ _ t => .okWith (.flow (flowView t)) t) l tag params s)

end Sys2Proof.Machine
end

