-- ==== Sys2Proof/Machine/Dispatch.lean ====
section
/-! DEFINITION. The meaning of each command: one arm for each constructor of Instr. -/

namespace Sys2Proof.Machine

/-- A command's effect on everything but the queue. -/
def exec (i : Instr) (s : State) : Host.Outcome State Fault Refusal :=
  match i with
  | .powerOnReset => Sys2Proof.Machine.execPowerOnReset s
  | .lineReset => Sys2Proof.Machine.execLineReset s
  | .resetLineReleased => Sys2Proof.Machine.execResetLineReleased s
  | .crystalSettled => Sys2Proof.Machine.execCrystalSettled s
  | .pllLocked => Sys2Proof.Machine.execPllLocked s
  | .pllLockTimeout => Sys2Proof.Machine.execPllLockTimeout s
  | .clockMonitorInterval cycles => Sys2Proof.Machine.execClockMonitorInterval cycles s
  | .timebaseTick => Sys2Proof.Machine.execTimebaseTick s
  | .chipSelectFall link => Sys2Proof.Machine.execChipSelectFall link s
  | .disregardEnd link => Sys2Proof.Machine.execDisregardEnd link s
  | .emptyTransaction link => Sys2Proof.Machine.execEmptyTransaction link s
  | .badFrame link bytes => Sys2Proof.Machine.execBadFrame link bytes s
  | .unknownRequest link code tag params => Sys2Proof.Machine.execUnknownRequest link code tag params s
  | .nop link tag params => Sys2Proof.Machine.execNop link tag params s
  | .identify link tag params => Sys2Proof.Machine.execIdentify link tag params s
  | .reportIn link tag params => Sys2Proof.Machine.execReportIn link tag params s
  | .keepPrepare link tag params => Sys2Proof.Machine.execKeepPrepare link tag params s
  | .keepCommit link tag params => Sys2Proof.Machine.execKeepCommit link tag params s
  | .reportOut link tag params => Sys2Proof.Machine.execReportOut link tag params s
  | .windowCounterExpiry st => Sys2Proof.Machine.execWindowCounterExpiry st s
  | .claimTry link tag params => Sys2Proof.Machine.execClaimTry link tag params s
  | .claimWait link tag params => Sys2Proof.Machine.execClaimWait link tag params s
  | .release link tag params => Sys2Proof.Machine.execRelease link tag params s
  | .yield link tag params => Sys2Proof.Machine.execYield link tag params s
  | .override link tag params => Sys2Proof.Machine.execOverride link tag params s
  | .withdrawWait link tag params => Sys2Proof.Machine.execWithdrawWait link tag params s
  | .readClaim link tag params => Sys2Proof.Machine.execReadClaim link tag params s
  | .openDraft link tag params => Sys2Proof.Machine.execOpenDraft link tag params s
  | .writeDraft link tag params => Sys2Proof.Machine.execWriteDraft link tag params s
  | .setPoints link tag params => Sys2Proof.Machine.execSetPoints link tag params s
  | .commitDraft link tag params => Sys2Proof.Machine.execCommitDraft link tag params s
  | .discardDraft link tag params => Sys2Proof.Machine.execDiscardDraft link tag params s
  | .eraseProfile link tag params => Sys2Proof.Machine.execEraseProfile link tag params s
  | .readProfile link tag params => Sys2Proof.Machine.execReadProfile link tag params s
  | .selectProfile link tag params => Sys2Proof.Machine.execSelectProfile link tag params s
  | .abortChangeover link tag params => Sys2Proof.Machine.execAbortChangeover link tag params s
  | .readChangeover link tag params => Sys2Proof.Machine.execReadChangeover link tag params s
  | .capturePulse ch phaseBHigh => Sys2Proof.Machine.execCapturePulse ch phaseBHigh s
  | .gateExpiry ch => Sys2Proof.Machine.execGateExpiry ch s
  | .rawLevelChange input asserted => Sys2Proof.Machine.execRawLevelChange input asserted s
  | .debounceExpiry input => Sys2Proof.Machine.execDebounceExpiry input s
  | .releasePark link tag params => Sys2Proof.Machine.execReleasePark link tag params s
  | .applyPark link tag params => Sys2Proof.Machine.execApplyPark link tag params s
  | .setTravel link tag params => Sys2Proof.Machine.execSetTravel link tag params s
  | .engineReport link tag params => Sys2Proof.Machine.execEngineReport link tag params s
  | .clearCap link tag params => Sys2Proof.Machine.execClearCap link tag params s
  | .readTravel link tag params => Sys2Proof.Machine.execReadTravel link tag params s
  | .rampTimerExpiry => Sys2Proof.Machine.execRampTimerExpiry s
  | .flowCeilingReleaseExpiry => Sys2Proof.Machine.execFlowCeilingReleaseExpiry s
  | .overspeedTimerExpiry => Sys2Proof.Machine.execOverspeedTimerExpiry s
  | .armLower link tag params => Sys2Proof.Machine.execArmLower link tag params s
  | .armRaise link tag params => Sys2Proof.Machine.execArmRaise link tag params s
  | .armHalt link tag params => Sys2Proof.Machine.execArmHalt link tag params s
  | .armClearFault link tag params => Sys2Proof.Machine.execArmClearFault link tag params s
  | .readArm link tag params => Sys2Proof.Machine.execReadArm link tag params s
  | .motionTimerExpiry arm => Sys2Proof.Machine.execMotionTimerExpiry arm s
  | .settleTimerExpiry arm => Sys2Proof.Machine.execSettleTimerExpiry arm s
  | .pinnedTimerExpiry arm => Sys2Proof.Machine.execPinnedTimerExpiry arm s
  | .stallTimerExpiry arm => Sys2Proof.Machine.execStallTimerExpiry arm s
  | .zoneOverride link tag params => Sys2Proof.Machine.execZoneOverride link tag params s
  | .dwellTimerExpiry => Sys2Proof.Machine.execDwellTimerExpiry s
  | .dryRunTimerExpiry => Sys2Proof.Machine.execDryRunTimerExpiry s
  | .refill link tag params => Sys2Proof.Machine.execRefill link tag params s
  | .readSpray link tag params => Sys2Proof.Machine.execReadSpray link tag params s
  | .readWater link tag params => Sys2Proof.Machine.execReadWater link tag params s
  | .stalenessTimerExpiry => Sys2Proof.Machine.execStalenessTimerExpiry s
  | .readFlow link tag params => Sys2Proof.Machine.execReadFlow link tag params s
  | .readNotices link tag params => Sys2Proof.Machine.execReadNotices link tag params s
  | .ackFactors link tag params => Sys2Proof.Machine.execAckFactors link tag params s
  | .setNoticeMask link tag params => Sys2Proof.Machine.execSetNoticeMask link tag params s
  | .setMasterMask link tag params => Sys2Proof.Machine.execSetMasterMask link tag params s
  | .bindReaction link tag params => Sys2Proof.Machine.execBindReaction link tag params s
  | .unbindReaction link tag params => Sys2Proof.Machine.execUnbindReaction link tag params s
  | .readReactions link tag params => Sys2Proof.Machine.execReadReactions link tag params s
  | .commissionSet link tag params => Sys2Proof.Machine.execCommissionSet link tag params s
  | .commissionCommit link tag params => Sys2Proof.Machine.execCommissionCommit link tag params s
  | .readCommission link tag params => Sys2Proof.Machine.execReadCommission link tag params s
  | .safeStop link tag params => Sys2Proof.Machine.execSafeStop link tag params s
  | .resume link tag params => Sys2Proof.Machine.execResume link tag params s
  | .resetPartImmediate link tag params => Sys2Proof.Machine.execResetPartImmediate link tag params s
  | .resetPartSettled link tag params => Sys2Proof.Machine.execResetPartSettled link tag params s
  | .settledResetTimerExpiry => Sys2Proof.Machine.execSettledResetTimerExpiry s
  | .readResetCause link tag params => Sys2Proof.Machine.execReadResetCause link tag params s

end Sys2Proof.Machine
end

