-- ==== Sys2Proof/Safety.lean ====
section
/-! DEFINITION. The laws of the part as predicates on a state. -/

namespace Sys2Proof.Machine

/-- R28 for one group: at most two waiters, none twice, none the holder, none on a free group; holder and waiters
attend and are permitted. -/
def Claim.lawful (c : Claim) (g : Group) (attends : Station → Bool) : Prop :=
  c.waiting.length ≤ 2 ∧ c.waiting.Nodup ∧ (∀ st, c.holder = some st → st ∉ c.waiting) ∧
    (c.holder = none → c.waiting = []) ∧
    (∀ st, c.holder = some st ∨ st ∈ c.waiting → attends st = true ∧ permitted g st = true)

/-- R28: the law of the claim table. -/
def claimLaw (s : State) : Prop := ∀ g, (s.claims.get g).lawful g s.attends

/-- R26: the owner of an open draft is attending. -/
def draftLaw (s : State) : Prop := ∀ d, s.profile.draft = some d → s.attends d.owner = true

/-- The uses that no slot has, by the kind of the record in force. -/
def ChangeKind.unused : Option ChangeKind → List SlotUse
  | none => [.incoming, .outgoing]
  | some .reapply => [.incoming, .outgoing]
  | some .toTransport => [.active, .incoming]
  | some .select => [.active]
  | some .abortReturn => [.active]

/-- R41 with what keeps it: which uses no slot has, by the record. -/
def Profiles.storeOk (p : Profiles) : Prop :=
  (∀ u, u ≠ .ready → ∀ m n : SlotNo, p.slots[m].usedAs u = true → p.slots[n].usedAs u = true → m = n) ∧
    ∀ u ∈ ChangeKind.unused (p.changeover.map Changeover.kind), ∀ n : SlotNo, p.slots[n].usedAs u = false

/-- R41: the law of the store. -/
def storeLaw (s : State) : Prop := s.profile.storeOk

/-- R106 over the TG's own record: the setpoint is negative only while its copies show all three arms STOWED. -/
def Travel.setpointLawful (g : Travel) : Prop :=
  (g.setpoint < 0 → g.reverseOpen = true) ∧ (g.reverseOpen = true → PerArm.allSet g.armStowed = true)

def setpointLaw (s : State) : Prop := s.travel.setpointLawful

/-- R121 and R131 for one arm: a lift valve is open only while the arm moves that way, the brush turns only while it
is down. -/
def ArmUnit.lawful (u : ArmUnit) : Prop :=
  (u.liftDownOpen = true → u.state = .lowering ∧ u.sub = .moving) ∧
    (u.liftUpOpen = true → u.state = .raising ∧ u.sub = .moving) ∧
    (u.rot ≠ 0 → u.state = .working ∨ u.state = .deflected)

/-- R121, R131: the law of the arms' outputs. -/
def outputLaw (s : State) : Prop := ∀ a, (s.arm a).lawful

/-- The blocks that keep a copy of an arm's state (R112). -/
inductive Holder where
  | travel | spray | water | supervision

/-- A block's copy of an arm's state agrees with the arm. -/
def copyOk (h : Holder) (a : Arm) (s : State) : Prop :=
  let st := (s.arm a).state
  match h with
  | .travel => s.travel.armStowed.get a = (st == .stowed) ∧
      s.travel.armMoving.get a = (st == .lowering || st == .raising)
  | .spray => s.spray.armState.get a = st
  | .water => s.water.armDown.get a = st.isDown
  | .supervision => s.supervision.armDone.get a = (st == .stowed || st == .fault)

/-- R112: every copy of an arm's state agrees with the arm. -/
def copyLaw (s : State) : Prop := ∀ h a, copyOk h a s

/-- R148, R135, R80: the copies of the water state and of the FROST level agree with their owners. -/
def waterCopyLaw (s : State) : Prop :=
  s.spray.waterState = s.water.state ∧ s.travel.waterEmpty = (s.water.state == .empty)
def frostCopyLaw (s : State) : Prop := s.spray.frost = s.switches.frost.level

/-- R137 for one zone: the valve open only while the zone is ON, a zone ON only while water, frost, safe stop and
its arm allow it. -/
def Spray.valveLawful (v : Spray) (z : Zone) : Prop :=
  (v.valves.get z = true → v.zones.get z = .on) ∧
    (v.zones.get z = .on → v.waterState ≠ .empty ∧ v.frost = false ∧ v.safeStop = false ∧
      ∀ a, z.arm = some a → v.armState.get a = .working)

/-- R137: the law of the spray valves. -/
def valveLaw (s : State) : Prop := ∀ z, s.spray.valveLawful z

/-- R145: the estimate lies within the commissioned tank capacity. -/
def estimateLaw (s : State) : Prop := s.water.estimate ≤ s.item 22

/-- R157: the grants fit in the capacity, and none exceeds its demand. -/
def Flow.grantsLawful (f : Flow) : Prop :=
  f.liftGrant.sum + f.rotGrant.sum + f.pumpGrant ≤ f.capacity ∧
    (∀ a, f.liftGrant.get a ≤ f.liftDemand.get a) ∧ (∀ a, f.rotGrant.get a ≤ f.rotDemand.get a) ∧
    f.pumpGrant ≤ f.pumpDemand

/-- R158: every posted lift stands in one of the two lists, once; a granted lift has its whole demand. -/
def Flow.listsLawful (f : Flow) : Prop :=
  f.queue.Nodup ∧ f.granted.Nodup ∧
    (∀ a, a ∈ f.granted ↔ 0 < f.liftGrant.get a) ∧
    (∀ a, a ∈ f.queue ↔ 0 < f.liftDemand.get a ∧ f.liftGrant.get a = 0) ∧
    (∀ a, f.liftGrant.get a = 0 ∨ f.liftGrant.get a = f.liftDemand.get a)

/-- R168: a queue holds at most 16 notices. -/
def queueLaw (s : State) : Prop := ∀ st, (s.notices.get st).queue.length ≤ 16

/-- LOWERING, WORKING or DEFLECTED. -/
def ArmState.lowered : ArmState → Bool
  | .lowering => true
  | .working => true
  | .deflected => true
  | _ => false

/-- No slot is ACTIVE, INCOMING or OUTGOING. -/
def Profiles.idle (p : Profiles) : Prop := ∀ (n : SlotNo) u, u ≠ .ready → p.slots[n].usedAs u = false

/-- R182, R63: while safe stop is in force no arm is LOWERING and no changeover record exists; the TG's and the Spray
Unit's copies agree. -/
def safeStopLaw (s : State) : Prop :=
  (s.supervision.safeStop = true → s.profile.changeover = none ∧ ∀ a, (s.arm a).state ≠ .lowering) ∧
    s.spray.safeStop = s.supervision.safeStop ∧ s.travel.safeStop = s.supervision.safeStop

/-- R178, R180: outside OPERATIONAL the TG is PARKED, no arm is down or on its way down and no profile is in use. -/
def idleLaw (s : State) : Prop :=
  s.supervision.mode ≠ .operational →
    s.travel.state = .parked ∧ s.profile.changeover = none ∧ s.profile.idle ∧ ∀ a, (s.arm a).state.lowered = false

/-- R178, R180: the part is OPERATIONAL only once committed, and committed only with all 35 items written. -/
def commissionLaw (s : State) : Prop :=
  (s.supervision.mode = .operational → s.supervision.committed = true) ∧
    (s.supervision.committed = true → ∀ k, 1 ≤ k → k ≤ 35 → (s.item? k).isSome = true)

/-- R178, R13: the part is STARTING until its clock runs, and then every link is OFFLINE. -/
def startingLaw (s : State) : Prop :=
  (s.supervision.mode = .starting ↔ s.clock.phase ≠ .running) ∧
    (s.supervision.mode = .starting → ∀ l, (s.links.get l).state = .offline)

/-- No entry of the reaction table is bound: no raise starts an action. -/
def NoReactions (s : State) : Prop := ∀ e : EntryNo, s.reactions[e] = none

/-- The model's own: nothing is left to do between events. -/
def workClear (s : State) : Prop := s.work = Work.clear

/-- The laws of the part, with what keeps them. -/
structure Lawful (s : State) : Prop where
  claims : claimLaw s
  draft : draftLaw s
  store : storeLaw s
  setpoint : setpointLaw s
  outputs : outputLaw s
  copies : copyLaw s
  waterCopy : waterCopyLaw s
  frostCopy : frostCopyLaw s
  valves : valveLaw s
  estimate : estimateLaw s
  grants : s.flow.grantsLawful
  lists : s.flow.listsLawful
  queues : queueLaw s
  safeStop : safeStopLaw s
  idle : idleLaw s
  commission : commissionLaw s
  starting : startingLaw s
  work : workClear s

/-! ## What statements about requests are said over -/

/-- A good frame of form f ends on link l, from a station that passes the stages before the owner (R6, R7). -/
structure Sent (f : Form) (l : Station) (ps : List Byte) (s : State) : Prop where
  receiving : (s.links.get l).state = .receiving
  room : ps.length ≤ 40
  attends : f.exempt = true ∨ s.attends l = true
  form : f.formOk ps = true
  role : f.roleOk l ps = true

/-- Nothing is left to do from an event before, and no settled reset is pending. -/
structure Quiet (s : State) : Prop where
  work : workClear s
  noReset : s.supervision.pendingReset = none

/-- The link at the frame end: IDLE, the frame and its byte count as received (R3, R5). -/
def Link.heard (k : Link) (f : Form) (tag : Byte) (ps : List Byte) : Link :=
  { k with state := .idle, chipSelectLow := false, rxFrame := requestFrame f.code tag ps, rxCount := ps.length + 4 }

/-- The attendance records with the sender's renewal prepared flag clear (R21). -/
def unprepared (l : Station) (s : State) : PerStation Attendance :=
  s.attendance.set l { s.attendance.get l with prepared := false }

/-- The state a request's owner decides against. -/
def heard (f : Form) (l : Station) (tag : Byte) (ps : List Byte) (s : State) : State :=
  { s with links := s.links.set l ((s.links.get l).heard f tag ps), attendance := unprepared l s }

/-- The links after a request answered with a status and data (R11). -/
def linksAfter (f : Form) (l : Station) (tag : Byte) (ps : List Byte) (st : Status) (d : Payload) (s : State) :
    PerStation Link :=
  s.links.set l { (s.links.get l).heard f tag ps with slot := ⟨st, tag, f.code, d⟩ }

/-- A request answered, with nothing else changed. -/
def replied (f : Form) (l : Station) (tag : Byte) (ps : List Byte) (st : Status) (d : Payload) (s : State) : State :=
  { s with links := linksAfter f l tag ps st d s, attendance := unprepared l s }

/-- A SELECT to slot n under way, or done (R57, R60). -/
def Profiles.selecting (p : Profiles) (n : SlotNo) : Prop :=
  (∃ c, p.changeover = some c ∧ c.kind = .select ∧ c.toSlot = some n ∧ p.slots[n].usedAs .incoming = true) ∨
    p.changeover = none ∧ p.slots[n].usedAs .active = true

/-- The same changeover, its pending arms and degraded flag apart (R55). -/
def Changeover.same (d c : Changeover) : Prop :=
  d.kind = c.kind ∧ d.fromSlot = c.fromSlot ∧ d.toSlot = c.toSlot ∧ d.start = c.start

/-- An arm that a changeover counts as done: in FAULT, or at its target (R58, R59). -/
def ArmUnit.isDone (u : ArmUnit) (t : ArmTarget) : Prop := u.state = .fault ∨ u.state.meets t = true

/-- An arm that cannot be at its target within the event: not done, the end switch on that side clear (R58, R118). -/
def ArmUnit.isAway (u : ArmUnit) (t : ArmTarget) : Prop :=
  ¬u.isDone t ∧ match t with
    | .down => u.down = false
    | .stowed => u.up = false

/-- The arms are given the targets of a set: the record of the changeover stands while an arm has not reached its target,
an arm that is free to move moves toward it, and with every arm done the record is gone (R58 to R60). -/
structure ChangesTo (k : ChangeKind) (source target : Option SlotNo) (set : ArmSet) (s t : State) : Prop where
  record : ∀ d, t.profile.changeover = some d → d.kind = k ∧ d.fromSlot = source ∧ d.toSlot = target ∧
    d.start = s.time ∧ ∀ a p, d.pending.get a = some p → p.target = (if set.get a then .down else .stowed) ∧
      (p.overtaken = true ↔ (s.arm a).reaction ≠ none)
  stands : ∀ a, (s.arm a).isAway (if set.get a then .down else .stowed) →
    (∃ d p, t.profile.changeover = some d ∧ d.pending.get a = some p) ∧
      ((s.arm a).reaction = none → (t.arm a).state = (if set.get a then .lowering else .raising) ∧
        ((t.arm a).state ≠ (s.arm a).state → (t.arm a).origin = .changeover ∧
          (t.arm a).target = if set.get a then .down else .stowed))
  done : (∀ a, (s.arm a).isDone (if set.get a then .down else .stowed)) → t.profile.changeover = none

/-! ### The values in force and the end of a changeover -/

/-- A side's ceiling; an absent side stands at the commissioned maximum (R44). -/
def State.sideCeiling (s : State) (r : Option Profile) : Nat := (r.map Profile.ceiling).getD (s.item 2)

/-- The blocks hold a profile's values, or with none the transport values, under a profile ceiling, and what depends on
them at once (R44, R45, R130, R131, R137). -/
structure InForce (ceiling : Nat) (r : Option Profile) (t : State) : Prop where
  ceiling : t.profileSource.value = ceiling
  zones : t.spray.zoneSet = (r.map Profile.zones).getD (.all false)
  empty : t.travel.zonesEmpty = true ↔ ∀ z, t.spray.zoneSet.get z = false
  dwell : t.spray.dwellDelay = (r.map Profile.dwell).getD 0
  reserve : t.spray.reserve = (r.map Profile.reserve).getD 100
  arms : ∀ a, (t.arm a).inSet = ((r.map Profile.arms).getD (.all false)).get a
  levels : ∀ a, (t.arm a).level = match r with
    | some p => if p.arms.get a then p.levels.get a else 0
    | none => 0
  points : match r with
    | some p => t.spray.points = p.points ∧ ∀ a, (t.arm a).points = p.points
    | none => ∀ v, coupling Point.spray v t.spray.points = 0 ∧ ∀ a, coupling Point.rotation v (t.arm a).points = 0
  force : ∀ a, (t.arm a).force = if (t.arm a).state = .working then (t.arm a).level * 100 / 15 else 0
  target : ∀ a, (t.arm a).rotTarget = match (t.arm a).state with
    | .working => coupling Point.rotation (t.arm a).wheelSpeed.natAbs (t.arm a).points
    | .deflected => coupling Point.rotation (t.arm a).wheelSpeed.natAbs (t.arm a).points / 2
    | _ => 0
  duty : ∀ z, t.spray.duty.get z =
    if t.spray.zones.get z = .on then coupling Point.spray t.spray.wheelSpeed.natAbs t.spray.points else 0

/-- What a slot's use becomes at the end of a changeover: by kind where its arms are done (R60), all alike where safe stop
cuts it short (R64). -/
def ChangeEnding.leaves : ChangeEnding → ChangeKind → SlotUse → SlotUse
  | .arms, .select, .incoming => .active
  | .arms, .select, .outgoing => .ready
  | .arms, .toTransport, .outgoing => .ready
  | .arms, .abortReturn, .incoming => .ready
  | .arms, .abortReturn, .outgoing => .active
  | .safeStop, _, .incoming => .ready
  | .safeStop, _, .outgoing => .active
  | _, _, u => u

/-- R60, R64, R67. -/
def ChangeEnding.outcome (e : ChangeEnding) (k : ChangeKind) (degraded : Bool) : ChangeOutcome :=
  if e = .safeStop ∨ k = .abortReturn then .aborted else if degraded then .degraded else .completed

/-- A changeover has ended, the slots before its end given: the record is gone, the slots stand by the table, the values of
the slot then ACTIVE are in force, and every attending station holds CHANGEOVER_DONE (R44, R60, R64, R67). -/
structure ChangeoverEnds (k : ChangeKind) (e : ChangeEnding) (degraded : Bool) (slots : SlotNo → Slot) (s t : State) :
    Prop where
  record : t.profile.changeover = none
  slots : ∀ n : SlotNo, t.slot n = match slots n with
    | .held u r => .held (e.leaves k u) r
    | .empty => .empty
  values : let r := t.recordAt (t.slotUsed .active)
    InForce (s.sideCeiling r) r t
  told : ∀ x, s.attends x = true → (t.notices.get x).held[(4 : Fin 24)] = some
    ⟨match t.slotUsed .active with
      | some n => .slot n
      | none => .none,
     .changeoverDone (e.outcome k degraded) k e degraded (((t.recordAt (t.slotUsed .active)).map Profile.name).getD 0),
     s.time, none⟩

/-- A changeover started or turned round in this event, the slots it gives: with its record in force it holds those slots,
has its degraded flag from the arms in FAULT and puts values in force; with every arm done it has ended (R44, R45, R58, R60). -/
structure ChangeoverGoes (k : ChangeKind) (was : Bool) (slots : SlotNo → Slot) (ceiling : Nat) (r : Option Profile)
    (s t : State) : Prop where
  stands : ∀ d, t.profile.changeover = some d → (d.degraded = true ↔ was = true ∨ ∃ a, (s.arm a).state = .fault) ∧
    (∀ n : SlotNo, t.slot n = slots n) ∧ InForce ceiling r t
  ends : t.profile.changeover = none → ∃ degraded : Bool,
    (degraded = true ↔ was = true ∨ ∃ a, (s.arm a).state = .fault) ∧ ChangeoverEnds k .arms degraded slots s t

/-- An arm reports a state: where it is pending and the state meets its target or is FAULT it leaves the pending set, FAULT
sets degraded, and the last one ends the changeover; else the profile store stands (R59, R60). -/
structure ReportsArm (a : Arm) (st : ArmState) (s t : State) : Prop where
  none : s.profile.changeover = none → t.profile = s.profile
  other : ∀ c, s.profile.changeover = some c →
    (∀ p, c.pending.get a = some p → st ≠ .fault ∧ st.meets p.target = false) → t.profile = s.profile
  done : ∀ c p, s.profile.changeover = some c → c.pending.get a = some p → st = .fault ∨ st.meets p.target = true →
    ((∃ b, b ≠ a ∧ c.pending.get b ≠ Option.none) → t.profile = { s.profile with
      changeover := some { c with pending := c.pending.set a Option.none, degraded := c.degraded || st == .fault } }) ∧
    ((∀ b, b ≠ a → c.pending.get b = Option.none) →
      ChangeoverEnds c.kind .arms (c.degraded || st == .fault) s.slot s t)

/-- The request that a command is: its form, its link, its tag and its parameters (R188). -/
def requestOf : Instr → Option (Form × Station × Byte × List Byte)
  | .nop l tag ps => some (Form.nop, l, tag, ps)
  | .identify l tag ps => some (Form.identify, l, tag, ps)
  | .reportIn l tag ps => some (Form.reportIn, l, tag, ps)
  | .keepPrepare l tag ps => some (Form.keepPrepare, l, tag, ps)
  | .keepCommit l tag ps => some (Form.keepCommit, l, tag, ps)
  | .reportOut l tag ps => some (Form.reportOut, l, tag, ps)
  | .claimTry l tag ps => some (Form.claimTry, l, tag, ps)
  | .claimWait l tag ps => some (Form.claimWait, l, tag, ps)
  | .release l tag ps => some (Form.release, l, tag, ps)
  | .yield l tag ps => some (Form.yieldGroup, l, tag, ps)
  | .override l tag ps => some (Form.override, l, tag, ps)
  | .withdrawWait l tag ps => some (Form.withdrawWait, l, tag, ps)
  | .readClaim l tag ps => some (Form.readClaim, l, tag, ps)
  | .openDraft l tag ps => some (Form.openDraft, l, tag, ps)
  | .writeDraft l tag ps => some (Form.writeDraft, l, tag, ps)
  | .setPoints l tag ps => some (Form.setPoints, l, tag, ps)
  | .commitDraft l tag ps => some (Form.commitDraft, l, tag, ps)
  | .discardDraft l tag ps => some (Form.discardDraft, l, tag, ps)
  | .eraseProfile l tag ps => some (Form.eraseProfile, l, tag, ps)
  | .readProfile l tag ps => some (Form.readProfile, l, tag, ps)
  | .selectProfile l tag ps => some (Form.selectProfile, l, tag, ps)
  | .abortChangeover l tag ps => some (Form.abortChangeover, l, tag, ps)
  | .readChangeover l tag ps => some (Form.readChangeover, l, tag, ps)
  | .releasePark l tag ps => some (Form.releasePark, l, tag, ps)
  | .applyPark l tag ps => some (Form.applyPark, l, tag, ps)
  | .setTravel l tag ps => some (Form.setTravel, l, tag, ps)
  | .engineReport l tag ps => some (Form.engineReport, l, tag, ps)
  | .clearCap l tag ps => some (Form.clearCap, l, tag, ps)
  | .readTravel l tag ps => some (Form.readTravel, l, tag, ps)
  | .armLower l tag ps => some (Form.armCommand, l, tag, ps)
  | .armRaise l tag ps => some (Form.armCommand, l, tag, ps)
  | .armHalt l tag ps => some (Form.armCommand, l, tag, ps)
  | .armClearFault l tag ps => some (Form.armCommand, l, tag, ps)
  | .readArm l tag ps => some (Form.readArm, l, tag, ps)
  | .zoneOverride l tag ps => some (Form.zoneOverride, l, tag, ps)
  | .refill l tag ps => some (Form.refill, l, tag, ps)
  | .readSpray l tag ps => some (Form.readSpray, l, tag, ps)
  | .readWater l tag ps => some (Form.readWater, l, tag, ps)
  | .readFlow l tag ps => some (Form.readFlow, l, tag, ps)
  | .readNotices l tag ps => some (Form.readNotices, l, tag, ps)
  | .ackFactors l tag ps => some (Form.ackFactors, l, tag, ps)
  | .setNoticeMask l tag ps => some (Form.setNoticeMask, l, tag, ps)
  | .setMasterMask l tag ps => some (Form.setMasterMask, l, tag, ps)
  | .bindReaction l tag ps => some (Form.bindReaction, l, tag, ps)
  | .unbindReaction l tag ps => some (Form.unbindReaction, l, tag, ps)
  | .readReactions l tag ps => some (Form.readReactions, l, tag, ps)
  | .commissionSet l tag ps => some (Form.commissionSet, l, tag, ps)
  | .commissionCommit l tag ps => some (Form.commissionCommit, l, tag, ps)
  | .readCommission l tag ps => some (Form.readCommission, l, tag, ps)
  | .safeStop l tag ps => some (Form.safeStop, l, tag, ps)
  | .resume l tag ps => some (Form.resume, l, tag, ps)
  | .resetPartImmediate l tag ps => some (Form.resetPart, l, tag, ps)
  | .resetPartSettled l tag ps => some (Form.resetPart, l, tag, ps)
  | .readResetCause l tag ps => some (Form.readResetCause, l, tag, ps)
  | _ => none

/-- The group whose holder alone may send a request (R9, R10). -/
def groupHeldFor : Instr → Option Group
  | .openDraft .. => some .profile
  | .writeDraft .. => some .profile
  | .setPoints .. => some .profile
  | .commitDraft .. => some .profile
  | .discardDraft .. => some .profile
  | .eraseProfile .. => some .profile
  | .selectProfile .. => some .profile
  | .abortChangeover .. => some .profile
  | .releasePark .. => some .travel
  | .applyPark .. => some .travel
  | .setTravel .. => some .travel
  | .clearCap .. => some .travel
  | .armLower _ _ ps => (armOf (byteAt ps 0)).map Arm.group
  | .armRaise _ _ ps => (armOf (byteAt ps 0)).map Arm.group
  | .armHalt _ _ ps => (armOf (byteAt ps 0)).map Arm.group
  | .armClearFault _ _ ps => (armOf (byteAt ps 0)).map Arm.group
  | .zoneOverride .. => some .spray
  | .refill .. => some .account
  | _ => none

/-- A reset asked for by a station leaves the stores so (R40, R86, R110, R145, R172, R177, R186, R187). -/
structure AfterRequest (timeout : Option Bool) (s t : State) : Prop where
  pending : t.pending = s.pending
  time : t.time = 0
  mode : t.supervision.mode = .starting
  safeStop : t.supervision.safeStop = false ∧ t.supervision.causes = SafeCauses.empty
  noReset : t.supervision.pendingReset = none ∧ t.supervision.settledTimer = .stopped
  commissioning : t.supervision.items = s.supervision.items ∧ t.supervision.committed = s.supervision.committed
  causes : ∀ st, t.supervision.resetCauses.get st =
    match timeout with
    | none => { s.supervision.resetCauses.get st with immediate := true }
    | some late => { s.supervision.resetCauses.get st with
        settled := true, settleTimeout := (s.supervision.resetCauses.get st).settleTimeout || late }
  links : ∀ l, (t.links.get l).state = .offline ∧ (t.links.get l).slot = ⟨.none, 0, 0, .none⟩
  attendance : ∀ st, t.attendance.get st = ⟨.absent, none, .stopped, false⟩
  claims : ∀ g, t.claims.get g = ⟨none, 0, []⟩
  notices : ∀ st, t.notices.get st = StationNotices.reset
  slots : ∀ n : SlotNo, t.slot n = (s.slot n).become .ready
  draft : t.profile.draft = none ∧ t.profile.changeover = none
  travel : t.travel.state = .parked ∧ t.travel.setpoint = 0 ∧ t.travel.demand = 0 ∧ t.travel.brakeDriven = false ∧
    (∀ e : EntryNo, t.travel.caps[e] = none)
  arms : ∀ a, (t.arm a).state = .halted ∧ (t.arm a).liftDownOpen = false ∧ (t.arm a).liftUpOpen = false ∧
    (t.arm a).force = 0 ∧ (t.arm a).rot = 0
  spray : ∀ z, t.spray.zones.get z = .off ∧ t.spray.forcedOff.get z = false ∧ t.spray.valves.get z = false
  water : t.water.estimate = s.water.estimate ∧ t.water.pulses = s.water.pulses ∧ t.water.state = s.water.state ∧
    t.water.dryLatch = s.water.dryLatch ∧ t.water.dispensed = s.water.dispensed ∧ t.water.swept = s.water.swept ∧
    t.water.sweptPulses = s.water.sweptPulses
  reactions : ∀ e : EntryNo, t.reactions[e] =
    match s.reactions[e] with
    | some b => if b.enabled then some { b with held := none } else none
    | none => none

/-- The TG after its holder has gone: from DRIVE it stops, at rest at once or in STOPPING (R96, R97, R98). -/
def Travel.holderGone (g h : Travel) : Prop :=
  (g.state ≠ .drive → h.state = g.state ∧ h.demand = g.demand ∧ h.causes = g.causes) ∧
    (g.state = .drive → h.demand = 0 ∧
      (g.setpoint = 0 ∧ g.wheelSpeed = 0 →
        h.state = (if g.safeStop || g.resetPending then .parked else .hold) ∧ h.causes = StopCauses.empty) ∧
      (¬(g.setpoint = 0 ∧ g.wheelSpeed = 0) → h.state = .stopping ∧ h.causes = { g.causes with holderGone := true }))

/-- The TG after a stop cause has reached it (R96, R97): PARKED it stays, STOPPING it adds the cause, and from HOLD or
DRIVE it stops, at once where it is at rest. -/
structure Travel.TakesCause (add : StopCauses → StopCauses) (g h : Travel) : Prop where
  parked : g.state = .parked → h.state = .parked ∧ h.causes = g.causes
  stopping : g.state = .stopping → h.state = .stopping ∧ h.causes = add g.causes
  drives : g.state = .hold ∨ g.state = .drive → h.demand = 0 ∧
    (g.setpoint = 0 ∧ g.wheelSpeed = 0 →
      h.state = (if h.safeStop || h.resetPending then .parked else .hold) ∧ h.causes = StopCauses.empty) ∧
    (¬(g.setpoint = 0 ∧ g.wheelSpeed = 0) → h.state = .stopping ∧ h.causes = add g.causes)

/-- An arm after a stow order (R125); `ready` says that its lift demand and raise timeout are written. -/
structure ArmUnit.Ordered (ready : Prop) (u v : ArmUnit) : Prop where
  stays : ¬ready ∨ u.state = .stowed ∨ u.state = .fault ∨ u.state = .raising →
    v.state = u.state ∧ v.target = u.target ∧ v.origin = u.origin
  moves : ready → u.state ≠ .stowed → u.state ≠ .fault → u.state ≠ .raising →
    v.target = .stowed ∧
    (u.up = false → v.state = .raising ∧ v.origin = .stowOrder ∧
      (u.state ≠ .lowering → v.settleTimer = .stopped ∧ v.pinnedTimer = .stopped)) ∧
    (u.up = true → v.state = .stowed ∧ v.origin = .none)

/-- What no request but those of its own block changes, reset apart. -/
structure Kept (s t : State) : Prop where
  pending : t.pending = s.pending
  time : t.time = s.time
  clock : t.clock = s.clock
  capture : t.capture = s.capture
  switches : t.switches = s.switches
  items : t.supervision.items = s.supervision.items
  mode : t.supervision.mode = s.supervision.mode
  committed : t.supervision.committed = s.supervision.committed
  resetCauses : t.supervision.resetCauses = s.supervision.resetCauses

/-- What the end of an event leaves as it was, where no reaction is bound: all but the ceilings, the grants with what
they start or pause, the queues, and the factors CEILING_CHANGED (12) and FLOW_SHORT (13) (R100, R157, R162). -/
structure Ended (s t : State) : Prop where
  pending : t.pending = s.pending
  time : t.time = s.time
  clock : t.clock = s.clock
  links : t.links = s.links
  attendance : t.attendance = s.attendance
  claims : t.claims = s.claims
  profile : t.profile = s.profile
  capture : t.capture = s.capture
  switches : t.switches = s.switches
  water : t.water = s.water
  supervision : t.supervision = s.supervision
  reactions : t.reactions = s.reactions
  travel : t.travel = { s.travel with
    ceiling := t.travel.ceiling, limiting := t.travel.limiting, flowCeiling := t.travel.flowCeiling
    shortFlag := t.travel.shortFlag, offer := t.travel.offer, releaseTimer := t.travel.releaseTimer }
  arms : ∀ a, t.arm a = { s.arm a with
    liftGrant := (t.arm a).liftGrant, rotGrant := (t.arm a).rotGrant, sub := (t.arm a).sub
    motionTimer := (t.arm a).motionTimer, liftDownOpen := (t.arm a).liftDownOpen
    liftUpOpen := (t.arm a).liftUpOpen, rot := (t.arm a).rot }
  spray : t.spray = { s.spray with
    pumpGrant := t.spray.pumpGrant, pumpOut := t.spray.pumpOut, dryRunTimer := t.spray.dryRunTimer }
  flow : t.flow = { s.flow with
    liftGrant := t.flow.liftGrant, rotGrant := t.flow.rotGrant, pumpGrant := t.flow.pumpGrant
    queue := t.flow.queue, granted := t.flow.granted, short3 := t.flow.short3, short2 := t.flow.short2
    short1 := t.flow.short1, lastOffer := t.flow.lastOffer }
  /-- An arm that is not on its way keeps its motion; awaiting-speed is left only at a gate expiry; no brush starts. -/
  still : ∀ a, (s.arm a).sub = .none → (t.arm a).sub = .none ∧ (t.arm a).motionTimer = (s.arm a).motionTimer ∧
    (t.arm a).liftDownOpen = (s.arm a).liftDownOpen ∧ (t.arm a).liftUpOpen = (s.arm a).liftUpOpen
  waits : ∀ a, (t.arm a).sub = .awaitingSpeed ↔ (s.arm a).sub = .awaitingSpeed
  raised : ∀ a, (s.arm a).state ≠ .working → (s.arm a).state ≠ .deflected → (s.arm a).rot = 0 → (t.arm a).rot = 0
  masks : ∀ st, (t.notices.get st).masks = (s.notices.get st).masks ∧ (t.notices.get st).master = (s.notices.get st).master
  held : ∀ st (k : Fin 24), k ≠ 12 → k ≠ 13 → (t.notices.get st).held[k] = (s.notices.get st).held[k] ∧
    (t.notices.get st).flags.getLsbD k = (s.notices.get st).flags.getLsbD k

/-- What an arm's outputs and rotation demand are by its state (R111, R121, R130, R131); `full` is item 12. -/
structure ArmUnit.Commands (u : ArmUnit) (full : Nat) : Prop where
  force : u.force = if u.state = .working then u.level * 100 / 15 else 0
  target : u.rotTarget = match u.state with
    | .working => coupling Point.rotation u.wheelSpeed.natAbs u.points
    | .deflected => coupling Point.rotation u.wheelSpeed.natAbs u.points / 2
    | _ => 0
  demand : u.rotDemand = (u.rotTarget * full + 99) / 100
  turns : (u.state = .working ∨ u.state = .deflected) → 0 < full → u.rot = u.rotGrant * 100 / full
  still : u.state ≠ .working → u.state ≠ .deflected → u.rot = 0
  valves : u.liftDownOpen = (u.state == .lowering && u.sub == .moving) ∧
    u.liftUpOpen = (u.state == .raising && u.sub == .moving)

/-- R159 over the flow before and after: the grants kept and the lifts withdrawn, the most recently granted first, to the
queue's head; then those granted from the head, in order, up to the first that does not fit. -/
def Flow.LiftsSettled (f g : Flow) : Prop :=
  let whole := fun l : List Arm => (l.map f.liftDemand.get).sum
  ∃ keep back give : List Arm, f.granted = keep ++ back ∧ back ++ f.queue = give ++ g.queue ∧ g.granted = keep ++ give ∧
    (∀ a, g.liftGrant.get a = if a ∈ g.granted then f.liftDemand.get a else 0) ∧ g.liftGrant.sum ≤ f.capacity ∧
    (∀ a, back.head? = some a → f.capacity < whole (keep ++ [a])) ∧
    (∀ a, g.queue.head? = some a → f.capacity < f.liftDemand.get a + g.liftGrant.sum)

/-- The lowest ratio of grant to demand among the rotation consumers with a demand, and the offer it gives (R163). -/
def Flow.IsOffer (f : Flow) (speed : Int) (o : Nat) : Prop :=
  ∃ a, 0 < f.rotDemand.get a ∧
    (∀ b, f.rotGrant.get a * f.rotDemand.get b ≤ f.rotGrant.get b * f.rotDemand.get a) ∧
    o = max 10 (speed.natAbs * f.rotGrant.get a / f.rotDemand.get a)

/-- One reallocation: the three levels in turn, the grants posted, the short flags and the flow ceiling (R157 to R163, with
R101, R121, R131, R140 and R144 for what the grants do). -/
structure Reallocated (s t : State) : Prop where
  lifts : s.flow.LiftsSettled t.flow
  rotation : let room := s.flow.capacity - t.flow.liftGrant.sum
    ∀ a, t.flow.rotGrant.get a = if s.flow.rotDemand.sum ≤ room then s.flow.rotDemand.get a
      else s.flow.rotDemand.get a * room / s.flow.rotDemand.sum
  pump : t.flow.pumpGrant =
    min s.flow.pumpDemand (s.flow.capacity - (t.flow.liftGrant.sum + t.flow.rotGrant.sum))
  posted : ∀ a, (t.arm a).liftGrant = t.flow.liftGrant.get a ∧ (t.arm a).rotGrant = t.flow.rotGrant.get a
  starts : ∀ a, (s.arm a).sub = .awaitingFlow → 0 < (t.arm a).liftGrant → (t.arm a).sub = .moving ∧
    (t.arm a).liftDownOpen = ((s.arm a).state == .lowering) ∧ (t.arm a).liftUpOpen = ((s.arm a).state == .raising) ∧
    (t.arm a).motionTimer = match (s.arm a).motionTimer with
      | .paused n => .running n
      | _ => .running (if (s.arm a).state = .lowering then s.item 8 else s.item 9)
  pauses : ∀ a, (s.arm a).sub = .moving → (t.arm a).liftGrant = 0 → (t.arm a).sub = .awaitingFlow ∧
    (t.arm a).liftDownOpen = false ∧ (t.arm a).liftUpOpen = false ∧
    ∀ n, (s.arm a).motionTimer = .running n → (t.arm a).motionTimer = .paused n
  goesOn : ∀ a, ((s.arm a).sub = .awaitingFlow → (t.arm a).liftGrant = 0) →
    ((s.arm a).sub = .moving → 0 < (t.arm a).liftGrant) →
    (t.arm a).sub = (s.arm a).sub ∧ (t.arm a).motionTimer = (s.arm a).motionTimer ∧
      (t.arm a).liftDownOpen = (s.arm a).liftDownOpen ∧ (t.arm a).liftUpOpen = (s.arm a).liftUpOpen
  turns : ∀ a, (s.arm a).state = .working ∨ (s.arm a).state = .deflected → 0 < s.item 12 →
    (t.arm a).rot = (t.arm a).rotGrant * 100 / s.item 12
  sprays : t.spray.pumpGrant = t.flow.pumpGrant ∧ (0 < s.item 18 → t.spray.pumpOut = t.flow.pumpGrant * 100 / s.item 18) ∧
    t.spray.dryRunTimer = (if t.flow.pumpGrant = 0 then .stopped
      else if s.spray.pumpGrant = 0 then .running (s.item 29) else s.spray.dryRunTimer)
  flags : (t.flow.short3 = true ↔ t.flow.queue ≠ []) ∧
    (t.flow.short2 = true ↔ ∃ a, t.flow.rotGrant.get a < t.flow.rotDemand.get a) ∧
    (t.flow.short1 = true ↔ t.flow.pumpGrant < t.flow.pumpDemand)
  /-- Where several flags set, the last factor raised is that of the lowest level. -/
  factors : ∀ st, s.attends st = true →
    (s.flow.short1 = false → t.flow.short1 = true → (t.notices.get st).held[(13 : Fin 24)] = some ⟨.level 1,
      .flowShort s.flow.capacity s.flow.pumpDemand t.flow.pumpGrant none, s.time, none⟩) ∧
    ((s.flow.short1 = true ∨ t.flow.short1 = false) →
      (s.flow.short2 = false → t.flow.short2 = true → (t.notices.get st).held[(13 : Fin 24)] = some ⟨.level 2,
        .flowShort s.flow.capacity s.flow.rotDemand.sum t.flow.rotGrant.sum none, s.time, none⟩) ∧
      ((s.flow.short2 = true ∨ t.flow.short2 = false) →
        (s.flow.short3 = false → t.flow.short3 = true → (t.notices.get st).held[(13 : Fin 24)] = some ⟨.level 3,
          .flowShort s.flow.capacity s.flow.liftDemand.sum t.flow.liftGrant.sum (some t.flow.queue.length),
          s.time, none⟩) ∧
        ((s.flow.short3 = true ∨ t.flow.short3 = false) →
          (t.notices.get st).held[(13 : Fin 24)] = (s.notices.get st).held[(13 : Fin 24)])))
  offered : t.flow.short2 = true → ∃ o, t.flow.IsOffer s.capture.wheelSpeed o ∧ t.flow.lastOffer = some o ∧
    t.travel.shortFlag = true ∧ t.travel.releaseTimer = .stopped ∧
    t.travel.flowCeiling = some (match s.travel.flowCeiling with
      | some v => min v o
      | none => o)
  cleared : s.flow.short2 = true → t.flow.short2 = false → t.travel.shortFlag = false ∧
    t.travel.flowCeiling = s.travel.flowCeiling ∧
    t.travel.releaseTimer = if s.travel.flowCeiling.isSome then .running 2000 else s.travel.releaseTimer
  untouched : s.flow.short2 = false → t.flow.short2 = false → t.travel.shortFlag = s.travel.shortFlag ∧
    t.travel.flowCeiling = s.travel.flowCeiling ∧ t.travel.releaseTimer = s.travel.releaseTimer ∧
    t.flow.lastOffer = s.flow.lastOffer

/-- A request answered with a status and data, leaving what requests of other blocks own: the claims and the draft, and
what no request but those of its own block changes. -/
structure Served (f : Form) (l : Station) (tag : Byte) (ps : List Byte) (st : Status) (d : Payload) (s t : State) : Prop
    extends Kept s t where
  links : t.links = linksAfter f l tag ps st d s
  attendance : t.attendance = unprepared l s
  claims : t.claims = s.claims
  draft : t.profile.draft = s.profile.draft

/-- The deferred notices, in factor order, of the factors a test picks among those whose flags are set (R171). -/
def deferredFor (v : StationNotices) (picks : Fin 24 → Bool) : List Notice :=
  (List.finRange 24).filterMap fun k =>
    if picks k && v.flags.getLsbD k then v.held[k].map fun h => ⟨h, true⟩ else none

/-- Notices appended one by one to a queue of at most 16; a dropped one sets the overflow flag (R168). -/
def StationNotices.withDeferred (v : StationNotices) (l : List Notice) : StationNotices :=
  { v with
    queue := (v.queue ++ l).take 16
    overflow := v.overflow || decide (16 < v.queue.length + l.length) }

/-- An entry whose CAP_SPEED action in flight is completed: out of flight, and FREE where it was DRAINING (R104, R177). -/
def Binding.cleared (b : Binding) : Option Binding :=
  if b.action.isCap && b.held.isSome then (if b.enabled then some { b with held := none } else none) else some b

/-- The raises that CAP_SPEED actions in flight hold, in ascending entry order. -/
def State.capRaises (s : State) : List (EntryNo × Raise) :=
  (List.finRange 8).filterMap fun e =>
    s.reactions[e].bind fun b => if b.action.isCap then b.held.map fun r => (e, r) else none

/-- What no field event and no timer's expiry changes. -/
structure Untouched (s t : State) : Prop where
  pending : t.pending = s.pending
  time : t.time = s.time
  clock : t.clock = s.clock
  links : t.links = s.links
  attendance : t.attendance = s.attendance
  claims : t.claims = s.claims
  draft : t.profile.draft = s.profile.draft
  items : t.supervision.items = s.supervision.items
  mode : t.supervision.mode = s.supervision.mode
  committed : t.supervision.committed = s.supervision.committed
  resetCauses : t.supervision.resetCauses = s.supervision.resetCauses

end Sys2Proof.Machine
end

