-- ==== Sys2Proof/WellFormed.lean ====
section
/-! DEFINITION. Which commands can occur as their rows describe them: the ill-formed ones are taken too, without effect or
as a bad frame (log entries 3, 26). -/

namespace Sys2Proof

open Machine

/-- At most 40 parameter bytes (R5). -/
def paramsOk (ps : List Byte) : Bool := decide (ps.length ≤ 40)

/-- The check of a command. -/
def Instr.wellFormed : Instr → Bool
  | .badFrame _ bytes => !bytes.isEmpty && !goodFrame bytes
  | .unknownRequest _ code _ ps => !knownCode code && paramsOk ps
  | .armLower _ _ ps => !otherCommand 0 ps && paramsOk ps
  | .armRaise _ _ ps => !otherCommand 1 ps && paramsOk ps
  | .armHalt _ _ ps => !otherCommand 2 ps && paramsOk ps
  | .armClearFault _ _ ps => !otherCommand 3 ps && paramsOk ps
  | .resetPartImmediate _ _ ps => !otherReset 0 ps && paramsOk ps
  | .resetPartSettled _ _ ps => !otherReset 1 ps && paramsOk ps
  | .nop _ _ ps => paramsOk ps
  | .identify _ _ ps => paramsOk ps
  | .reportIn _ _ ps => paramsOk ps
  | .keepPrepare _ _ ps => paramsOk ps
  | .keepCommit _ _ ps => paramsOk ps
  | .reportOut _ _ ps => paramsOk ps
  | .claimTry _ _ ps => paramsOk ps
  | .claimWait _ _ ps => paramsOk ps
  | .release _ _ ps => paramsOk ps
  | .yield _ _ ps => paramsOk ps
  | .override _ _ ps => paramsOk ps
  | .withdrawWait _ _ ps => paramsOk ps
  | .readClaim _ _ ps => paramsOk ps
  | .openDraft _ _ ps => paramsOk ps
  | .writeDraft _ _ ps => paramsOk ps
  | .setPoints _ _ ps => paramsOk ps
  | .commitDraft _ _ ps => paramsOk ps
  | .discardDraft _ _ ps => paramsOk ps
  | .eraseProfile _ _ ps => paramsOk ps
  | .readProfile _ _ ps => paramsOk ps
  | .selectProfile _ _ ps => paramsOk ps
  | .abortChangeover _ _ ps => paramsOk ps
  | .readChangeover _ _ ps => paramsOk ps
  | .releasePark _ _ ps => paramsOk ps
  | .applyPark _ _ ps => paramsOk ps
  | .setTravel _ _ ps => paramsOk ps
  | .engineReport _ _ ps => paramsOk ps
  | .clearCap _ _ ps => paramsOk ps
  | .readTravel _ _ ps => paramsOk ps
  | .readArm _ _ ps => paramsOk ps
  | .zoneOverride _ _ ps => paramsOk ps
  | .refill _ _ ps => paramsOk ps
  | .readSpray _ _ ps => paramsOk ps
  | .readWater _ _ ps => paramsOk ps
  | .readFlow _ _ ps => paramsOk ps
  | .readNotices _ _ ps => paramsOk ps
  | .ackFactors _ _ ps => paramsOk ps
  | .setNoticeMask _ _ ps => paramsOk ps
  | .setMasterMask _ _ ps => paramsOk ps
  | .bindReaction _ _ ps => paramsOk ps
  | .unbindReaction _ _ ps => paramsOk ps
  | .readReactions _ _ ps => paramsOk ps
  | .commissionSet _ _ ps => paramsOk ps
  | .commissionCommit _ _ ps => paramsOk ps
  | .readCommission _ _ ps => paramsOk ps
  | .safeStop _ _ ps => paramsOk ps
  | .resume _ _ ps => paramsOk ps
  | .readResetCause _ _ ps => paramsOk ps
  | _ => true

end Sys2Proof
end

