-- ==== Sys2Proof/Certificates/Slice0/Obligations.lean ====
section
/-! DEFINITION. The statements for the provers. -/

section

open Sys2Proof Sys2Proof.Machine

/-! ## The step and reset -/

/-- A step takes the command at the front of the queue and runs it on the rest; with no command waiting the part stays
as it is, which is the model's choice (log entry 4). -/
def Obligations.StepRunsTheFrontCommand : Prop :=
  (∀ (c : Instr) (q : List Instr) (s : State), step { s with pending := c :: q } = exec c { s with pending := q }) ∧
  (∀ s : State, s.pending = [] → step s = .next s)

/-- What POWER_ON leaves, where the spec gives the value (R13, R17, R28, R40, R46, R55, R69, R71, R86, R110, R134, R145,
R153, R165, R172, R177, R178, R179, R187). -/
def Obligations.ResetLeavesTheSpecsValues : Prop :=
  (∀ l, ((State.reset.links.get l).state = .offline ∧ (State.reset.links.get l).slot = ⟨.none, 0, 0, .none⟩ ∧
      (State.reset.links.get l).rxFrame = [] ∧ (State.reset.links.get l).rxCount = 0 ∧
      (State.reset.links.get l).outgoing = none) ∧
    State.reset.attendance.get l = ⟨.absent, none, .stopped, false⟩ ∧
    (State.reset.notices.get l).queue = [] ∧ (State.reset.notices.get l).flags = 0 ∧
    (State.reset.notices.get l).masks = BitVec.allOnes 24 ∧ (State.reset.notices.get l).master = false ∧
    (State.reset.notices.get l).overflow = false ∧
    State.reset.supervision.resetCauses.get l = ⟨true, false, false, false, false⟩) ∧
  (∀ g, State.reset.claims.get g = ⟨none, 0, []⟩) ∧
  (∀ n : SlotNo, State.reset.slot n = .empty ∧ State.reset.reactions[n] = none ∧ State.reset.travel.caps[n] = none) ∧
  State.reset.profile.draft = none ∧ State.reset.profile.changeover = none ∧
  State.reset.clock.selector = .pll ∧ State.reset.clock.verdict = .sound ∧ State.reset.time = 0 ∧
  (State.reset.travel.state = .parked ∧ State.reset.travel.demand = 0 ∧ State.reset.travel.setpoint = 0 ∧
    State.reset.travel.trim = 0 ∧ State.reset.travel.causes = ⟨false, false, false, false⟩ ∧
    State.reset.travel.flowCeiling = none ∧ State.reset.travel.rampTimer = .stopped ∧
    State.reset.travel.overspeedTimer = .stopped ∧ State.reset.travel.releaseTimer = .stopped ∧
    State.reset.travel.forward = 0 ∧ State.reset.travel.reverse = 0 ∧ State.reset.travel.brakeDriven = false) ∧
  (∀ a, (State.reset.arm a).state = .halted ∧ (State.reset.arm a).sub = .none ∧ (State.reset.arm a).target = .stowed ∧
    (State.reset.arm a).origin = .none ∧ (State.reset.arm a).fault = .none ∧ (State.reset.arm a).rotTarget = 0 ∧
    (State.reset.arm a).reaction = none ∧ (State.reset.arm a).liftDownOpen = false ∧
    (State.reset.arm a).liftUpOpen = false ∧ (State.reset.arm a).force = 0 ∧ (State.reset.arm a).rot = 0) ∧
  (∀ z, State.reset.spray.zones.get z = .off ∧ State.reset.spray.forcedOff.get z = false ∧
    State.reset.spray.duty.get z = 0 ∧ State.reset.spray.valves.get z = false) ∧
  (State.reset.spray.pumpOut = 0 ∧ State.reset.spray.dryRunTimer = .stopped) ∧
  (State.reset.water.estimate = 0 ∧ State.reset.water.pulses = 0 ∧ State.reset.water.state = .empty ∧
    State.reset.water.dryLatch = false ∧ State.reset.water.dispensed = 0 ∧ State.reset.water.swept = 0 ∧
    State.reset.water.sweptPulses = 0) ∧
  (State.reset.flow.capacity = 0 ∧ State.reset.flow.mark = .stale ∧ State.reset.flow.lastEngine = none ∧
    State.reset.flow.timer = .stopped ∧ State.reset.flow.queue = [] ∧ State.reset.flow.granted = [] ∧
    State.reset.flow.short3 = false ∧ State.reset.flow.short2 = false ∧ State.reset.flow.short1 = false ∧
    State.reset.flow.lastOffer = none) ∧
  (State.reset.supervision.mode = .starting ∧ State.reset.supervision.committed = false ∧
    State.reset.supervision.safeStop = false ∧ State.reset.supervision.causes = ⟨false, false, false, false⟩ ∧
    State.reset.supervision.pendingReset = none ∧ State.reset.supervision.settledTimer = .stopped ∧
    ∀ k, State.reset.item? k = none)

/-- The part right after reset keeps the laws of the part. -/
def Obligations.LawsHoldAtReset : Prop := Lawful State.reset

/-! ## The laws of the part -/

/-- Every step keeps the laws of the part: R28, R41, R106, R121, R131, R137, R145, R157, R158, R168, R178, R182, with
what keeps them. -/
def Obligations.EveryStepKeepsTheLaws : Prop := ∀ s t : State, Lawful s → step s = .next t → Lawful t

/-- The law of the claim table is kept by every step, whatever the rest of the state (R28). -/
def Obligations.EveryStepKeepsTheClaimLaw : Prop := ∀ s t : State, claimLaw s → step s = .next t → claimLaw t

/-- What the laws say of a state: the sentences of R106, R121, R137, R178 and R182 over the arms themselves. -/
def Obligations.LawsGiveTheSpecsSentences : Prop :=
  ∀ s : State, Lawful s →
    (s.travel.setpoint < 0 → ∀ a, (s.arm a).state = .stowed) ∧
    (∀ a, ¬((s.arm a).liftDownOpen = true ∧ (s.arm a).liftUpOpen = true)) ∧
    (∀ z a, s.spray.valves.get z = true → s.water.state ≠ .empty ∧ s.switches.frost.level = false ∧
      s.supervision.safeStop = false ∧ (z.arm = some a → (s.arm a).state = .working)) ∧
    (s.supervision.safeStop = true → (∀ z, s.spray.valves.get z = false) ∧ ∀ a, (s.arm a).state ≠ .lowering) ∧
    (s.supervision.committed = false → s.travel.state = .parked ∧
      ∀ a, (s.arm a).state ≠ .lowering ∧ (s.arm a).state ≠ .working ∧ (s.arm a).state ≠ .deflected)

/-! ## Links and frames -/

/-- The receive frame is the bytes clocked in, up to the 4 + n of the frame, or the first three of an over-long one; a
request frame of at most 40 parameters is received whole and is good; a response frame is status, tag, code, length, data
and check byte, and nothing follows it; the data output is driven in RECEIVING alone (R3, R4, R5, R6, R13, R188). -/
def Obligations.FramesAreWholeAndGood : Prop :=
  (∀ bytes : List Byte, clockBytes bytes = bytes.take (if 40 < byteAt bytes 2 then 3 else 4 + byteAt bytes 2)) ∧
  (∀ (code tag : Byte) (ps : List Byte), ps.length ≤ 40 →
    clockBytes (requestFrame code tag ps) = requestFrame code tag ps ∧ goodFrame (requestFrame code tag ps) = true) ∧
  (∀ (k : Link) (i : Nat), (k.state = .receiving → k.dataOut i = some (k.outByte i)) ∧
    (k.state ≠ .receiving → k.dataOut i = none)) ∧
  (∀ (r : Response) (k : Link), k.outgoing = some r →
    r.wire.take 4 = [r.status.code, r.tag, r.code, BitVec.ofNat 8 r.data.bytes.length] ∧
    (r.wire.drop 4).take r.data.bytes.length = r.data.bytes ∧
    r.wire.length = 5 + r.data.bytes.length ∧
    r.wire.drop (4 + r.data.bytes.length) = [crc8 (r.wire.take (4 + r.data.bytes.length))] ∧
    (∀ i, 5 + r.data.bytes.length ≤ i → k.outByte i = 0) ∧
    ∀ i (h : i < r.wire.length), k.outByte i = r.wire[i])

/-- CHIP_SELECT_FALL copies the slot out of an IDLE link, DISREGARD_END, EMPTY_TRANSACTION and BAD_FRAME end a
transaction with no request, UNKNOWN_REQUEST is answered so and clears the sender's prepared flag (R3 to R7, R21).
That the count of an over-long frame stands at three is the model's choice (log entry 40). -/
def Obligations.TransactionsBeginAndEnd : Prop :=
  (∀ (l : Station) (s : State),
     ((s.links.get l).state = .idle → exec (.chipSelectFall l) s = .next { s with
       links := s.links.set l { s.links.get l with
         state := .receiving, chipSelectLow := true, rxFrame := [], rxCount := 0
         outgoing := some (s.links.get l).slot } }) ∧
     ((s.links.get l).state = .offline → exec (.chipSelectFall l) s = .next { s with
       links := s.links.set l { s.links.get l with chipSelectLow := true } })) ∧
  (∀ (l : Station) (s : State),
     ((s.links.get l).state = .disregard → exec (.disregardEnd l) s = .next { s with
       links := s.links.set l { s.links.get l with state := .idle, chipSelectLow := false } }) ∧
     ((s.links.get l).state = .offline → exec (.disregardEnd l) s = .next { s with
       links := s.links.set l { s.links.get l with chipSelectLow := false } }) ∧
     ((s.links.get l).state = .receiving → exec (.emptyTransaction l) s = .next { s with
       links := s.links.set l { s.links.get l with
         state := .idle, chipSelectLow := false, rxFrame := [], rxCount := 0 } }) ∧
     (∀ bytes, (s.links.get l).state = .receiving → bytes ≠ [] → goodFrame bytes = false →
       exec (.badFrame l bytes) s = .next { s with
         links := s.links.set l { s.links.get l with
           state := .idle, chipSelectLow := false, rxFrame := clockBytes bytes, rxCount := (clockBytes bytes).length
           slot := ⟨.badFrame, bytes.getD 1 0, bytes.getD 0 0, .none⟩ } })) ∧
  (∀ (l : Station) (code tag : Byte) (ps : List Byte) (s : State), (s.links.get l).state = .receiving →
     ps.length ≤ 40 → knownCode code = false →
     exec (.unknownRequest l code tag ps) s = .next { s with
       links := s.links.set l { s.links.get l with
         state := .idle, chipSelectLow := false, rxFrame := requestFrame code tag ps, rxCount := ps.length + 4
         slot := ⟨.unknownRequest, tag, code, .none⟩ }
       attendance := unprepared l s })

/-- Stages 2 to 4 of R7 for every request: the first that fails decides, and nothing else changes (R7, R8, R21). -/
def Obligations.RequestsPassTheStagesInOrder : Prop :=
  ∀ (c : Instr) (f : Form) (l : Station) (tag : Byte) (ps : List Byte) (s : State),
    requestOf c = some (f, l, tag, ps) → c.wellFormed = true → workClear s → (s.links.get l).state = .receiving →
    (f.exempt = false ∧ s.attends l = false → exec c s = .next (replied f l tag ps .notAttending .none s)) ∧
    ((f.exempt = true ∨ s.attends l = true) → f.formOk ps = false →
      exec c s = .next (replied f l tag ps .badParam .none s)) ∧
    ((f.exempt = true ∨ s.attends l = true) → f.formOk ps = true → f.roleOk l ps = false →
      exec c s = .next (replied f l tag ps .refusedRole .none s))

/-- The first two tests of R10: the claim test for a request on a group, then the commissioning test for RELEASE_PARK,
SELECT_PROFILE and LOWER. -/
def Obligations.OwnersTestTheClaimFirst : Prop :=
  ∀ (c : Instr) (f : Form) (l : Station) (tag : Byte) (ps : List Byte) (s : State) (g : Group),
    requestOf c = some (f, l, tag, ps) → c.wellFormed = true → workClear s → Sent f l ps s → groupHeldFor c = some g →
    ((s.claims.get g).holder ≠ some l → exec c s = .next (replied f l tag ps .refusedClaim .none s)) ∧
    ((s.claims.get g).holder = some l → s.supervision.mode = .commissioning →
      (c = .releasePark l tag ps ∨ c = .selectProfile l tag ps ∨ (c = .armLower l tag ps ∧ byteAt ps 1 = 0)) →
      exec c s = .next (replied f l tag ps .notCommissioned .none s))

/-- NOP, whole (R15): OK with no data to any station in any attendance state, nothing changed but the sender's prepared
flag; with parameters BAD_PARAM. -/
def Obligations.NopIsAnsweredOk : Prop :=
  ∀ (l : Station) (tag : Byte) (ps : List Byte) (s : State), (s.links.get l).state = .receiving → ps.length ≤ 40 →
    (ps = [] → exec (.nop l tag ps) s = .next (replied Form.nop l tag ps .ok .none s)) ∧
    (ps ≠ [] → exec (.nop l tag ps) s = .next (replied Form.nop l tag ps .badParam .none s))

/-- IDENTIFY: twelve bytes, vendor 7523, part 30, revision 1, a unit number that is not zero; the same on every link and
in every state (R16).
The order of the four bytes is the model's reading (log entry 22). -/
def Obligations.IdentifyGivesThePart : Prop :=
  (∀ (l : Station) (tag : Byte) (ps : List Byte) (s : State), (s.links.get l).state = .receiving → ps.length ≤ 40 →
    (ps = [] → exec (.identify l tag ps) s = .next (replied Form.identify l tag ps .ok .identity s)) ∧
    (ps ≠ [] → exec (.identify l tag ps) s = .next (replied Form.identify l tag ps .badParam .none s))) ∧
  (Payload.identity.bytes.length = 12 ∧ Payload.identity.bytes.take 4 = [0x1D, 0x63, 0x1E, 0x01] ∧
    Payload.identity.bytes.drop 4 ≠ List.replicate 8 0)

/-! ## Clock, reset line and timebase -/

/-- RESET_LINE_RELEASED starts STARTING, CRYSTAL_SETTLED the locking; PLL_LOCKED and PLL_LOCK_TIMEOUT leave STARTING, with
what it samples and loads; without lock safe stop is entered with CLOCK_FAULT (R69, R74, R80, R83, R110, R178). -/
def Obligations.StartingFollowsTheClockTree : Prop :=
  (∀ s : State,
     (s.clock.resetLineAsserted = true → s.clock.phase = .held → exec .resetLineReleased s = .next { s with
       clock := { s.clock with resetLineAsserted := false, phase := .settling } }) ∧
     (s.clock.phase = .settling → exec .crystalSettled s = .next { s with clock := { s.clock with phase := .locking } })) ∧
  (∀ s : State, Quiet s → s.clock.phase = .locking →
     ∀ lost : Bool, ∃ t, exec (if lost then .pllLockTimeout else .pllLocked) s = .next t ∧
       t.clock = { s.clock with
         phase := .running, selector := if lost then .internal else s.clock.selector
         verdict := if lost then .lost else s.clock.verdict } ∧
       t.time = s.time ∧ t.pending = s.pending ∧ t.claims = s.claims ∧ t.attendance = s.attendance ∧
       (∀ l, t.links.get l = { s.links.get l with
         state := if (s.links.get l).chipSelectLow then .disregard else .idle }) ∧
       t.supervision.mode = (if s.supervision.committed then .operational else .commissioning) ∧
       (∀ i, t.switches.input i = ⟨(s.switches.input i).raw, (s.switches.input i).raw, .stopped⟩) ∧
       (∀ ch, t.capture.channel ch = { s.capture.channel ch with
         timer := .running (s.capture.channel ch).interval }) ∧
       (lost = true → t.supervision.safeStop = true ∧ t.supervision.causes = { s.supervision.causes with clockFault := true }) ∧
       (lost = false → t.supervision.safeStop = s.supervision.safeStop ∧ t.supervision.causes = s.supervision.causes ∧
         (NoReactions s → ∀ a, (t.arm a).state =
           if (s.switches.up.get a).raw && (s.switches.down.get a).raw then .fault
           else if (s.switches.up.get a).raw then .stowed else .halted)))

/-- CLOCK_MONITOR_INTERVAL: a count of 12 000 to 20 000, or any count once the verdict is LOST, is kept and no more; any
other count of a running part loses the crystal (R70), CLOCK_FAULT tells the stations the count (R181), and
safe stop ends a changeover with its slots, its values and CHANGEOVER_DONE as R44, R64 and R67 say. -/
def Obligations.ClockMonitorInterval : Prop :=
  ∀ (n : Nat) (s : State), s.clock.phase = .running →
    (s.clock.verdict = .lost ∨ (12000 ≤ n ∧ n ≤ 20000) →
      exec (.clockMonitorInterval n) s = .next { s with clock := { s.clock with lastCycles := n } }) ∧
    (s.clock.verdict = .sound → ¬(12000 ≤ n ∧ n ≤ 20000) → Quiet s →
      ∃ t, exec (.clockMonitorInterval n) s = .next t ∧
        t.clock = { s.clock with lastCycles := n, selector := .internal, verdict := .lost } ∧
        t.supervision.safeStop = true ∧ t.supervision.causes = { s.supervision.causes with clockFault := true } ∧
        (s.supervision.safeStop = false → t.profile.changeover = none ∧ t.travel.safeStop = true ∧
          t.spray.safeStop = true ∧ ∀ z, t.spray.valves.get z = false) ∧
        t.time = s.time ∧ t.capture = s.capture ∧ t.links = s.links ∧ t.claims = s.claims ∧
        t.attendance = s.attendance ∧ t.switches = s.switches ∧ t.supervision.items = s.supervision.items ∧
        t.profile.draft = s.profile.draft ∧
        (NoReactions s → (∀ st, s.attends st = true →
            (t.notices.get st).held[(21 : Fin 24)] = some ⟨.none, .clockFault n, s.time, none⟩) ∧
          (s.supervision.safeStop = false → ∀ c, s.profile.changeover = some c →
            ChangeoverEnds c.kind .safeStop c.degraded s.slot s t)))

/-- TIMEBASE_TICK: the count advances by one and wraps, every running timer falls by one, nothing else changes; while
STARTING nothing does (R71, R72). -/
def Obligations.TickAdvancesTheTimebase : Prop :=
  (∀ s : State, s.clock.phase = .running → exec .timebaseTick s = .next { s with
    time := s.time + 1
    attendance := s.attendance.map fun v => { v with counter := v.counter.tick }
    capture := { s.capture with
      wheel := { s.capture.wheel with timer := s.capture.wheel.timer.tick }
      brush := s.capture.brush.map fun c => { c with timer := c.timer.tick }
      flow := { s.capture.flow with timer := s.capture.flow.timer.tick } }
    switches := s.switches.map fun i => { i with counter := i.counter.tick }
    travel := { s.travel with
      rampTimer := s.travel.rampTimer.tick, overspeedTimer := s.travel.overspeedTimer.tick
      releaseTimer := s.travel.releaseTimer.tick }
    arms := s.arms.map fun u => { u with
      motionTimer := u.motionTimer.tick, settleTimer := u.settleTimer.tick
      pinnedTimer := u.pinnedTimer.tick, stallTimer := u.stallTimer.tick }
    spray := { s.spray with dwellTimer := s.spray.dwellTimer.tick, dryRunTimer := s.spray.dryRunTimer.tick }
    flow := { s.flow with timer := s.flow.timer.tick }
    supervision := { s.supervision with settledTimer := s.supervision.settledTimer.tick } }) ∧
  (∀ s : State, s.clock.phase ≠ .running → exec .timebaseTick s = .next s) ∧
  (∀ n, Timer.tick (.running (n + 1)) = .running n) ∧ Timer.tick .stopped = .stopped ∧
  (∀ n, Timer.tick (.paused n) = .paused n)

/-- POWER_ON_RESET and LINE_RESET: the part as after reset, but for the pins, the commands that wait and the free values;
the line adds LINE to each reset-cause record and holds the part while it is asserted (R83, R186, R187).
Three things here are the model's, not rules of the spec. The debounced levels clear, the copies of switch levels clear and
the monitor's last cycle count 0 are its choice (log entry 10): R85 says of the levels only that they are not sampled. That
power coming on with the line asserted holds the part is its reading (log entry 34). That LINE_RESET with the line already
asserted has no effect is its choice (log entry 1). -/
def Obligations.PowerAndLineResets : Prop :=
  ∀ s : State,
    exec .powerOnReset s = .next { State.reset with
      pending := s.pending
      freeCount := s.freeCount
      clock := { State.reset.clock with
        phase := if s.clock.resetLineAsserted then .held else .settling
        resetLineAsserted := s.clock.resetLineAsserted }
      links := s.links.map fun k => ⟨.offline, k.chipSelectLow, [], 0, none, ⟨.none, 0, 0, .none⟩⟩
      switches := s.switches.map fun i => ⟨i.raw, false, .stopped⟩ } ∧
    (s.clock.resetLineAsserted = false → exec .lineReset s = .next { State.reset with
      pending := s.pending
      freeCount := s.freeCount
      clock := { State.reset.clock with phase := .held, resetLineAsserted := true }
      links := s.links.map fun k => ⟨.offline, k.chipSelectLow, [], 0, none, ⟨.none, 0, 0, .none⟩⟩
      switches := s.switches.map fun i => ⟨i.raw, false, .stopped⟩
      supervision := { State.reset.supervision with
        resetCauses := s.supervision.resetCauses.map fun r => { r with line := true } } }) ∧
    (s.clock.resetLineAsserted = true → exec .lineReset s = .next s)

/-! ## Attendance -/

/-- REPORT_IN: the record is set, the other attending stations are told; a window outside the four is BAD_PARAM, an
attending sender REFUSED_STATE (R18).
A command's whole next state is given where no reaction is bound. -/
def Obligations.ReportInMakesAttending : Prop :=
  ∀ (l : Station) (tag : Byte) (ps : List Byte) (s : State), Sent Form.reportIn l ps s → Quiet s →
    ((∀ w, windowMs w ≠ wordAt ps 0) → exec (.reportIn l tag ps) s = .next (replied Form.reportIn l tag ps .badParam .none s)) ∧
    (∀ w, windowMs w = wordAt ps 0 → s.attends l = true →
      exec (.reportIn l tag ps) s = .next (replied Form.reportIn l tag ps .refusedState .none s)) ∧
    (∀ w, windowMs w = wordAt ps 0 → s.attends l = false →
      ∃ t, exec (.reportIn l tag ps) s = .next t ∧ Kept s t ∧
        t.attendance = s.attendance.set l ⟨.attending, some w, .running (windowMs w), false⟩ ∧
        t.links = linksAfter Form.reportIn l tag ps .ok .none s ∧ t.claims = s.claims ∧
        t.profile.draft = s.profile.draft ∧
        (NoReactions s → t = deliver
          ⟨.station l, .stationJoined w (s.attendance.get l).state, s.time, .every (some l)⟩ none
          { s with
            attendance := s.attendance.set l ⟨.attending, some w, .running (windowMs w), false⟩
            links := linksAfter Form.reportIn l tag ps .ok .none s }))

/-- The renewal pair: KEEP_PREPARE sets the flag, KEEP_COMMIT with the flag set reloads the counter and clears it, and
is REFUSED_STATE with the flag clear (R20, R22). -/
def Obligations.RenewalPair : Prop :=
  ∀ (l : Station) (tag : Byte) (s : State),
    (Sent Form.keepPrepare l [] s → exec (.keepPrepare l tag []) s = .next
      { replied Form.keepPrepare l tag [] .ok .none s with
        attendance := s.attendance.set l { s.attendance.get l with prepared := true } }) ∧
    (∀ w, Sent Form.keepCommit l [] s → (s.attendance.get l).prepared = true → (s.attendance.get l).window = some w →
      exec (.keepCommit l tag []) s = .next
        { replied Form.keepCommit l tag [] .ok .none s with
          attendance := s.attendance.set l { s.attendance.get l with
            counter := .running (windowMs w), prepared := false } }) ∧
    (Sent Form.keepCommit l [] s → (s.attendance.get l).prepared = false →
      exec (.keepCommit l tag []) s = .next (replied Form.keepCommit l tag [] .refusedState .none s))

/-- REPORT_OUT and WINDOW_COUNTER_EXPIRY: the teardown (R23 to R27, R172): the station's record, its claims handed on or
withdrawn, its draft discarded, its factor state reset; a waiter that receives a group is told, and every other station is
told of the departure (R26, R30); a TRAVEL holder gone in DRIVE puts the TG into STOPPING (R30, R98); the last station gone
from a moving vehicle brings safe stop. -/
def Obligations.TeardownClearsTheStation : Prop :=
  ∀ (st : Station) (tag : Byte) (s : State) (left : Bool), Quiet s →
    (if left then Sent Form.reportOut st [] s else (s.attendance.get st).counter = .running 0) →
    ∃ t, exec (if left then .reportOut st tag [] else .windowCounterExpiry st) s = .next t ∧ Kept s t ∧
      t.attendance = s.attendance.set st
        (if left then ⟨.absent, none, .stopped, false⟩ else ⟨.lapsed, (s.attendance.get st).window, .stopped, false⟩) ∧
      t.links = (if left then linksAfter Form.reportOut st tag [] .ok .none s else s.links) ∧
      (∀ g, (s.claims.get g).holder = some st → (s.claims.get g).waiting = [] → t.claims.get g = ⟨none, s.time, []⟩) ∧
      (∀ g w ws, (s.claims.get g).holder = some st → (s.claims.get g).waiting = w :: ws → w ∉ ws →
        t.claims.get g = ⟨some w, s.time, ws⟩) ∧
      (∀ g, (s.claims.get g).holder ≠ some st →
        t.claims.get g = { s.claims.get g with waiting := (s.claims.get g).waiting.filter (· != st) }) ∧
      (∀ d, s.profile.draft = some d → d.owner = st → t.profile.draft = none) ∧
      (∀ d, s.profile.draft = some d → d.owner ≠ st → t.profile.draft = some d) ∧
      t.notices.get st = StationNotices.reset ∧
      (NoReactions s → ∀ x, x ≠ st → s.attends x = true → (t.notices.get x).held[(1 : Fin 24)] = some ⟨.station st,
        .stationLapsed (if left then .left else .expired) (s.attendance.get st).window, s.time, none⟩) ∧
      (NoReactions s → ∀ g w ws, (s.claims.get g).holder = some st → (s.claims.get g).waiting = w :: ws → w ≠ st →
        s.attends w = true →
        (∀ k, k ≠ g → (s.claims.get k).holder = some st → (s.claims.get k).waiting.head? ≠ some w) →
        (t.notices.get w).held[(2 : Fin 24)] =
          some ⟨.group g, .claimGranted (if left then .holderLeft else .holderLapsed), s.time, none⟩) ∧
      (s.supervision.mode = .operational → s.travel.state ≠ .parked → s.travel.safeStop = false →
        s.travel.resetPending = false → NoReactions s → (∀ x, x ≠ st → s.attends x = false) →
        t.supervision.safeStop = true ∧ t.supervision.causes = { s.supervision.causes with noStation := true } ∧
        ((s.claims.get .travel).holder = some st → s.travel.state = .drive →
          ¬(s.travel.setpoint = 0 ∧ s.travel.wheelSpeed = 0) → t.travel.state = .stopping ∧ t.travel.demand = 0 ∧
          t.travel.causes = { s.travel.causes with holderGone := true, safeStop := true })) ∧
      ((∃ x, x ≠ st ∧ s.attends x = true) ∨ s.supervision.mode ≠ .operational → NoReactions s →
        ((s.claims.get .travel).holder = some st → s.travel.holderGone t.travel) ∧
        ((s.claims.get .travel).holder ≠ some st → t.travel.state = s.travel.state ∧ t.travel.demand = s.travel.demand ∧
          t.travel.causes = s.travel.causes)) ∧
      ((∃ x, x ≠ st ∧ s.attends x = true) ∨ s.supervision.mode ≠ .operational ∨ s.travel.state = .parked →
        t.supervision.safeStop = s.supervision.safeStop ∧ t.supervision.causes = s.supervision.causes)

/-! ## Claims -/

/-- CLAIM_TRY, whole (R31): a free group is taken, a held one stays, and the answer names the holder before. -/
def Obligations.ClaimTryTakesAFreeGroup : Prop :=
  ∀ (l : Station) (tag : Byte) (ps : List Byte) (s : State) (g : Group),
    Sent Form.claimTry l ps s → groupOf (byteAt ps 0) = some g →
    ((s.claims.get g).holder = none → exec (.claimTry l tag ps) s = .next
      { replied Form.claimTry l tag ps .ok (.previousHolder none) s with
        claims := s.claims.set g ⟨some l, s.time, (s.claims.get g).waiting.filter (· != l)⟩ }) ∧
    ((s.claims.get g).holder = some l →
      exec (.claimTry l tag ps) s = .next (replied Form.claimTry l tag ps .ok (.previousHolder (some l)) s)) ∧
    (∀ x, (s.claims.get g).holder = some x → x ≠ l →
      exec (.claimTry l tag ps) s = .next (replied Form.claimTry l tag ps .refusedBusy (.previousHolder (some x)) s))

/-- CLAIM_WAIT: a free group is taken, else the sender waits at the tail, once (R32). -/
def Obligations.ClaimWaitQueuesTheSender : Prop :=
  ∀ (l : Station) (tag : Byte) (ps : List Byte) (s : State) (g : Group),
    Sent Form.claimWait l ps s → groupOf (byteAt ps 0) = some g →
    ((s.claims.get g).holder = none → exec (.claimWait l tag ps) s = .next
      { replied Form.claimWait l tag ps .ok (.previousHolder none) s with
        claims := s.claims.set g ⟨some l, s.time, (s.claims.get g).waiting.filter (· != l)⟩ }) ∧
    ((s.claims.get g).holder = some l ∨ (s.claims.get g).holder ≠ none ∧ l ∈ (s.claims.get g).waiting →
      exec (.claimWait l tag ps) s = .next (replied Form.claimWait l tag ps .refusedState .none s)) ∧
    (∀ x, (s.claims.get g).holder = some x → x ≠ l → l ∉ (s.claims.get g).waiting →
      exec (.claimWait l tag ps) s = .next
        { replied Form.claimWait l tag ps .accepted .none s with
          claims := s.claims.set g { s.claims.get g with waiting := (s.claims.get g).waiting ++ [l] } })

/-- RELEASE and YIELD: the oldest waiter takes the group and is told, or a released group is free; a yielder waits at
the tail; the draft and the driving vehicle follow, and the owner of a discarded draft is told (R30, R33, R34, R52). -/
def Obligations.ReleaseAndYieldHandOn : Prop :=
  ∀ (l : Station) (tag : Byte) (ps : List Byte) (s : State) (g : Group) (yielding : Bool),
    let f := if yielding then Form.yieldGroup else Form.release
    let c : Instr := if yielding then .yield l tag ps else .release l tag ps
    Sent f l ps s → Quiet s → groupOf (byteAt ps 0) = some g →
    ((s.claims.get g).holder ≠ some l ∨ yielding = true ∧ (s.claims.get g).waiting = [] →
      exec c s = .next (replied f l tag ps .refusedState .none s)) ∧
    ((s.claims.get g).holder = some l → (yielding = true → (s.claims.get g).waiting ≠ []) →
      ∃ t, exec c s = .next t ∧ Kept s t ∧ t.links = linksAfter f l tag ps .ok .none s ∧
        t.attendance = unprepared l s ∧
        (yielding = false → (s.claims.get g).waiting = [] → t.claims = s.claims.set g ⟨none, s.time, []⟩) ∧
        (∀ w ws, (s.claims.get g).waiting = w :: ws → w ∉ ws →
          t.claims = s.claims.set g ⟨some w, s.time, if yielding then ws ++ [l] else ws⟩ ∧
          (NoReactions s → s.attends w = true →
            (t.notices.get w).held[(2 : Fin 24)] =
              some ⟨.group g, .claimGranted (if yielding then .yielded else .released), s.time, none⟩)) ∧
        (∀ d, s.profile.draft = some d → t.profile.draft =
          if g = .profile ∧ d.owner = l then none else some d) ∧
        (NoReactions s → ∀ d, s.profile.draft = some d → g = .profile → d.owner = l →
          (t.notices.get l).held[(22 : Fin 24)] = some ⟨.slot d.origin, .draftDiscarded, s.time, none⟩) ∧
        (NoReactions s → g = .travel → s.travel.holderGone t.travel))

/-- OVERRIDE from the CAB station: the group is taken at once, the holder before waits at the head and is told (R35). -/
def Obligations.OverrideTakesTheGroup : Prop :=
  ∀ (l : Station) (tag : Byte) (ps : List Byte) (s : State) (g : Group),
    Sent Form.override l ps s → Quiet s → groupOf (byteAt ps 0) = some g →
    ((s.claims.get g).holder = none → exec (.override l tag ps) s = .next
      { replied Form.override l tag ps .ok (.previousHolder none) s with
        claims := s.claims.set g ⟨some l, s.time, (s.claims.get g).waiting.filter (· != l)⟩ }) ∧
    ((s.claims.get g).holder = some l →
      exec (.override l tag ps) s = .next (replied Form.override l tag ps .ok (.previousHolder (some l)) s)) ∧
    (∀ x, (s.claims.get g).holder = some x → x ≠ l →
      ∃ t, exec (.override l tag ps) s = .next t ∧ Kept s t ∧
        t.links = linksAfter Form.override l tag ps .ok (.previousHolder (some x)) s ∧
        t.attendance = unprepared l s ∧ t.profile.draft = s.profile.draft ∧
        t.claims = s.claims.set g ⟨some l, s.time, x :: (s.claims.get g).waiting.filter (· != l)⟩ ∧
        (NoReactions s → t = deliver ⟨.group g, .claimLost, s.time, .only x⟩ none
          { replied Form.override l tag ps .ok (.previousHolder (some x)) s with
            claims := s.claims.set g ⟨some l, s.time, x :: (s.claims.get g).waiting.filter (· != l)⟩ }))

/-- WITHDRAW_WAIT, whole (R36). -/
def Obligations.WithdrawWaitLeavesTheList : Prop :=
  ∀ (l : Station) (tag : Byte) (ps : List Byte) (s : State) (g : Group),
    Sent Form.withdrawWait l ps s → groupOf (byteAt ps 0) = some g →
    (l ∈ (s.claims.get g).waiting → exec (.withdrawWait l tag ps) s = .next
      { replied Form.withdrawWait l tag ps .ok .none s with
        claims := s.claims.set g { s.claims.get g with waiting := (s.claims.get g).waiting.filter (· != l) } }) ∧
    (l ∉ (s.claims.get g).waiting →
      exec (.withdrawWait l tag ps) s = .next (replied Form.withdrawWait l tag ps .refusedState .none s))

/-! ## Sweep profiles -/

/-- OPEN_DRAFT: a draft of the slot's record with every field written, or of nothing; a slot in use is refused (R47). -/
def Obligations.OpenDraftCopiesTheSlot : Prop :=
  ∀ (l : Station) (tag : Byte) (ps : List Byte) (s : State), Sent Form.openDraft l ps s →
    (s.claims.get .profile).holder = some l →
    (8 ≤ byteAt ps 0 → exec (.openDraft l tag ps) s = .next (replied Form.openDraft l tag ps .badParam .none s)) ∧
    (∀ n : SlotNo, n.val = byteAt ps 0 →
      (s.slot n = .empty → exec (.openDraft l tag ps) s = .next
        { replied Form.openDraft l tag ps .ok .none s with
          profile := { s.profile with
            draft := some ⟨l, n, none, none, none, ⟨⟨0, false⟩, ⟨0, false⟩, ⟨0, false⟩⟩, none, none, none, none,
              none⟩ } }) ∧
      (∀ r, s.slot n = .held .ready r → exec (.openDraft l tag ps) s = .next
        { replied Form.openDraft l tag ps .ok .none s with
          profile := { s.profile with
            draft := some ⟨l, n, some r.name, some r.ceiling, some r.arms,
              ⟨⟨r.levels.l, true⟩, ⟨r.levels.r, true⟩, ⟨r.levels.c, true⟩⟩, some r.zones, some r.dwell,
              some r.reserve, some r.points, none⟩ } }) ∧
      (∀ u r, s.slot n = .held u r → u ≠ .ready →
        exec (.openDraft l tag ps) s = .next (replied Form.openDraft l tag ps .refusedState .none s)))

/-- WRITE_DRAFT by field code, and SET_POINTS: the field named takes the value as it is given, the verdict stands; a code
or set outside its range is BAD_PARAM, a closed buffer REFUSED_STATE (R46, R48, R49, R188). -/
def Obligations.DraftFieldsAreWritten : Prop :=
  ∀ (l : Station) (tag : Byte) (ps : List Byte) (s : State), (s.claims.get .profile).holder = some l →
    (Sent Form.writeDraft l ps s →
      (byteAt ps 0 = 0 ∨ 9 < byteAt ps 0 ∨ (byteAt ps 0 = 3 ∧ 8 ≤ wordAt ps 1) ∨ (byteAt ps 0 = 7 ∧ 16 ≤ wordAt ps 1) →
        exec (.writeDraft l tag ps) s = .next (replied Form.writeDraft l tag ps .badParam .none s)) ∧
      (¬(byteAt ps 0 = 0 ∨ 9 < byteAt ps 0 ∨ (byteAt ps 0 = 3 ∧ 8 ≤ wordAt ps 1) ∨ (byteAt ps 0 = 7 ∧ 16 ≤ wordAt ps 1)) →
        s.profile.draft = none →
        exec (.writeDraft l tag ps) s = .next (replied Form.writeDraft l tag ps .refusedState .none s)) ∧
      ∀ d, s.profile.draft = some d →
        let v := wordAt ps 1
        let becomes := fun e : Draft => exec (.writeDraft l tag ps) s = .next
          { replied Form.writeDraft l tag ps .ok .none s with profile := { s.profile with draft := some e } }
        (byteAt ps 0 = 1 → becomes { d with name := some v }) ∧
        (byteAt ps 0 = 2 → becomes { d with ceiling := some v }) ∧
        (byteAt ps 0 = 3 → v < 8 → becomes { d with arms := some ⟨v.testBit 0, v.testBit 1, v.testBit 2⟩ }) ∧
        (byteAt ps 0 = 4 → becomes { d with levels := { d.levels with l := ⟨v, true⟩ } }) ∧
        (byteAt ps 0 = 5 → becomes { d with levels := { d.levels with r := ⟨v, true⟩ } }) ∧
        (byteAt ps 0 = 6 → becomes { d with levels := { d.levels with c := ⟨v, true⟩ } }) ∧
        (byteAt ps 0 = 7 → v < 16 →
          becomes { d with zones := some ⟨v.testBit 0, v.testBit 1, v.testBit 2, v.testBit 3⟩ }) ∧
        (byteAt ps 0 = 8 → becomes { d with dwell := some v }) ∧
        (byteAt ps 0 = 9 → becomes { d with reserve := some v })) ∧
    (Sent Form.setPoints l ps s →
      (s.profile.draft = none →
        exec (.setPoints l tag ps) s = .next (replied Form.setPoints l tag ps .refusedState .none s)) ∧
      ∀ d, s.profile.draft = some d → ∃ pts, exec (.setPoints l tag ps) s = .next
          { replied Form.setPoints l tag ps .ok .none s with
            profile := { s.profile with draft := some { d with points := some pts } } } ∧
        2 ≤ pts.length ∧ pts.length ≤ 8 ∧ 4 * pts.length = ps.length ∧
        ∀ i (h : i < pts.length), pts[i] = ⟨wordAt ps (4 * i), byteAt ps (4 * i + 2), byteAt ps (4 * i + 3)⟩)

/-- A draft passes validation exactly when no row of R50's table fails; else the verdict is the first field that fails, in
the rule's order, and for written points the first point that fails, numbered from 1 (R50, R188). -/
def Obligations.ValidationPassesValidDrafts : Prop :=
  (∀ d : Draft, d.validate = none ↔
    (∃ n, d.name = some n) ∧ (∃ v, d.ceiling = some v ∧ 10 ≤ v ∧ v ≤ 200) ∧
    (∃ set, d.arms = some set ∧ ∀ a, set.get a = true → 1 ≤ (d.levels.get a).value ∧ (d.levels.get a).value ≤ 15) ∧
    (∃ z, d.zones = some z) ∧ (∃ v, d.dwell = some v ∧ v ≤ 5000) ∧ (∃ v, d.reserve = some v ∧ 25 ≤ v ∧ v ≤ 100) ∧
    (∃ ps, d.points = some ps ∧ (∀ p, ps.head? = some p → p.speed = 0) ∧ (ps.map Point.speed).Pairwise (· < ·) ∧
      ∀ p ∈ ps, p.speed ≤ 200 ∧ p.rotation ≤ 100 ∧ p.spray ≤ 100)) ∧
  (∀ (d : Draft) (f : DraftField) (before after : List DraftField),
    let bad := fun (ps : List Point) (i : Nat) => ∃ p, ps[i]? = some p ∧
      (200 < p.speed ∨ 100 < p.rotation ∨ 100 < p.spray ∨ (i = 0 ∧ p.speed ≠ 0) ∨
        ∃ q, 0 < i ∧ ps[i - 1]? = some q ∧ p.speed ≤ q.speed)
    let fails : DraftField → Prop := fun x => match x with
      | .name => d.name = none
      | .ceiling => ∀ v, d.ceiling = some v → v < 10 ∨ 200 < v
      | .armSet => d.arms = none
      | .force a => ∃ set, d.arms = some set ∧ set.get a = true ∧
          ((d.levels.get a).value < 1 ∨ 15 < (d.levels.get a).value)
      | .zoneSet => d.zones = none
      | .dwell => ∀ v, d.dwell = some v → 5000 < v
      | .reserve => ∀ v, d.reserve = some v → v < 25 ∨ 100 < v
      | .points => ∀ ps, d.points = some ps → ∃ i, bad ps i
    [.name, .ceiling, .armSet, .force .l, .force .r, .force .c, .zoneSet, .dwell, .reserve, .points] =
        before ++ f :: after →
      (∀ g ∈ before, ¬fails g) → fails f →
      ∃ n, d.validate = some ⟨f, n⟩ ∧ ((f ≠ .points ∨ d.points = none) → n = 0) ∧
        ∀ ps, f = .points → d.points = some ps → 1 ≤ n ∧ bad ps (n - 1) ∧ ∀ i, i + 1 < n → ¬bad ps i)

/-- COMMIT_DRAFT and DISCARD_DRAFT: the slot test, then the verdict, then the record in the slot and the draft closed
(R46, R50, R51, R52). That the OK of a COMMIT_DRAFT, "with verdict none", carries no data is the model's choice (log
entry 42). -/
def Obligations.CommitDraftFillsTheSlot : Prop :=
  ∀ (l : Station) (tag : Byte) (s : State), (s.claims.get .profile).holder = some l →
    (Sent Form.commitDraft l [] s →
      (s.profile.draft = none →
        exec (.commitDraft l tag []) s = .next (replied Form.commitDraft l tag [] .refusedState .none s)) ∧
      ∀ d, s.profile.draft = some d →
        (∀ u r, s.slot d.origin = .held u r → u ≠ .ready →
          exec (.commitDraft l tag []) s = .next (replied Form.commitDraft l tag [] .refusedState .none s)) ∧
        (s.slot d.origin = .empty ∨ (∃ r, s.slot d.origin = .held .ready r) →
          (∀ v, d.validate = some v → exec (.commitDraft l tag []) s = .next
            { replied Form.commitDraft l tag [] .badParam (.verdict v) s with
              profile := { s.profile with draft := some { d with verdict := some v } } }) ∧
          ∀ name ceiling arms zones dwell reserve points, d.name = some name → d.ceiling = some ceiling →
            d.arms = some arms → d.zones = some zones → d.dwell = some dwell → d.reserve = some reserve →
            d.points = some points → d.validate = none →
            exec (.commitDraft l tag []) s = .next { replied Form.commitDraft l tag [] .ok .none s with
              profile := { s.profile with
                draft := none
                slots := s.profile.slots.set d.origin (.held .ready ⟨name, ceiling, arms,
                  ⟨d.levels.l.value, d.levels.r.value, d.levels.c.value⟩, zones, dwell, reserve, points⟩) } })) ∧
    (Sent Form.discardDraft l [] s →
      (s.profile.draft = none →
        exec (.discardDraft l tag []) s = .next (replied Form.discardDraft l tag [] .refusedState .none s)) ∧
      (s.profile.draft ≠ none → exec (.discardDraft l tag []) s = .next
        { replied Form.discardDraft l tag [] .ok .none s with profile := { s.profile with draft := none } }))

/-- ERASE_PROFILE, whole (R53): a READY slot becomes EMPTY, an open draft of it stays and fills it at a later commit. -/
def Obligations.EraseProfileEmptiesAReadySlot : Prop :=
  ∀ (l : Station) (tag : Byte) (ps : List Byte) (s : State), Sent Form.eraseProfile l ps s →
    (s.claims.get .profile).holder = some l →
    (8 ≤ byteAt ps 0 → exec (.eraseProfile l tag ps) s = .next (replied Form.eraseProfile l tag ps .badParam .none s)) ∧
    ∀ n : SlotNo, n.val = byteAt ps 0 →
      ((¬∃ r, s.slot n = .held .ready r) →
        exec (.eraseProfile l tag ps) s = .next (replied Form.eraseProfile l tag ps .refusedState .none s)) ∧
      ∀ r, s.slot n = .held .ready r →
        ∃ t, exec (.eraseProfile l tag ps) s = .next t ∧
          t = { replied Form.eraseProfile l tag ps .ok .none s with
            profile := { s.profile with slots := s.profile.slots.set n .empty } } ∧
          ∀ d, s.profile.draft = some d → d.origin = n → t.profile.draft = some d ∧ t.slot n = .empty ∧
            ∀ u : State, u.profile = t.profile → (u.claims.get .profile).holder = some l →
              Sent Form.commitDraft l [] u → d.validate = none →
              ∃ v, exec (.commitDraft l tag []) u = .next v ∧ v.slot n = .held .ready d.record

/-- SELECT_PROFILE: R56's tests in order; accepted, the arms are given the targets of the slot, or for none are all to be
STOWED, and the SELECT or the return to transport stands until each is there, and is then done; the slots, the values in force
and CHANGEOVER_DONE are those of R44, R57, R60 and R67 (R56 to R60).
That an arm with a reaction in flight stays as it is in this event, and the rest as one, is said where none is bound. -/
def Obligations.SelectProfileStartsAChangeover : Prop :=
  ∀ (l : Station) (tag : Byte) (ps : List Byte) (s : State), Sent Form.selectProfile l ps s →
    (s.claims.get .profile).holder = some l → s.supervision.mode ≠ .commissioning → workClear s →
    (8 ≤ byteAt ps 0 → byteAt ps 0 ≠ 0xFF →
      exec (.selectProfile l tag ps) s = .next (replied Form.selectProfile l tag ps .badParam .none s)) ∧
    (∀ (target : Option SlotNo), (target.map fun n => n.val).getD 0xFF = byteAt ps 0 →
      (s.supervision.safeStop = true ∨ s.supervision.pendingReset ≠ none →
        exec (.selectProfile l tag ps) s = .next (replied Form.selectProfile l tag ps .refusedState .none s)) ∧
      (s.supervision.safeStop = false → s.supervision.pendingReset = none →
        (s.profile.changeover ≠ none →
          exec (.selectProfile l tag ps) s = .next (replied Form.selectProfile l tag ps .refusedBusy .none s)) ∧
        (s.profile.changeover = none →
          ((∃ n, target = some n ∧ (s.slot n).usedAs .ready = false) ∨ s.travel.setpoint < 0 →
            exec (.selectProfile l tag ps) s = .next (replied Form.selectProfile l tag ps .refusedState .none s)) ∧
          (∀ n, target = some n → (s.slot n).usedAs .ready = true → 0 ≤ s.travel.setpoint →
            ∃ t, exec (.selectProfile l tag ps) s = .next t ∧
              Served Form.selectProfile l tag ps .accepted .none s t ∧ t.profile.selecting n ∧
              (∀ c, t.profile.changeover = some c → c.fromSlot = s.slotUsed .active ∧ c.start = s.time) ∧
              ∀ r, s.slot n = .held .ready r → NoReactions s →
                ChangesTo .select (s.slotUsed .active) (some n) r.arms s t ∧
                ChangeoverGoes .select false
                  (fun m => if m = n then .held .incoming r else match s.slot m with
                    | .held .active x => .held .outgoing x
                    | x => x)
                  (min r.ceiling (s.sideCeiling (s.recordAt (s.slotUsed .active)))) (some r) s t) ∧
          (target = none → 0 ≤ s.travel.setpoint →
            ∃ t, exec (.selectProfile l tag ps) s = .next t ∧
              Served Form.selectProfile l tag ps .accepted .none s t ∧
              (∀ c, t.profile.changeover = some c → c.kind = .toTransport ∧ c.toSlot = none ∧
                c.fromSlot = s.slotUsed .active ∧ c.start = s.time) ∧
              (NoReactions s → ChangesTo .toTransport (s.slotUsed .active) none (.all false) s t ∧
                ChangeoverGoes .toTransport false
                  (fun m => match s.slot m with
                    | .held .active x => .held .outgoing x
                    | x => x)
                  (s.sideCeiling (s.recordAt (s.slotUsed .active))) none s t) ∧
              ((∀ a, (s.arm a).state = .stowed) → s.profile.storeOk →
                t.profile.changeover = none ∧ t.profile.idle)))))

/-- ABORT_CHANGEOVER: refused with no record, an ABORT_RETURN or a pending reset; else the record turns back, with its
slots, a new start time, the values of its first side in force and that side's arms as the targets, and stands until each arm
is there; done, the slot left is ACTIVE again, the other READY, the ACTIVE slot's values are in force and CHANGEOVER_DONE says
ABORTED (R44, R45, R58 to R60, R62, R67). -/
def Obligations.AbortChangeoverTurnsBack : Prop :=
  ∀ (l : Station) (tag : Byte) (s : State), Sent Form.abortChangeover l [] s →
    (s.claims.get .profile).holder = some l → workClear s →
    (s.profile.changeover = none ∨ (∃ c, s.profile.changeover = some c ∧ c.kind = .abortReturn) ∨
        s.supervision.pendingReset ≠ none →
      exec (.abortChangeover l tag []) s = .next (replied Form.abortChangeover l tag [] .refusedState .none s)) ∧
    ∀ c, s.profile.changeover = some c → c.kind ≠ .abortReturn → s.supervision.pendingReset = none →
      ∃ t, exec (.abortChangeover l tag []) s = .next t ∧
        Served Form.abortChangeover l tag [] .accepted .none s t ∧
        (∀ d, t.profile.changeover = some d →
          d.kind = .abortReturn ∧ d.fromSlot = c.fromSlot ∧ d.toSlot = c.toSlot ∧ d.start = s.time) ∧
        (NoReactions s →
          let set := ((s.recordAt c.fromSlot).map Profile.arms).getD (.all false)
          ChangesTo .abortReturn c.fromSlot c.toSlot set s t ∧
          ChangeoverGoes .abortReturn c.degraded
            (fun n => match s.slot n with
              | .held .active r => .held (if c.kind = .reapply then .incoming else .active) r
              | x => x)
            (min (s.sideCeiling (s.recordAt c.fromSlot)) (s.sideCeiling (s.recordAt c.toSlot))) (s.recordAt c.fromSlot) s t ∧
          (t.profile.changeover ≠ none → ∀ n : SlotNo, t.slot n = match s.slot n with
            | .held .active r => .held (if c.kind = .reapply then .incoming else .active) r
            | x => x) ∧
          (t.profile.changeover = none →
            (∀ n : SlotNo, t.slot n = match s.slot n with
              | .held .incoming r => .held .ready r
              | .held .outgoing r => .held .active r
              | .held .active r => .held (if c.kind = .reapply then .ready else .active) r
              | x => x) ∧
            ∀ x, s.attends x = true → ∃ subject degraded name, (t.notices.get x).held[(4 : Fin 24)] =
              some ⟨subject, .changeoverDone .aborted .abortReturn .arms degraded name, s.time, none⟩))

/-! ## Field events -/

/-- CAPTURE_PULSE: the channel's counter rises, to 65 535 at most, and a WHEEL pulse sets the direction; a FLOW pulse
reloads the dry-run timer while the pump has a grant, and counts toward a litre and the water state; in reset and STARTING
nothing is counted (R73, R74, R79, R144, R146, R148). -/
def Obligations.CapturePulsesAreCounted : Prop :=
  ∀ (ch : Channel) (high : Bool) (s : State),
    (s.clock.phase ≠ .running → exec (.capturePulse ch high) s = .next s) ∧
    (s.clock.phase = .running →
      let counted := { s.capture.setChannel ch { s.capture.channel ch with
          counter := min ((s.capture.channel ch).counter + 1) 65535 } with
        direction := if ch = .wheel then (if high then .reverse else .forward) else s.capture.direction }
      (ch ≠ .flow → exec (.capturePulse ch high) s = .next { s with capture := counted }) ∧
      (ch = .flow → workClear s →
        let wet := { s with
          capture := counted
          spray := { s.spray with
            dryRunTimer := if 0 < s.spray.pumpGrant then .running (s.item 29) else s.spray.dryRunTimer } }
        (s.item? 24 = none → exec (.capturePulse ch high) s = .next wet) ∧
        ∀ n, s.item? 24 = some n →
          (s.water.pulses + 1 < n → exec (.capturePulse ch high) s = .next { wet with
            water := { s.water with pulses := s.water.pulses + 1 } }) ∧
          (n ≤ s.water.pulses + 1 →
            let litre : Water := { s.water with
              pulses := 0, dispensed := min (s.water.dispensed + 1) 4294967295, estimate := s.water.estimate - 1 }
            let now := if litre.dryLatch = true ∨ litre.estimate = 0 then WaterState.empty
              else if s.item 23 < litre.estimate ∧ litre.low = false then .ample else .reserve
            (now = s.water.state → exec (.capturePulse ch high) s = .next { wet with water := litre }) ∧
            (now ≠ s.water.state → s.supervision.pendingReset = none →
              ∃ t, exec (.capturePulse ch high) s = .next t ∧ Untouched s t ∧ t.capture = counted ∧
                t.switches = s.switches ∧
                (NoReactions s → t.water = { litre with state := now } ∧ t.spray.waterState = now ∧
                  (0 < s.spray.pumpGrant → t.spray.dryRunTimer =
                    if t.spray.pumpGrant = 0 then .stopped else .running (s.item 29)) ∧
                  ∀ x, s.attends x = true →
                    (now = .reserve → (t.notices.get x).held[(15 : Fin 24)] =
                      some ⟨.none, .waterLow litre.estimate litre.low, s.time, none⟩) ∧
                    (now = .empty → (t.notices.get x).held[(16 : Fin 24)] =
                      some ⟨.none, .waterEmpty litre.estimate litre.dryLatch, s.time, none⟩))))))

/-- GATE_EXPIRY: the window takes the counter, or is emptied by a new interval; the measured value is computed from the
window and published to its blocks: the end of STOPPING, the overspeed and stall timers, the arms awaiting speed and their
rotation, the dwell condition and the swept distance follow from it (R75 to R79, R97, R107, R118, R131, R132, R139, R150).
That a new interval leaves the newest count 0 too is the model's reading (log entry 27). -/
def Obligations.GateExpiryPublishesTheMeasure : Prop :=
  ∀ (ch : Channel) (s : State), Quiet s → (s.capture.channel ch).timer = .running 0 →
    let c := s.capture.channel ch
    let gate := (s.item? (gateItem ch)).getD 100
    let d : CaptureChannel :=
      if gate = c.interval then ⟨0, c.older, c.newer, c.newest, c.counter, gate, .running gate⟩
      else ⟨0, 0, 0, 0, 0, gate, .running gate⟩
    let sum := d.oldest + d.older + d.newer + d.newest
    ∃ t, exec (.gateExpiry ch) s = .next t ∧ Untouched s t ∧ t.switches = s.switches ∧
      t.capture.channel ch = d ∧ (∀ k, k ≠ ch → t.capture.channel k = s.capture.channel k) ∧
      t.capture.direction = s.capture.direction ∧
      (ch ≠ .wheel → t.capture.wheelSpeed = s.capture.wheelSpeed) ∧
      (ch ≠ .flow → t.capture.waterFlow = s.capture.waterFlow) ∧
      (∀ a, ch ≠ .brush a → t.capture.brushSpeed.get a = s.capture.brushSpeed.get a) ∧
      (ch = .wheel →
        (s.item? 1 = none ∨ sum = 0 → t.capture.wheelSpeed = 0) ∧
        (∀ p, s.item? 1 = some p → 0 < sum →
          t.capture.wheelSpeed = (if s.capture.direction = .forward then 1 else -1) *
            (min 500 (max 1 (sum * 36000 / (p * 4 * gate))) : Nat)) ∧
        (NoReactions s → t.travel.wheelSpeed = t.capture.wheelSpeed ∧ t.spray.wheelSpeed = t.capture.wheelSpeed ∧
          let v := t.capture.wheelSpeed
          let g := s.travel
          let rest := g.state = .stopping ∧ g.setpoint = 0 ∧ v = 0
          (t.travel.state = if rest then (if g.safeStop || g.resetPending then .parked else .hold) else g.state) ∧
          (t.travel.state ≠ .parked →
            (0 < v ∧ 20 < v - g.setpoint.tdiv 100 → t.travel.overspeedExpired = g.overspeedExpired ∧
              t.travel.overspeedTimer = if g.overspeedTimer.isRunning || g.overspeedExpired then g.overspeedTimer
                else .running 1000) ∧
            (¬(0 < v ∧ 20 < v - g.setpoint.tdiv 100) → t.travel.overspeedExpired = false ∧
              t.travel.overspeedTimer = .stopped)) ∧
          (∀ a, (t.arm a).wheelSpeed = v ∧ (t.arm a).state = (s.arm a).state ∧ (t.arm a).Commands (s.item 12) ∧
            ((s.arm a).sub = .awaitingSpeed → v.natAbs ≤ s.item 7 →
              (t.arm a).sub ≠ .awaitingSpeed ∧ (t.arm a).liftPosted = true) ∧
            ((s.arm a).sub = .awaitingSpeed → s.item 7 < v.natAbs →
              (t.arm a).sub = .awaitingSpeed ∧ (t.arm a).liftPosted = (s.arm a).liftPosted)) ∧
          (v = 0 →
            (s.spray.dwell = .moving → s.spray.dwellDelay = 0 →
              t.spray.dwell = .standing ∧ t.spray.dwellTimer = s.spray.dwellTimer) ∧
            (s.spray.dwell = .moving → s.spray.dwellDelay ≠ 0 →
              t.spray.dwell = .dwelling ∧ t.spray.dwellTimer = .running s.spray.dwellDelay) ∧
            (s.spray.dwell ≠ .moving →
              t.spray.dwell = s.spray.dwell ∧ t.spray.dwellTimer = s.spray.dwellTimer)) ∧
          (v ≠ 0 → t.spray.dwell = .moving ∧
            t.spray.dwellTimer = if s.spray.dwell = .dwelling then .stopped else s.spray.dwellTimer) ∧
          (∀ p, s.item? 1 = some p → 0 < p → (∃ a, s.water.armDown.get a = true) → t.water = { s.water with
            sweptPulses := (s.water.sweptPulses + d.newest) % p
            swept := min (s.water.swept + (s.water.sweptPulses + d.newest) / p) 4294967295 }) ∧
          (s.item? 1 = none ∨ (∀ a, s.water.armDown.get a = false) → t.water = s.water))) ∧
      (∀ a, ch = .brush a →
        (s.item? 11 = none ∨ sum = 0 → t.capture.brushSpeed.get a = 0) ∧
        (∀ n, s.item? 11 = some n → 0 < sum →
          t.capture.brushSpeed.get a = min 1000 (max 1 (sum * 60000 / (n * 4 * gate)))) ∧
        let u := s.arm a
        let v := t.capture.brushSpeed.get a
        let stalls := 0 < u.rotTarget ∧ v * 400 < u.rotTarget * s.item 10
        (stalls → t.arm a = { u with
          brushSpeed := v
          stallTimer := if u.stallTimer.isRunning || u.stallExpired then u.stallTimer else .running (s.item 13) }) ∧
        (¬stalls → t.arm a = { u with brushSpeed := v, stallTimer := .stopped, stallExpired := false })) ∧
      (ch = .flow →
        (s.item? 24 = none ∨ sum = 0 → t.capture.waterFlow = 0) ∧
        ∀ n, s.item? 24 = some n → 0 < sum → t.capture.waterFlow = max 1 (sum * 600000 / (n * 4 * gate)))

/-- RAW_LEVEL_CHANGE: away from the debounced level loads the counter with 20 ms, back to it stops it; not debounced in
reset and STARTING (R80). That a change to the level the pin already has leaves the state as it was is the model's choice
(log entry 1: an event that cannot occur has no effect). -/
def Obligations.RawLevelsLoadTheDebounceCounter : Prop :=
  ∀ (i : Switch) (on : Bool) (s : State),
    let w := s.switches.input i
    (on = w.raw → exec (.rawLevelChange i on) s = .next s) ∧
    (on ≠ w.raw → s.clock.phase ≠ .running →
      exec (.rawLevelChange i on) s = .next { s with switches := s.switches.setInput i { w with raw := on } }) ∧
    (on ≠ w.raw → s.clock.phase = .running → on ≠ w.level →
      exec (.rawLevelChange i on) s = .next { s with switches := s.switches.setInput i ⟨on, w.level, .running 20⟩ }) ∧
    (on ≠ w.raw → s.clock.phase = .running → on = w.level →
      exec (.rawLevelChange i on) s = .next { s with switches := s.switches.setInput i ⟨on, w.level, .stopped⟩ })

/-- DEBOUNCE_EXPIRY: the raw level is taken and reaches its owners: an arm ends its motion, deflects or faults, the tank
switches correct the estimate, FROST closes the valves, a lost seat on a moving vehicle is a safe stop, and the stations are
told each of these but the estimate's correction; an arm that ends a motion, deflects or faults reports to the changeover,
and its last arm ends it (R44, R59, R60, R67); a safe stop cuts it short (R64) (R80, R119, R120, R123, R127, R130, R131, R143,
R147, R181). -/
def Obligations.DebouncedLevelsReachTheirOwners : Prop :=
  ∀ (i : Switch) (s : State), Quiet s → (s.switches.input i).counter = .running 0 →
    let on := (s.switches.input i).raw
    let told := fun (t : State) (k : Fin 24) (u : Subject) (d : Detail) => ∀ st, s.attends st = true →
      (t.notices.get st).held[k] = some ⟨u, d, s.time, none⟩
    ∃ t, exec (.debounceExpiry i) s = .next t ∧ Untouched s t ∧ t.capture = s.capture ∧
      t.switches = s.switches.setInput i ⟨on, on, .stopped⟩ ∧
      (i = .seat → on = false → s.supervision.mode = .operational → s.travel.wheelSpeed ≠ 0 →
        t.supervision.safeStop = true ∧ t.supervision.causes = { s.supervision.causes with operator := true }) ∧
      (NoReactions s →
        (∀ a, i = .up a → (t.arm a).up = on ∧
          (on = true → (s.arm a).down = false → (s.arm a).state = .raising → (t.arm a).state = .stowed ∧
            told t 5 (.arm a) (.armSettled .stowed (s.arm a).origin) ∧ ReportsArm a .stowed s t) ∧
          (on = true → (s.arm a).down = true → (s.arm a).state ≠ .fault →
            (t.arm a).state = .fault ∧ (t.arm a).fault = .switchConflict ∧
            told t 6 (.arm a) (.armFault .switchConflict (s.arm a).state (s.arm a).origin) ∧ ReportsArm a .fault s t)) ∧
        (∀ a, i = .down a → (t.arm a).down = on ∧
          (on = true → (s.arm a).up = false → (s.arm a).state = .lowering →
            (t.arm a).state = (if (s.arm a).contact then .deflected else .working) ∧
            (t.arm a).Commands (s.item 12) ∧
            told t 5 (.arm a) (.armSettled (if (s.arm a).contact then .deflected else .working) (s.arm a).origin) ∧
            ReportsArm a (if (s.arm a).contact then .deflected else .working) s t) ∧
          (on = true → (s.arm a).up = true → (s.arm a).state ≠ .fault →
            (t.arm a).state = .fault ∧ (t.arm a).fault = .switchConflict ∧
            told t 6 (.arm a) (.armFault .switchConflict (s.arm a).state (s.arm a).origin) ∧ ReportsArm a .fault s t)) ∧
        (∀ a, i = .contact a → (t.arm a).contact = on ∧
          (on = true → (s.arm a).state = .working →
            (t.arm a).state = .deflected ∧ (t.arm a).pinnedTimer = .running (s.item 14) ∧
            (t.arm a).Commands (s.item 12) ∧
            told t 7 (.arm a) (.armDeflected (s.arm a).wheelSpeed
              (coupling Point.rotation (s.arm a).wheelSpeed.natAbs (s.arm a).points / 2)) ∧
            ReportsArm a .deflected s t) ∧
          (on = false → (s.arm a).state = .deflected →
            (t.arm a).state = .deflected ∧ (t.arm a).settleTimer = .running 300 ∧ (t.arm a).pinnedTimer = .stopped)) ∧
        (i = .full → t.water.full = on ∧
          (on = true → ∀ cap, s.item? 22 = some cap → t.water.pulses = 0 ∧ t.water.dryLatch = false ∧
            t.water.estimate = if s.water.low then min cap (s.item 23) else cap)) ∧
        (i = .low → t.water.low = on ∧
          t.water.estimate = if on then min s.water.estimate (s.item 23) else s.water.estimate) ∧
        (i = .frost → t.spray.frost = on ∧
          (on = true → (∀ z, t.spray.zones.get z = .inhibited .frost ∧ t.spray.valves.get z = false) ∧
            told t 18 .none (.frost (s.spray.zones.map (· == .on))))) ∧
        (i = .seat → t.travel.seat = on ∧
          (on = false → s.supervision.mode = .operational → s.travel.wheelSpeed ≠ 0 →
            told t 23 .none (.operatorAbsent s.travel.wheelSpeed s.travel.state) ∧
            (s.supervision.safeStop = false → ∀ c, s.profile.changeover = some c →
              ChangeoverEnds c.kind .safeStop c.degraded s.slot s t))))

/-! ## Travel -/

/-- RELEASE_PARK: five tests in order, each with its reason, then HOLD, the brake driven, the ramp timer loaded. APPLY_PARK
by the TG's state (R88, R89). -/
def Obligations.ParkingRequests : Prop :=
  (∀ (l : Station) (tag : Byte) (s : State), Sent Form.releasePark l [] s → (s.claims.get .travel).holder = some l →
     s.supervision.mode ≠ .commissioning →
     let refused := fun r => exec (.releasePark l tag []) s =
       .next (replied Form.releasePark l tag [] .refusedState (.reason r) s)
     let g := s.travel
     (g.state ≠ .parked → refused .notParked) ∧
     (g.state = .parked → g.safeStop = true → refused .safeStop) ∧
     (g.state = .parked → g.safeStop = false → g.resetPending = true → refused .resetPending) ∧
     (g.state = .parked → g.safeStop = false → g.resetPending = false → g.seat = false → refused .seat) ∧
     (g.state = .parked → g.safeStop = false → g.resetPending = false → g.seat = true → g.wheelSpeed ≠ 0 →
       refused .moving) ∧
     (g.state = .parked → g.safeStop = false → g.resetPending = false → g.seat = true → g.wheelSpeed = 0 →
       exec (.releasePark l tag []) s = .next { replied Form.releasePark l tag [] .ok .none s with
         travel := { g with state := .hold, brakeDriven := true, rampTimer := .running 10 } })) ∧
  (∀ (l : Station) (tag : Byte) (s : State), Sent Form.applyPark l [] s → (s.claims.get .travel).holder = some l →
     (s.travel.state = .hold → s.travel.wheelSpeed = 0 →
       exec (.applyPark l tag []) s = .next { replied Form.applyPark l tag [] .ok .none s with
         travel := { s.travel with
           state := .parked, brakeDriven := false, forward := 0, reverse := 0, trim := 0
           rampTimer := .stopped, overspeedTimer := .stopped, overspeedExpired := false } }) ∧
     (s.travel.state = .hold → s.travel.wheelSpeed ≠ 0 →
       exec (.applyPark l tag []) s = .next (replied Form.applyPark l tag [] .refusedState .none s)) ∧
     (s.travel.state = .parked →
       exec (.applyPark l tag []) s = .next (replied Form.applyPark l tag [] .ok .none s)) ∧
     (s.travel.state = .drive ∨ s.travel.state = .stopping →
       exec (.applyPark l tag []) s = .next (replied Form.applyPark l tag [] .refusedState .none s)))

/-- SET_TRAVEL: the table of R90, answered with the demand and the ramp target it gives; a negative demand accepted while
the reverse ceiling is 0 raises REVERSE_BLOCKED (R90, R91, R106).
That the stored ceiling and the flag of the reverse ceiling are read here is the model's reading (log entries 23, 35). -/
def Obligations.SetTravelSetsTheDemand : Prop :=
  ∀ (l : Station) (tag : Byte) (ps : List Byte) (s : State), Sent Form.setTravel l ps s →
    (s.claims.get .travel).holder = some l → Quiet s →
    let v := signedAt ps 0
    let reverse : Nat := if s.travel.reverseOpen then s.item 3 else 0
    let target : Int := if 0 ≤ v then min v s.travel.ceiling else max v (-(reverse : Int))
    let accepted := fun (d : Int) (st : TravelState) (target : Int) =>
      ∃ t, exec (.setTravel l tag ps) s = .next t ∧ Served Form.setTravel l tag ps .ok (.travelSet d target) s t ∧
        let u := { replied Form.setTravel l tag ps .ok (.travelSet d target) s with
          travel := { s.travel with demand := d, state := st } }
        (¬(v < 0 ∧ reverse = 0) → t = u) ∧
        (v < 0 → reverse = 0 → NoReactions s → t = deliver
          ⟨.none, .reverseBlocked v (s.travel.armStowed.map (!·)), s.time, .every none⟩ none u)
    (v < -250 ∨ 250 < v → exec (.setTravel l tag ps) s = .next (replied Form.setTravel l tag ps .badParam .none s)) ∧
    (-250 ≤ v → v ≤ 250 →
      (s.travel.state = .stopping ∨ s.travel.state = .parked ∧ v ≠ 0 →
        exec (.setTravel l tag ps) s = .next (replied Form.setTravel l tag ps .refusedState .none s)) ∧
      (s.travel.state = .parked → v = 0 → accepted 0 .parked 0) ∧
      (s.travel.state = .hold → v = 0 → accepted s.travel.demand .hold 0) ∧
      (s.travel.state = .hold → v ≠ 0 → accepted v .drive target) ∧
      (s.travel.state = .drive → v = 0 → s.travel.setpoint = 0 → accepted 0 .hold 0) ∧
      (s.travel.state = .drive → v = 0 → s.travel.setpoint ≠ 0 → accepted 0 .drive target) ∧
      (s.travel.state = .drive → v ≠ 0 → accepted v .drive target))

/-- One ramp step: it grows by the acceleration limit, shrinks by the deceleration limit, ends at the target it would
pass and never crosses 0 (R92). -/
def Obligations.RampStepMovesTowardTheTarget : Prop :=
  ∀ p t a d : Int, 0 < a → 0 < d →
    (p = t → rampStep p t a d = p) ∧
    (0 ≤ p → p < t → rampStep p t a d = min t (p + a)) ∧
    (p ≤ 0 → t < p → rampStep p t a d = max t (p - a)) ∧
    (0 < p → 0 ≤ t → t < p → rampStep p t a d = max t (p - d)) ∧
    (p < 0 → t ≤ 0 → p < t → rampStep p t a d = min t (p + d)) ∧
    (0 < p → t < 0 → rampStep p t a d = max 0 (p - d)) ∧
    (p < 0 → 0 < t → rampStep p t a d = min 0 (p + d)) ∧
    (0 < p → 0 ≤ rampStep p t a d) ∧ (p < 0 → rampStep p t a d ≤ 0)

/-- RAMP_TIMER_EXPIRY: setpoint, trim and displacement, then DRIVE to HOLD or the end of STOPPING, and the timer
reloaded; outside DRIVE the setpoint's magnitude does not grow (R91 to R95, R97, R182).
The stored ceiling and the flag of the reverse ceiling: log entries 23, 35, the model's reading. -/
def Obligations.RampExpiryMovesTheSetpoint : Prop :=
  ∀ s : State, Quiet s → s.travel.rampTimer = .running 0 →
    let reverse : Nat := if s.travel.reverseOpen then s.item 3 else 0
    let target : Int := if s.travel.state = .drive then
        (if 0 ≤ s.travel.demand then min s.travel.demand s.travel.ceiling else max s.travel.demand (-(reverse : Int))) * 100
      else 0
    let p := rampStep s.travel.setpoint target (s.item 5) (s.item 6)
    let trim := max (-2500) (min 2500 (s.travel.trim + (p.tdiv 100 - s.travel.wheelSpeed)))
    let rest := s.travel.state = .stopping ∧ p = 0 ∧ s.travel.wheelSpeed = 0
    let parks := rest ∧ (s.travel.safeStop = true ∨ s.travel.resetPending = true)
    ∃ t, exec .rampTimerExpiry s = .next t ∧ Untouched s t ∧ t.capture = s.capture ∧ t.switches = s.switches ∧
      t.arms = s.arms ∧ t.spray = s.spray ∧ t.water = s.water ∧ t.flow = s.flow ∧ t.profile = s.profile ∧
      t.supervision = s.supervision ∧
      t.travel.setpoint = p ∧ t.travel.demand = s.travel.demand ∧ t.travel.ceiling = s.travel.ceiling ∧
      t.travel.caps = s.travel.caps ∧
      (parks → t.travel.state = .parked ∧ t.travel.trim = 0 ∧ t.travel.forward = 0 ∧ t.travel.reverse = 0 ∧
        t.travel.brakeDriven = false ∧ t.travel.rampTimer = .stopped ∧ t.travel.causes = StopCauses.empty) ∧
      (¬parks → t.travel.trim = trim ∧ t.travel.rampTimer = .running 10 ∧
        t.travel.brakeDriven = s.travel.brakeDriven ∧
        (∀ full, s.item? 4 = some full → 0 < full →
          let d : Int := max (-100) (min 100
            ((if p < 0 then -((p.natAbs / full : Nat) : Int) else (p.natAbs / full : Nat)) + trim.tdiv 100))
          t.travel.forward = d.toNat ∧ t.travel.reverse = (-d).toNat)) ∧
      (rest → ¬parks → t.travel.state = .hold ∧ t.travel.causes = StopCauses.empty) ∧
      (s.travel.state = .drive → p = 0 → s.travel.demand = 0 → t.travel.state = .hold) ∧
      (s.travel.state = .drive → ¬(p = 0 ∧ s.travel.demand = 0) → t.travel.state = .drive) ∧
      (s.travel.state = .hold → t.travel.state = .hold) ∧
      (s.travel.state = .stopping → ¬rest → t.travel.state = .stopping ∧ t.travel.causes = s.travel.causes) ∧
      (s.travel.state ≠ .drive → t.travel.setpoint.natAbs ≤ s.travel.setpoint.natAbs)

/-- The lowest source in force, the first in R99's table, is the effective ceiling; FLOW_CEILING_RELEASE_EXPIRY withdraws
the flow ceiling and recomputes it, a change of source being CEILING_CHANGED; OVERSPEED_TIMER_EXPIRY sets the mark and
raises OVERSPEED (R99, R100, R101, R107). -/
def Obligations.CeilingAndOverspeedTimers : Prop :=
  (∀ s : State,
     let views := [(CeilingSource.cap, s.capSource), (.dry, s.drySource), (.flow, s.flowSource),
       (.armMotion, s.motionSource), (.maximum, s.maximumSource), (.profile, s.profileSource)]
     (∀ x ∈ views, x.2.inForce = true → s.lowestSource.1 ≤ x.2.value) ∧
     ∃ before after v, views = before ++ (s.lowestSource.2, v) :: after ∧ v.inForce = true ∧
       v.value = s.lowestSource.1 ∧ ∀ x ∈ before, x.2.inForce = true → s.lowestSource.1 < x.2.value) ∧
  (∀ s : State, Quiet s → s.travel.releaseTimer = .running 0 →
     let u := { s with travel := { s.travel with flowCeiling := none, releaseTimer := .stopped } }
     ∃ t, exec .flowCeilingReleaseExpiry s = .next t ∧ Untouched s t ∧ t.capture = s.capture ∧ t.switches = s.switches ∧
       (NoReactions s →
         let v := { u with travel := { u.travel with
           ceiling := u.lowestSource.1, limiting := u.lowestSource.2 } }
         (u.lowestSource.2 = s.travel.limiting → t = v) ∧
         (u.lowestSource.2 ≠ s.travel.limiting → t = deliver
           ⟨.source u.lowestSource.2, .ceilingChanged s.travel.limiting u.lowestSource.1, s.time, .every none⟩ none v))) ∧
  (∀ s : State, Quiet s → s.travel.overspeedTimer = .running 0 →
     ∃ t, exec .overspeedTimerExpiry s = .next t ∧ Untouched s t ∧ t.capture = s.capture ∧ t.switches = s.switches ∧
       (NoReactions s → t = deliver
         ⟨.none, .overspeed s.travel.wheelSpeed (s.travel.setpoint.tdiv 100), s.time, .every none⟩ none
         { s with travel := { s.travel with overspeedTimer := .stopped, overspeedExpired := true } }))

/-- ENGINE_REPORT and STALENESS_TIMER_EXPIRY: the engine speed, the mark, the timer and the capacity, and one reallocation
where the capacity changes; above 6000 the report is BAD_PARAM (R101, R108, R121, R131, R140, R153 to R163). -/
def Obligations.EngineReportsSetTheCapacity : Prop :=
  (∀ (l : Station) (tag : Byte) (ps : List Byte) (s : State), Sent Form.engineReport l ps s → Quiet s →
    (6000 < wordAt ps 0 →
      exec (.engineReport l tag ps) s = .next (replied Form.engineReport l tag ps .badParam .none s)) ∧
    (wordAt ps 0 ≤ 6000 → ∃ t, exec (.engineReport l tag ps) s = .next t ∧
      Served Form.engineReport l tag ps .ok .none s t ∧
      let u := { replied Form.engineReport l tag ps .ok .none s with
        flow := { s.flow with
          lastEngine := some (wordAt ps 0), mark := .fresh, timer := .running 1000
          capacity := s.item 19 * min (wordAt ps 0) (s.item 21) / s.item 21 } }
      (u.flow.capacity = s.flow.capacity → t = u) ∧
      (NoReactions s → Ended u t ∧
        (u.flow.capacity ≠ s.flow.capacity → s.flow.listsLawful → Reallocated u t)))) ∧
  (∀ s : State, Quiet s → s.flow.timer = .running 0 →
    ∃ t, exec .stalenessTimerExpiry s = .next t ∧ Untouched s t ∧ t.capture = s.capture ∧ t.switches = s.switches ∧
      (NoReactions s →
        let u := deliver ⟨.none, .engineStale s.flow.lastEngine s.flow.capacity (s.item 20), s.time, .every none⟩ none
          { s with flow := { s.flow with mark := .stale, timer := .stopped, capacity := s.item 20 } }
        Ended u t ∧ (s.item 20 ≠ s.flow.capacity → s.flow.listsLawful → Reallocated u t)))

/-- CLEAR_CAP: it is answered OK; and with no BOUND entry on CEILING_CHANGED (12) every cap is removed, every CAP_SPEED
entry in flight is out of flight, the raises they held are delivered in entry order with outcome CLEARED, and, where a cap was
installed, the ceiling is recomputed and CEILING_CHANGED delivered if the limiting source changed (R99, R100, R102, R104,
R177). That CEILING_CHANGED comes after the completed raises is the model's reading (log entry 11). -/
def Obligations.ClearCapRemovesTheCaps : Prop :=
  ∀ (l : Station) (tag : Byte) (s : State), Sent Form.clearCap l [] s → (s.claims.get .travel).holder = some l → Quiet s →
    (∃ t, exec (.clearCap l tag []) s = .next t ∧ Served Form.clearCap l tag [] .ok .none s t) ∧
    ((∀ (e : EntryNo) b, s.reactions[e] = some b → b.enabled = true → b.factor ≠ 12) →
      let cleared := s.capRaises.foldl (fun u p => deliver p.2 (some ⟨p.1, .cleared, .all false⟩) u)
        { replied Form.clearCap l tag [] .ok .none s with
          travel := { s.travel with caps := Vector.replicate 8 none }
          reactions := s.reactions.map fun o => o.bind Binding.cleared }
      let now := { cleared with travel := { cleared.travel with
        ceiling := cleared.lowestSource.1, limiting := cleared.lowestSource.2 } }
      ((∀ e : EntryNo, s.travel.caps[e] = none) → exec (.clearCap l tag []) s = .next cleared) ∧
      ((∃ e : EntryNo, s.travel.caps[e] ≠ none) → exec (.clearCap l tag []) s = .next
        (if now.travel.limiting = s.travel.limiting then now
         else deliver ⟨.source now.travel.limiting, .ceilingChanged s.travel.limiting now.travel.ceiling, s.time,
           .every none⟩ none now)))

/-! ## Brush arms -/

/-- ARM_COMMAND's shared refusals: a command byte that is none of the four, a reaction in flight, an arm the changeover
moves (R113). -/
def Obligations.ArmCommandRefusals : Prop :=
  ∀ (l : Station) (tag : Byte) (ps : List Byte) (s : State) (a : Arm), Sent Form.armCommand l ps s → workClear s →
    armOf (byteAt ps 0) = some a → (s.claims.get a.group).holder = some l → s.supervision.mode ≠ .commissioning →
    ∀ c : Instr, c = .armLower l tag ps ∨ c = .armRaise l tag ps ∨ c = .armHalt l tag ps ∨ c = .armClearFault l tag ps →
      c.wellFormed = true →
      (3 < byteAt ps 1 → exec c s = .next (replied Form.armCommand l tag ps .badParam .none s)) ∧
      (byteAt ps 1 ≤ 3 → (s.arm a).reaction ≠ none →
        exec c s = .next (replied Form.armCommand l tag ps .refusedState (.reason .reaction) s)) ∧
      (byteAt ps 1 ≤ 3 → (s.arm a).reaction = none → s.involved a = true →
        exec c s = .next (replied Form.armCommand l tag ps .refusedBusy (.reason .changeover) s))

/-- ARM_LOWER: its refusals in order, each with its reason; then OK where the target is already DOWN, else ACCEPTED and
the arm LOWERING, or at its end where DOWN is asserted; in DRIVE with a negative demand the first arm to leave STOWED is
REVERSE_BLOCKED (R106, R114, R118, R119, R122). That this factor comes after the event's reports is the model's reading
(log entry 37). -/
def Obligations.ArmLowerLowersTheArm : Prop :=
  ∀ (l : Station) (tag : Byte) (ps : List Byte) (s : State) (a : Arm), Sent Form.armCommand l ps s → workClear s →
    armOf (byteAt ps 0) = some a → byteAt ps 1 = 0 → (s.claims.get a.group).holder = some l →
    s.supervision.mode ≠ .commissioning → (s.arm a).reaction = none → s.involved a = false →
    let u := s.arm a
    let refused := fun r => exec (.armLower l tag ps) s =
      .next (replied Form.armCommand l tag ps .refusedState (.reason r) s)
    (u.state = .fault → refused .fault) ∧
    (u.state ≠ .fault → s.supervision.safeStop = true → refused .safeStop) ∧
    (u.state ≠ .fault → s.supervision.safeStop = false → s.supervision.pendingReset ≠ none → refused .resetPending) ∧
    (u.state ≠ .fault → s.supervision.safeStop = false → s.supervision.pendingReset = none → s.travel.setpoint < 0 →
      refused .reverse) ∧
    (s.supervision.safeStop = false → s.supervision.pendingReset = none → 0 ≤ s.travel.setpoint →
      (u.state = .lowering ∨ u.state = .working ∨ u.state = .deflected →
        exec (.armLower l tag ps) s = .next (replied Form.armCommand l tag ps .ok .none s)) ∧
      (u.state = .stowed ∨ u.state = .halted ∨ u.state = .raising →
        ∃ t, exec (.armLower l tag ps) s = .next t ∧ Served Form.armCommand l tag ps .accepted .none s t ∧
          (NoReactions s →
            (t.arm a).target = .down ∧
            (u.down = false → (t.arm a).state = .lowering ∧ (t.arm a).origin = .command ∧
              (s.item 7 < u.wheelSpeed.natAbs → (t.arm a).sub = .awaitingSpeed ∧ (t.arm a).liftPosted = (u.state != .raising && u.liftPosted)) ∧
              (u.wheelSpeed.natAbs ≤ s.item 7 → u.state ≠ .raising → (t.arm a).sub ≠ .awaitingSpeed ∧ (t.arm a).liftPosted = true)) ∧
            (u.down = true → (t.arm a).state = (if u.contact then .deflected else .working) ∧
              (t.arm a).origin = .none ∧ (t.arm a).motionTimer = .stopped ∧ (t.arm a).liftPosted = false) ∧
            (u.state = .stowed → s.travel.reverseOpen = true → t.travel.reverseOpen = false ∧
              (s.travel.state = .drive → s.travel.demand < 0 → ∀ x, s.attends x = true →
                (t.notices.get x).held[(11 : Fin 24)] = some ⟨.none, .reverseBlocked s.travel.demand
                  ((s.travel.armStowed.set a false).map (!·)), s.time, none⟩)) ∧
            ∀ b, b ≠ a → (t.arm b).state = (s.arm b).state ∧ (t.arm b).target = (s.arm b).target)))

/-- ARM_RAISE: its refusals; then OK where the arm is STOWED or RAISING, else ACCEPTED and the arm RAISING, or STOWED
where UP is asserted; the last arm to be STOWED so brings a pending settled reset (R115, R118, R119, R122, R185). That FAULT is
the reason where both refusals apply is the model's reading (log entry 20). -/
def Obligations.ArmRaiseRaisesTheArm : Prop :=
  ∀ (l : Station) (tag : Byte) (ps : List Byte) (s : State) (a : Arm), Sent Form.armCommand l ps s → workClear s →
    armOf (byteAt ps 0) = some a → byteAt ps 1 = 1 → (s.claims.get a.group).holder = some l →
    (s.arm a).reaction = none → s.involved a = false →
    let u := s.arm a
    let ready := s.liftItem? a ≠ none ∧ s.item? 9 ≠ none
    (u.state = .fault → exec (.armRaise l tag ps) s =
      .next (replied Form.armCommand l tag ps .refusedState (.reason .fault) s)) ∧
    (u.state ≠ .fault → ¬ready → exec (.armRaise l tag ps) s =
      .next (replied Form.armCommand l tag ps .refusedState (.reason .uncommissionedItem) s)) ∧
    (u.state = .stowed ∨ u.state = .raising → ready →
      exec (.armRaise l tag ps) s = .next (replied Form.armCommand l tag ps .ok .none s)) ∧
    (u.state ≠ .stowed → u.state ≠ .raising → u.state ≠ .fault → ready →
      let last := s.supervision.pendingReset ≠ none ∧ s.travel.state = .parked ∧ u.up = true ∧
        ∀ b, b ≠ a → s.supervision.armDone.get b = true
      (last → NoReactions s → ∃ t, exec (.armRaise l tag ps) s = .next t ∧ AfterRequest (some false) s t) ∧
      (¬last → s.supervision.pendingReset = none ∨ NoReactions s →
      ∃ t, exec (.armRaise l tag ps) s = .next t ∧ Served Form.armCommand l tag ps .accepted .none s t ∧
        (NoReactions s →
          (t.arm a).target = .stowed ∧
          (u.up = false → (t.arm a).state = .raising ∧ (t.arm a).origin = .command ∧ (t.arm a).sub ≠ .awaitingSpeed) ∧
          (u.up = true → (t.arm a).state = .stowed ∧ (t.arm a).origin = .none ∧ (t.arm a).motionTimer = .stopped ∧
            (t.arm a).liftPosted = false) ∧
          ((t.arm a).force = 0 ∧ (t.arm a).rot = 0) ∧
          ∀ b, b ≠ a → (t.arm b).state = (s.arm b).state ∧ (t.arm b).target = (s.arm b).target)))

/-- ARM_HALT and ARM_CLEAR_FAULT: their refusals and effects; they are served while a settled reset is pending too, which
an arm that is HALTED holds off (R116, R117, R185). -/
def Obligations.ArmHaltAndClearFault : Prop :=
  ∀ (l : Station) (tag : Byte) (ps : List Byte) (s : State) (a : Arm), Sent Form.armCommand l ps s → workClear s →
    armOf (byteAt ps 0) = some a → (s.claims.get a.group).holder = some l →
    (s.arm a).reaction = none → s.involved a = false →
    let u := s.arm a
    let settled := s.supervision.pendingReset = none ∨ NoReactions s
    (byteAt ps 1 = 2 →
      (u.state = .fault → exec (.armHalt l tag ps) s =
        .next (replied Form.armCommand l tag ps .refusedState (.reason .fault) s)) ∧
      (u.state = .stowed ∨ u.state = .halted →
        exec (.armHalt l tag ps) s = .next (replied Form.armCommand l tag ps .ok .none s)) ∧
      (u.state = .lowering ∨ u.state = .raising ∨ u.state = .working ∨ u.state = .deflected → settled →
        ∃ t, exec (.armHalt l tag ps) s = .next t ∧ Served Form.armCommand l tag ps .ok .none s t ∧
          (NoReactions s → (t.arm a).state = .halted ∧ (t.arm a).sub = .none ∧ (t.arm a).target = u.target ∧
            (t.arm a).origin = .none ∧ (t.arm a).liftPosted = false ∧ (t.arm a).motionTimer = .stopped ∧
            (t.arm a).settleTimer = .stopped ∧ (t.arm a).pinnedTimer = .stopped ∧ (t.arm a).stallTimer = .stopped ∧
            (t.arm a).rotTarget = 0 ∧ (t.arm a).liftDownOpen = false ∧ (t.arm a).liftUpOpen = false ∧
            (t.arm a).force = 0 ∧ (t.arm a).rot = 0 ∧
            ∀ b, b ≠ a → (t.arm b).state = (s.arm b).state ∧ (t.arm b).target = (s.arm b).target))) ∧
    (byteAt ps 1 = 3 →
      let refused := fun r => exec (.armClearFault l tag ps) s =
        .next (replied Form.armCommand l tag ps .refusedState (.reason r) s)
      (u.state ≠ .fault → refused .notFault) ∧
      (u.state = .fault → s.travel.setpoint ≠ 0 → refused .notAtRest) ∧
      (u.state = .fault → s.travel.setpoint = 0 → u.up = true → u.down = true → refused .conflict) ∧
      (u.state = .fault → s.travel.setpoint = 0 → ¬(u.up = true ∧ u.down = true) → settled →
        ∃ t, exec (.armClearFault l tag ps) s = .next t ∧ Served Form.armCommand l tag ps .ok .none s t ∧
          (NoReactions s → (t.arm a).state = .halted ∧ (t.arm a).fault = .none ∧ (t.arm a).target = u.target ∧
            (t.arm a).liftDownOpen = false ∧ (t.arm a).liftUpOpen = false ∧ (t.arm a).force = 0 ∧ (t.arm a).rot = 0)))

/-- The arms' timers: a motion that times out faults the arm, a settled one is WORKING again with its force and rotation,
a pinned one raises, a stall is reported once; each report reaches the changeover, and its last arm ends it (R44, R59, R60,
R67, R111, R121, R123, R128 to R132). -/
def Obligations.ArmTimersExpire : Prop :=
  ∀ (a : Arm) (s : State), Quiet s →
    let u := s.arm a
    (u.motionTimer = .running 0 →
      ∃ t, exec (.motionTimerExpiry a) s = .next t ∧ Untouched s t ∧ t.capture = s.capture ∧ t.switches = s.switches ∧
        (NoReactions s → (t.arm a).state = .fault ∧
          (t.arm a).fault = (if u.state = .lowering then .lowerTimeout else .raiseTimeout) ∧
          (t.arm a).liftDownOpen = false ∧ (t.arm a).liftUpOpen = false ∧ (t.arm a).liftPosted = false ∧
          (t.arm a).motionTimer = .stopped ∧ (t.arm a).force = 0 ∧ (t.arm a).rot = 0 ∧
          ∀ x, s.attends x = true → (t.notices.get x).held[(6 : Fin 24)] = some
            ⟨.arm a, .armFault (if u.state = .lowering then .lowerTimeout else .raiseTimeout) u.state u.origin,
              s.time, none⟩) ∧
        (NoReactions s → ReportsArm a .fault s t)) ∧
    (u.settleTimer = .running 0 → u.state = .deflected →
      ∃ t, exec (.settleTimerExpiry a) s = .next t ∧ Untouched s t ∧ t.capture = s.capture ∧ t.switches = s.switches ∧
        (NoReactions s → (t.arm a).state = .working ∧ (t.arm a).settleTimer = .stopped ∧
          (t.arm a).Commands (s.item 12) ∧ ReportsArm a .working s t)) ∧
    (u.pinnedTimer = .running 0 →
      ∃ t, exec (.pinnedTimerExpiry a) s = .next t ∧ Untouched s t ∧ t.capture = s.capture ∧ t.switches = s.switches ∧
        (NoReactions s → (t.arm a).target = .stowed ∧ (t.arm a).pinnedTimer = .stopped ∧
          (u.up = false → (t.arm a).state = .raising ∧ (t.arm a).origin = .pinned) ∧
          (u.up = true → (t.arm a).state = .stowed) ∧ (t.arm a).Commands (s.item 12) ∧
          ReportsArm a (if u.up then .stowed else .raising) s t ∧
          ∀ x, s.attends x = true → ∃ v, (t.notices.get x).held[(8 : Fin 24)] = some
            ⟨.arm a, .armPinned (s.item 14) v, s.time, none⟩)) ∧
    (u.stallTimer = .running 0 →
      ∃ t, exec (.stallTimerExpiry a) s = .next t ∧ Untouched s t ∧ t.capture = s.capture ∧ t.switches = s.switches ∧
        (NoReactions s → t = deliver ⟨.arm a, .rotationStall u.rotTarget u.brushSpeed u.rotGrant, s.time, .every none⟩ none
          { s with arms := s.arms.set a { u with stallTimer := .stopped, stallExpired := true } }))

/-! ## Spraying and the water account -/

/-- The coupling lies within its points' values and meets each point at its speed (R43). -/
def Obligations.CouplingMeetsItsPoints : Prop :=
  ∀ (f : Point → Nat) (ps : List Point), (ps.map Point.speed).Pairwise (· < ·) →
    (∀ p ∈ ps, coupling f p.speed ps = f p) ∧
    (∀ m, (∀ p, ps.head? = some p → p.speed = 0) → (∀ p ∈ ps, f p ≤ m) → ∀ v, coupling f v ps ≤ m) ∧
    (∀ p q pre rest v, ps = pre ++ p :: q :: rest → p.speed ≤ v → v < q.speed →
      coupling f v ps = (f p * (q.speed - v) + f q * (v - p.speed)) / (q.speed - p.speed)) ∧
    (∀ p pre v, ps = pre ++ [p] → p.speed ≤ v → coupling f v ps = f p)

/-- An evaluation gives each zone the first row of R136's table that applies, its valve and its duty, and the pump its duty
demand and its demand (R136 to R138, R140). -/
def Obligations.ZonesFollowTheTable : Prop :=
  ∀ (s : State) (z : Zone),
    let v := s.spray
    let t := evaluateZones s
    let inhibited := v.frost = true ∨ v.waterState = .empty ∨ v.safeStop = true ∨ v.forcedOff.get z = true
    let down := match z.arm with
      | some a => (v.armState.get a).isDown = true
      | none => ∃ a, (v.armState.get a).isDown = true
    (v.frost = true → t.spray.zones.get z = .inhibited .frost) ∧
    (v.frost = false → v.waterState = .empty → t.spray.zones.get z = .inhibited .empty) ∧
    (v.frost = false → v.waterState ≠ .empty → v.safeStop = true → t.spray.zones.get z = .inhibited .safeStop) ∧
    (v.frost = false → v.waterState ≠ .empty → v.safeStop = false → v.forcedOff.get z = true →
      t.spray.zones.get z = .inhibited .forced) ∧
    (¬inhibited → v.zoneSet.get z = false ∨ ¬down → t.spray.zones.get z = .off) ∧
    (¬inhibited → v.zoneSet.get z = true → down → v.dwell = .standing → t.spray.zones.get z = .suspended .dwell) ∧
    (¬inhibited → v.zoneSet.get z = true → v.dwell ≠ .standing → (∃ a, z.arm = some a ∧ v.armState.get a = .deflected) →
      t.spray.zones.get z = .suspended .deflected) ∧
    (¬inhibited → v.zoneSet.get z = true → down → v.dwell ≠ .standing →
      (∀ a, z.arm = some a → v.armState.get a ≠ .deflected) →
      t.spray.zones.get z = if sprayAt v.points v.wheelSpeed = 0 then .off else .on) ∧
    (t.spray.valves.get z = true ↔ t.spray.zones.get z = .on) ∧
    t.spray.duty.get z = (if t.spray.zones.get z = .on then sprayAt v.points v.wheelSpeed else 0) ∧
    (let sum := min 100 ((Zone.list.map fun x => s.weight x * t.spray.duty.get x).sum / 100)
     t.spray.pumpDuty = (if v.waterState = .reserve then sum * v.reserve / 100 else sum) ∧
     t.spray.pumpDemand = (t.spray.pumpDuty * s.item 18 + 99) / 100 ∧ t.flow.pumpDemand = t.spray.pumpDemand)

/-- ZONE_OVERRIDE sets the override, the zones are evaluated afresh, the pump's new demand brings a reallocation, and the
zone's state after the request is answered; DWELL_TIMER_EXPIRY makes STANDING; DRY_RUN_TIMER_EXPIRY sets the latch, EMPTY,
every valve closed, PUMP_DRY then WATER_EMPTY (R139 to R141, R144, R148, R157 to R163). -/
def Obligations.OverrideAndSprayTimers : Prop :=
  (∀ (l : Station) (tag : Byte) (ps : List Byte) (s : State) (z : Zone), Sent Form.zoneOverride l ps s →
     (s.claims.get .spray).holder = some l → zoneOf (byteAt ps 0) = some z → Quiet s →
     (1 < byteAt ps 1 →
       exec (.zoneOverride l tag ps) s = .next (replied Form.zoneOverride l tag ps .badParam .none s)) ∧
     (byteAt ps 1 ≤ 1 →
       let v := evaluateZones { s with
         spray := { s.spray with forcedOff := s.spray.forcedOff.set z (byteAt ps 1 == 1) } }
       ∃ t, exec (.zoneOverride l tag ps) s = .next t ∧
         Served Form.zoneOverride l tag ps .ok (.zone (t.spray.zones.get z)) s t ∧
         (byteAt ps 1 = 1 → s.spray.frost = false → s.spray.waterState ≠ .empty → s.spray.safeStop = false →
           v.spray.zones.get z = .inhibited .forced) ∧
         (NoReactions s → t.spray.forcedOff = s.spray.forcedOff.set z (byteAt ps 1 == 1) ∧
           t.spray.zones = v.spray.zones ∧ t.spray.duty = v.spray.duty ∧ t.spray.valves = v.spray.valves ∧
           t.spray.pumpDemand = v.spray.pumpDemand ∧ t.arms.map ArmUnit.state = s.arms.map ArmUnit.state ∧
           t.water = s.water ∧
           (v.flow.pumpDemand ≠ s.flow.pumpDemand → s.flow.listsLawful → Reallocated v t)))) ∧
  (∀ s : State, Quiet s →
     (s.spray.dwellTimer = .running 0 →
       let v := evaluateZones { s with spray := { s.spray with dwell := .standing, dwellTimer := .stopped } }
       ∃ t, exec .dwellTimerExpiry s = .next t ∧ Untouched s t ∧ t.capture = s.capture ∧ t.switches = s.switches ∧
         (NoReactions s → t.spray.dwell = .standing ∧ t.spray.dwellTimer = .stopped ∧ t.spray.zones = v.spray.zones ∧
           t.spray.valves = v.spray.valves ∧ t.spray.duty = v.spray.duty ∧ t.water = s.water)) ∧
     (s.spray.dryRunTimer = .running 0 → s.spray.waterState = s.water.state →
       ∃ t, exec .dryRunTimerExpiry s = .next t ∧ Untouched s t ∧ t.capture = s.capture ∧ t.switches = s.switches ∧
         (NoReactions s → t.water = { s.water with dryLatch := true, state := .empty } ∧
           t.spray.waterState = .empty ∧
           (s.water.state ≠ .empty → ∀ z, t.spray.zones.get z ≠ .on ∧ t.spray.valves.get z = false) ∧
           ∀ x, s.attends x = true →
             (t.notices.get x).held[(17 : Fin 24)] = some ⟨.none, .pumpDry s.water.estimate, s.time, none⟩ ∧
             (s.water.state ≠ .empty → (t.notices.get x).held[(16 : Fin 24)] =
               some ⟨.none, .waterEmpty s.water.estimate true, s.time, none⟩))))

/-- REFILL: the estimate, the counters and the latch, then the water state; answered with both (R147, R148, R149). -/
def Obligations.RefillSetsTheEstimate : Prop :=
  ∀ (l : Station) (tag : Byte) (ps : List Byte) (s : State), Sent Form.refill l ps s →
    (s.claims.get .account).holder = some l → Quiet s →
    (4000 < wordAt ps 0 → exec (.refill l tag ps) s = .next (replied Form.refill l tag ps .badParam .none s)) ∧
    (wordAt ps 0 ≤ 4000 → s.item? 22 = none →
      exec (.refill l tag ps) s = .next (replied Form.refill l tag ps .refusedState (.reason .uncommissionedItem) s)) ∧
    (∀ cap, wordAt ps 0 ≤ 4000 → s.item? 22 = some cap →
      let full := min (wordAt ps 0) cap
      let estimate := if s.water.low then min full (s.item 23) else full
      let state := if estimate = 0 then WaterState.empty
        else if s.item 23 < estimate ∧ s.water.low = false then .ample else .reserve
      ∃ t d, exec (.refill l tag ps) s = .next t ∧ Served Form.refill l tag ps .ok d s t ∧
        (NoReactions s → d = .refilled estimate state ∧
          t.water = { s.water with
            estimate := estimate, state := state, pulses := 0, dryLatch := false, dispensed := 0, swept := 0
            sweptPulses := 0 } ∧
          (state ≠ s.water.state → t.spray.waterState = state)))

/-! ## Notices and reactions -/

/-- Delivery sets flag and held record and queues a notice, at each station the raise reaches, and nothing else; a raise
goes to the lowest-numbered BOUND entry that fits it, held back until that entry's action completes, or is delivered at
once; the five actions by the state they meet, and the completion of a held raise with its outcome (R103, R105, R126, R142,
R166 to R168, R173, R176, R177). Four things here are the model's, not rules of the spec. A cap met at its hand-over has its raise
delivered after the event's CEILING_CHANGED (log entry 19). Of the outcomes of RAISE_ARM, STOWED and FAULTED go before
NOT_COMMISSIONED, and NOT_COMMISSIONED before a raise that goes on (log entry 20). At the UP switch event and the motion
timer's expiry the completion comes after the arm's own factor, which shows in the held record where the raise it held is one
of that factor, ARM_SETTLED (5) or ARM_FAULT (6) (log entry 13). The raise of a HALT_ARM, of a FORCE_ZONE_OFF and of a
RAISE_ARM that completes at once is delivered within the hand-over: in front of the event's CEILING_CHANGED and FLOW_SHORT,
and behind a CHANGEOVER_DONE that the arm's report brings (log entry 43, a DESIGN CHOICE). -/
def Obligations.RaisesAreMatchedAndDelivered : Prop :=
  (∀ (r : Raise) (c : Option Completion) (s : State),
    (∃ n, deliver r c s = { s with notices := n }) ∧
    ∀ st,
      let v := s.notices.get st
      let w := (deliver r c s).notices.get st
      let k := r.detail.factor
      let h : HeldRecord := ⟨r.subject, r.detail, r.time, c⟩
      let reached := s.attends st = true ∧ match r.audience with
        | .every skip => skip ≠ some st
        | .only x => st = x
      (¬reached → w = v) ∧
      (reached → w.flags = v.flags ||| BitVec.twoPow 24 k ∧ w.held = v.held.set k (some h) ∧ w.masks = v.masks ∧
        w.master = v.master ∧
        (v.masks.getLsbD k = true ∨ v.master = true → w.queue = v.queue ∧ w.overflow = v.overflow) ∧
        (v.masks.getLsbD k = false → v.master = false → v.queue.length < 16 →
          w.queue = v.queue ++ [⟨h, false⟩] ∧ w.overflow = v.overflow) ∧
        (v.masks.getLsbD k = false → v.master = false → 16 ≤ v.queue.length →
          w.queue = v.queue ∧ w.overflow = true))) ∧
  (∀ (r : Raise) (s : State), (∀ (e : EntryNo) b, s.reactions[e] = some b → b.fits r = false) →
    raiseFactor r s = deliver r none s) ∧
  (∀ (r : Raise) (s : State) (e : EntryNo) (b : Binding), s.reactions[e] = some b → b.fits r = true →
    (∀ (k : EntryNo) d, k < e → s.reactions[k] = some d → d.fits r = false) →
    (b.held ≠ none → raiseFactor r s = deliver r none s) ∧
    (b.held = none → b.action = .stopTravel → s.travel.state = .parked →
      raiseFactor r s = deliver r (some ⟨e, .stopped, .all false⟩) s) ∧
    (b.held = none → b.action = .stopTravel → s.travel.state = .hold ∨ s.travel.state = .drive →
      s.travel.setpoint = 0 → s.travel.wheelSpeed = 0 →
      (∀ (k : EntryNo) d, s.reactions[k] = some d → d.action = .stopTravel → d.held = none) →
      ∃ u, raiseFactor r s = deliver r (some ⟨e, .stopped, .all false⟩) u ∧ u.reactions = s.reactions ∧
        u.notices = s.notices ∧ u.attendance = s.attendance ∧
        s.travel.TakesCause (fun c => { c with stopTravel := true }) u.travel) ∧
    (b.held = none → b.action = .stopTravel → s.travel.state = .hold ∨ s.travel.state = .drive →
      ¬(s.travel.setpoint = 0 ∧ s.travel.wheelSpeed = 0) →
      raiseFactor r s = { s with
        reactions := s.reactions.set e (some { b with held := some r })
        travel := { s.travel with
          state := .stopping, demand := 0, causes := { s.travel.causes with stopTravel := true } } }) ∧
    (b.held = none → b.action = .stopTravel → s.travel.state = .stopping →
      raiseFactor r s = { s with
        reactions := s.reactions.set e (some { b with held := some r })
        travel := { s.travel with causes := { s.travel.causes with stopTravel := true } } }) ∧
    (∀ z, b.held = none → b.action = .forceZoneOff (some z) →
      raiseFactor r s = deliver r
        (some ⟨e, .forcedOff, (PerZone.all false).set z (!s.spray.forcedOff.get z)⟩)
        (evaluateZones { s with spray := { s.spray with forcedOff := s.spray.forcedOff.set z true } })) ∧
    (b.held = none → b.action = .forceZoneOff none →
      raiseFactor r s = deliver r (some ⟨e, .forcedOff, s.spray.forcedOff.map (!·)⟩)
        (evaluateZones { s with spray := { s.spray with forcedOff := .all true } })) ∧
    (∀ v, b.held = none → b.action = .capSpeed v →
      let capped := { s with travel := { s.travel with caps := s.travel.caps.set e (some v) } }
      ((v * 100 : Nat) < s.travel.setpoint → raiseFactor r s = { capped with
        reactions := s.reactions.set e (some { b with held := some r }), work := { s.work with ceiling := true } }) ∧
      (s.travel.setpoint ≤ (v * 100 : Nat) → workClear s → b.factor ≠ 12 →
        (∀ k : EntryNo, k ≠ e → s.reactions[k] = none) →
        let now := { capped with travel := { capped.travel with
          ceiling := capped.lowestSource.1, limiting := capped.lowestSource.2 } }
        event (fun raise => raise r) s = deliver r (some ⟨e, .reached, .all false⟩)
          (if capped.lowestSource.2 = s.travel.limiting then now
           else deliver ⟨.source capped.lowestSource.2, .ceilingChanged s.travel.limiting capped.lowestSource.1, s.time,
             .every none⟩ none now))) ∧
    (∀ x, b.held = none → b.action = .raiseArm x ∨ b.action = .haltArm x →
      (∀ k d q, k ≠ e → (s.arm x).reaction = some k → s.reactions[k] = some d → d.held = some q →
        raiseFactor r s = raiseFactor r (deliver q (some ⟨k, .superseded, .all false⟩) { s with
          reactions := s.reactions.set k (if d.enabled then some { d with held := none } else none)
          arms := s.arms.set x { s.arm x with reaction := none } })) ∧
      (∀ c p, s.profile.changeover = some c → c.pending.get x = some p →
        raiseFactor r s = raiseFactor r { s with profile := { s.profile with
          changeover := some { c with pending := c.pending.set x (some { p with overtaken := true }) } } })) ∧
    (∀ x, b.held = none → b.action = .raiseArm x → (s.arm x).reaction = none → s.involved x = false →
      let u := s.arm x
      let ready := s.liftItem? x ≠ none ∧ s.item? 9 ≠ none
      let held := s.reactions.set e (some { b with held := some r })
      (u.state = .stowed → raiseFactor r s = deliver r (some ⟨e, .stowed, .all false⟩) s) ∧
      (u.state = .fault → raiseFactor r s = deliver r (some ⟨e, .faulted, .all false⟩) s) ∧
      (u.state ≠ .stowed → u.state ≠ .fault → ¬ready →
        raiseFactor r s = deliver r (some ⟨e, .notCommissioned, .all false⟩) s) ∧
      (u.state = .raising → ready → raiseFactor r s = { s with
        reactions := held, arms := s.arms.set x { u with reaction := some e } }) ∧
      (u.state ≠ .stowed → u.state ≠ .fault → u.state ≠ .raising → ready → u.up = true →
        (∀ k : EntryNo, k ≠ e → s.reactions[k] = none) →
        ∃ t, raiseFactor r s = deliver r (some ⟨e, .stowed, .all false⟩) t ∧ t.reactions = s.reactions ∧
          t.attendance = s.attendance ∧ (t.arm x).state = .stowed ∧ (t.arm x).reaction = none ∧
          ∀ y, y ≠ x → (t.arm y).state = (s.arm y).state) ∧
      (u.state ≠ .stowed → u.state ≠ .fault → u.state ≠ .raising → ready → u.up = false →
        (raiseFactor r s).reactions = held ∧ (raiseFactor r s).notices = s.notices ∧
          let w := (raiseFactor r s).arm x
          w.state = .raising ∧ w.target = .stowed ∧ w.origin = .reaction ∧ w.reaction = some e ∧
          (u.state ≠ .lowering → w.settleTimer = .stopped ∧ w.pinnedTimer = .stopped) ∧
          ∀ y, y ≠ x → (raiseFactor r s).arm y = s.arm y)) ∧
    (∀ x, b.held = none → b.action = .haltArm x → (s.arm x).reaction = none → s.involved x = false →
      let u := s.arm x
      (u.state = .stowed → raiseFactor r s = deliver r (some ⟨e, .stowed, .all false⟩) s) ∧
      (u.state = .fault → raiseFactor r s = deliver r (some ⟨e, .faulted, .all false⟩) s) ∧
      (u.state = .halted → raiseFactor r s = deliver r (some ⟨e, .halted, .all false⟩) s) ∧
      (u.state ≠ .stowed → u.state ≠ .fault → u.state ≠ .halted →
        ∃ t, raiseFactor r s = deliver r (some ⟨e, .halted, .all false⟩) t ∧ t.reactions = s.reactions ∧
          t.notices = s.notices ∧ t.attendance = s.attendance ∧ (t.arm x).state = .halted ∧ (t.arm x).sub = .none ∧
          (t.arm x).origin = .none ∧ (t.arm x).liftPosted = false ∧ (t.arm x).motionTimer = .stopped ∧
          (t.arm x).liftDownOpen = false ∧ (t.arm x).liftUpOpen = false ∧ (t.arm x).force = 0 ∧ (t.arm x).rot = 0 ∧
          ∀ y, y ≠ x → t.arm y = s.arm y))) ∧
  (∀ (s : State) (e : EntryNo) (b : Binding) (r : Raise), s.reactions[e] = some b → b.held = some r →
    (∀ k : EntryNo, k ≠ e → s.reactions[k] = none) →
    let freed := s.reactions.set e (if b.enabled then some { b with held := none } else none)
    let reacted := fun (o : ActionOutcome) (t : State) => t.reactions = freed ∧ ∀ x, s.reaches r.audience x = true →
      (t.notices.get x).held[r.detail.factor] = some ⟨r.subject, r.detail, r.time, some ⟨e, o, .all false⟩⟩
    (∀ o zones, completeWith e o zones s = deliver r (some ⟨e, o, zones⟩) { s with reactions := freed }) ∧
    (∀ x, Quiet s → (s.arm x).reaction = some e → b.factor = r.detail.factor → b.factor ≠ 4 → b.factor ≠ 11 →
      b.factor ≠ 12 → b.factor ≠ 13 →
      ((s.arm x).state = .raising → (s.switches.input (.up x)).counter = .running 0 →
        (s.switches.input (.up x)).raw = true → (s.arm x).down = false →
        ∃ t, exec (.debounceExpiry (.up x)) s = .next t ∧ (t.arm x).state = .stowed ∧ (t.arm x).reaction = none ∧
          reacted .stowed t) ∧
      ((s.arm x).motionTimer = .running 0 →
        ∃ t, exec (.motionTimerExpiry x) s = .next t ∧ (t.arm x).state = .fault ∧ (t.arm x).reaction = none ∧
          reacted .faulted t)) ∧
    (Quiet s → s.travel.rampTimer = .running 0 →
      (b.action = .stopTravel → s.travel.state = .stopping → s.travel.wheelSpeed = 0 →
        rampStep s.travel.setpoint 0 (s.item 5) (s.item 6) = 0 →
        ∃ t, exec .rampTimerExpiry s = .next t ∧ t.travel.state ≠ .stopping ∧ reacted .stopped t) ∧
      (∀ v, b.action = .capSpeed v → s.travel.caps[e] = some v →
        ∃ t, exec .rampTimerExpiry s = .next t ∧ t.travel.caps = s.travel.caps ∧
          (t.travel.setpoint ≤ (v * 100 : Nat) → reacted .reached t) ∧
          ((v * 100 : Nat) < t.travel.setpoint → t.reactions = s.reactions ∧ t.notices = s.notices))))

/-- READ_NOTICES, ACK_FACTORS, SET_NOTICE_MASK and SET_MASTER_MASK: what each takes from, clears in or brings into the
sender's factor state (R169, R170, R171). -/
def Obligations.StationsReadAndMaskTheirNotices : Prop :=
  ∀ (l : Station) (tag : Byte) (ps : List Byte) (s : State),
    let v := s.notices.get l
    let becomes := fun (f : Form) (d : Payload) (w : StationNotices) =>
      { replied f l tag ps .ok d s with notices := s.notices.set l w }
    (Sent Form.readNotices l ps s → exec (.readNotices l tag ps) s = .next
      (becomes Form.readNotices (.notices (v.queue.length - 4) v.overflow (v.queue.take 4))
        { v with queue := v.queue.drop 4, overflow := false })) ∧
    (Sent Form.ackFactors l ps s → exec (.ackFactors l tag ps) s = .next
      (becomes Form.ackFactors .none { v with flags := v.flags &&& ~~~(factorSetAt ps) })) ∧
    (Sent Form.setNoticeMask l ps s → v.queue.length ≤ 16 → exec (.setNoticeMask l tag ps) s = .next
      (becomes Form.setNoticeMask .none ({ v with masks := factorSetAt ps }.withDeferred
        (if v.master then [] else deferredFor v fun k => v.masks.getLsbD k && !(factorSetAt ps).getLsbD k)))) ∧
    (Sent Form.setMasterMask l ps s → v.queue.length ≤ 16 →
      (1 < byteAt ps 0 →
        exec (.setMasterMask l tag ps) s = .next (replied Form.setMasterMask l tag ps .badParam .none s)) ∧
      (byteAt ps 0 = 1 →
        exec (.setMasterMask l tag ps) s = .next (becomes Form.setMasterMask .none { v with master := true })) ∧
      (byteAt ps 0 = 0 → v.master = false →
        exec (.setMasterMask l tag ps) s = .next (becomes Form.setMasterMask .none v)) ∧
      (byteAt ps 0 = 0 → v.master = true →
        exec (.setMasterMask l tag ps) s = .next (becomes Form.setMasterMask .none
          ({ v with master := false }.withDeferred (deferredFor v fun k => !v.masks.getLsbD k)))))

/-- BIND_REACTION and UNBIND_REACTION: the tests in order, the entry bound with its installer, and what unbinding leaves
of an entry by its in-flight mark (R174, R175, R177, R188). -/
def Obligations.ReactionsAreBoundAndUnbound : Prop :=
  (∀ (l : Station) (ps : List Byte) (e : EntryNo) (b : Binding), bindingOf l ps = some (e, b) ↔
    e.val = byteAt ps 0 ∧ b.factor.val = byteAt ps 1 ∧ b.installer = l ∧ b.enabled = true ∧ b.held = none ∧
    (byteAt ps 2 = 0 ∧ b.filter = .any ∨
      (∃ a, b.filter = .arm a ∧ byteAt ps 2 = a.number + 1 ∧ 5 ≤ byteAt ps 1 ∧ byteAt ps 1 ≤ 9) ∨
      (∃ n, b.filter = .level n ∧ byteAt ps 2 = n ∧ 1 ≤ n ∧ n ≤ 3 ∧ byteAt ps 1 = 13) ∨
      ∃ z, b.filter = .zone z ∧ byteAt ps 2 = z.number + 1 ∧ byteAt ps 1 = 18) ∧
    ((∃ a, b.action = .raiseArm a ∧ byteAt ps 3 = 0 ∧ wordAt ps 4 = a.number) ∨
      (∃ a, b.action = .haltArm a ∧ byteAt ps 3 = 1 ∧ wordAt ps 4 = a.number) ∨
      (b.action = .forceZoneOff none ∧ byteAt ps 3 = 2 ∧ wordAt ps 4 = 4) ∨
      (∃ z, b.action = .forceZoneOff (some z) ∧ byteAt ps 3 = 2 ∧ wordAt ps 4 = z.number) ∨
      (b.action = .capSpeed (wordAt ps 4) ∧ byteAt ps 3 = 3 ∧ wordAt ps 4 ≤ 250) ∨
      (b.action = .stopTravel ∧ byteAt ps 3 = 4 ∧ wordAt ps 4 = 0))) ∧
  (∀ (l : Station) (tag : Byte) (ps : List Byte) (s : State), Sent Form.bindReaction l ps s →
    (bindingOf l ps = none →
      exec (.bindReaction l tag ps) s = .next (replied Form.bindReaction l tag ps .badParam .none s)) ∧
    ∀ e b, bindingOf l ps = some (e, b) →
      (s.profile.changeover ≠ none ∨ s.reactions[e] ≠ none →
        exec (.bindReaction l tag ps) s = .next (replied Form.bindReaction l tag ps .refusedBusy .none s)) ∧
      (s.profile.changeover = none → s.reactions[e] = none →
        exec (.bindReaction l tag ps) s = .next { replied Form.bindReaction l tag ps .ok .none s with
          reactions := s.reactions.set e (some b) })) ∧
  (∀ (l : Station) (tag : Byte) (ps : List Byte) (s : State), Sent Form.unbindReaction l ps s → Quiet s →
    (8 ≤ byteAt ps 0 →
      exec (.unbindReaction l tag ps) s = .next (replied Form.unbindReaction l tag ps .badParam .none s)) ∧
    ∀ e : EntryNo, e.val = byteAt ps 0 →
      (s.reactions[e] = none ∨ (∃ b, s.reactions[e] = some b ∧ b.enabled = false) →
        exec (.unbindReaction l tag ps) s = .next (replied Form.unbindReaction l tag ps .refusedState .none s)) ∧
      ∀ b, s.reactions[e] = some b → b.enabled = true →
        (b.installer ≠ l → l ≠ .c →
          exec (.unbindReaction l tag ps) s = .next (replied Form.unbindReaction l tag ps .refusedRole .none s)) ∧
        (b.installer = l ∨ l = .c →
          ∃ t, exec (.unbindReaction l tag ps) s = .next t ∧
            Served Form.unbindReaction l tag ps .ok .none s t ∧
            (b.held = none → t.reactions[e] = none) ∧
            ((∀ v, b.action ≠ .capSpeed v) → t = { replied Form.unbindReaction l tag ps .ok .none s with
              reactions := s.reactions.set e (if b.held.isSome then some { b with enabled := false } else none) }) ∧
            (∀ v, b.action = .capSpeed v → t.reactions[e] = none ∧
              ((∀ k : EntryNo, k ≠ e → s.reactions[k] = none) → t.travel.caps[e] = none))))

/-! ## Commissioning, safe stop, part reset -/

/-- COMMISSION_SET: the ranges of R179's table; a value outside is BAD_PARAM, a written item FIXED, else the item takes
the value, and a capacity item brings the capacity (R153, R179).
That items 1 to 18 and 24 to 35 recompute nothing at once is the model's reading (log entry 35). -/
def Obligations.CommissionSetWritesOneItem : Prop :=
  (∀ x ∈ [(1, 1, 1000), (2, 50, 250), (3, 10, 60), (4, 50, 300), (5, 5, 50), (6, 5, 80), (7, 20, 80), (10, 50, 250),
      (11, 1, 60), (12, 1, 60), (13, 300, 3000), (14, 2000, 30000), (15, 1, 40), (16, 1, 40), (17, 1, 40), (18, 1, 40),
      (19, 1, 127), (20, 0, 127), (21, 800, 3000), (22, 100, 4000), (23, 10, 1000), (24, 1, 1000), (25, 0, 100),
      (26, 0, 100), (27, 0, 100), (28, 0, 100), (29, 1000, 10000), (30, 20, 250)],
    ∀ v, itemRange x.1 v = true ↔ x.2.1 ≤ v ∧ v ≤ x.2.2) ∧
  (∀ k, k = 8 ∨ k = 9 → ∀ v, itemRange k v = true ↔ 500 ≤ v ∧ v ≤ 8000 ∧ 100 ∣ v) ∧
  (∀ k, 31 ≤ k → k ≤ 35 → ∀ v, itemRange k v = true ↔ v = 50 ∨ v = 100 ∨ v = 200) ∧
  (∀ (l : Station) (tag : Byte) (ps : List Byte) (s : State), Sent Form.commissionSet l ps s → Quiet s →
    let k := byteAt ps 0
    let v := wordAt ps 1
    (itemRange k v = false →
      exec (.commissionSet l tag ps) s = .next (replied Form.commissionSet l tag ps .badParam .none s)) ∧
    (itemRange k v = true → s.item? k ≠ none →
      exec (.commissionSet l tag ps) s = .next (replied Form.commissionSet l tag ps .fixed .none s)) ∧
    (itemRange k v = true → s.item? k = none →
      let u := { replied Form.commissionSet l tag ps .ok .none s with
        supervision := { s.supervision with items := s.supervision.items.setIfInBounds (k - 1) (some v) } }
      ∃ t, exec (.commissionSet l tag ps) s = .next t ∧ Untouched u t ∧ t.capture = s.capture ∧
        t.switches = s.switches ∧ t.item? k = some v ∧ (∀ j, j ≠ k → t.item? j = s.item? j) ∧
        (k < 19 ∨ 23 < k → t = u) ∧
        (k = 19 ∨ k = 20 ∨ k = 21 → NoReactions s → t.flow.capacity =
          match s.flow.mark with
          | .fresh => t.item 19 * min (s.flow.lastEngine.getD 0) (t.item 21) / t.item 21
          | .stale => t.item 20) ∧
        (k = 22 ∨ k = 23 → NoReactions s → t.water.estimate = s.water.estimate ∧ t.water.state =
          if s.water.dryLatch = true ∨ s.water.estimate = 0 then .empty
          else if t.item 23 < s.water.estimate ∧ s.water.low = false then .ample else .reserve)))

/-- COMMISSION_COMMIT: the five checks in order, the first that fails given; then the committed flag, OPERATIONAL, and
the TG told (R178, R180). -/
def Obligations.CommissionCommitCloses : Prop :=
  ∀ (l : Station) (tag : Byte) (s : State), Sent Form.commissionCommit l [] s → Quiet s →
    let fails := fun n k => exec (.commissionCommit l tag []) s =
      .next (replied Form.commissionCommit l tag [] .refusedState (.failedCheck n k) s)
    (s.supervision.mode ≠ .commissioning → exec (.commissionCommit l tag []) s =
      .next (replied Form.commissionCommit l tag [] .refusedState (.reason .committed) s)) ∧
    (s.supervision.mode = .commissioning →
      (∀ k, 1 ≤ k → k ≤ 35 → s.item? k = none → (∀ j, 1 ≤ j → j < k → s.item? j ≠ none) → fails 1 k) ∧
      ((∀ k, 1 ≤ k → k ≤ 35 → s.item? k ≠ none) →
        (s.item 19 < s.item 20 → fails 2 0) ∧
        (s.item 20 ≤ s.item 19 → s.item 22 ≤ s.item 23 → fails 3 0) ∧
        (s.item 20 ≤ s.item 19 → s.item 23 < s.item 22 → s.item 2 < s.item 7 → fails 4 0) ∧
        (s.item 20 ≤ s.item 19 → s.item 23 < s.item 22 → s.item 7 ≤ s.item 2 → s.item 2 < s.item 30 → fails 5 0) ∧
        (s.item 20 ≤ s.item 19 → s.item 23 < s.item 22 → s.item 7 ≤ s.item 2 → s.item 30 ≤ s.item 2 →
          ∃ t, exec (.commissionCommit l tag []) s = .next t ∧
            t.supervision.mode = .operational ∧ t.supervision.committed = true ∧
            t.supervision.items = s.supervision.items ∧ t.time = s.time ∧ t.pending = s.pending ∧
            t.clock = s.clock ∧ t.claims = s.claims ∧ t.profile.draft = s.profile.draft ∧
            t.links = linksAfter Form.commissionCommit l tag [] .ok .none s ∧ t.attendance = unprepared l s ∧
            (NoReactions s → Ended { replied Form.commissionCommit l tag [] .ok .none s with
              supervision := { s.supervision with mode := .operational, committed := true }
              travel := { s.travel with committed := true } } t ∧ t.travel.ceiling = s.lowestSource.1))))

/-- SAFE_STOP: the cause is added, SAFE_STOP_ENTERED raised and safe stop in force, and the TG told of the cause; where it
was not in force, the changeover is cut short, with its slots, the values in force and CHANGEOVER_DONE, the spray valves
close, each arm takes a stow order, and the TG stops (R44, R63, R64, R67, R96, R97, R125, R181, R182). -/
def Obligations.SafeStopTakesHold : Prop :=
  ∀ (l : Station) (tag : Byte) (s : State), Sent Form.safeStop l [] s → Quiet s →
    ∃ t, exec (.safeStop l tag []) s = .next t ∧ Served Form.safeStop l tag [] .ok .none s t ∧
      t.supervision.safeStop = true ∧ t.supervision.causes = { s.supervision.causes with request := true } ∧
      (s.supervision.safeStop = false →
        t.profile.changeover = none ∧ t.travel.safeStop = true ∧ t.spray.safeStop = true ∧
        (∀ z, t.spray.valves.get z = false) ∧
        ((∀ a, (s.arm a).state = .lowering → s.liftItem? a ≠ none ∧ s.item? 9 ≠ none) →
          ∀ a, (t.arm a).state ≠ .lowering) ∧
        (s.travel.state = .parked → t.travel.state = .parked) ∧
        (NoReactions s → (∀ a, (s.arm a).Ordered (s.liftItem? a ≠ none ∧ s.item? 9 ≠ none) (t.arm a)) ∧
          (s.profile.changeover = none → t.profile = s.profile) ∧
          ∀ c, s.profile.changeover = some c → ChangeoverEnds c.kind .safeStop c.degraded s.slot s t)) ∧
      (NoReactions s → s.travel.TakesCause (fun c => { c with safeStop := true }) t.travel ∧
        (s.supervision.safeStop = true → t.arms = s.arms ∧ t.spray = s.spray ∧ t.profile = s.profile) ∧
        ∀ x, s.attends x = true → (t.notices.get x).held[(19 : Fin 24)] = some ⟨.cause .request,
          .safeStopEntered { s.supervision.causes with request := true } s.supervision.safeStop, s.time, none⟩)

/-- RESUME: the five tests in order, each with its reason; then the causes emptied, SAFE_STOP_LEFT raised, safe stop ended,
the zones freed, and a REAPPLY of the ACTIVE slot with its values in force, which stands until each arm is at its target and
then ends (R44, R45, R58 to R60, R63, R67, R183). -/
def Obligations.ResumeEndsSafeStop : Prop :=
  ∀ (l : Station) (tag : Byte) (s : State), Sent Form.resume l [] s → workClear s →
    let refused := fun r => exec (.resume l tag []) s =
      .next (replied Form.resume l tag [] .refusedState (.reason r) s)
    (s.supervision.safeStop = false → refused .notInSafeStop) ∧
    (s.supervision.safeStop = true → s.clock.verdict = .lost → refused .clockFault) ∧
    (s.supervision.safeStop = true → s.clock.verdict = .sound → s.supervision.pendingReset ≠ none →
      refused .resetPending) ∧
    (s.supervision.safeStop = true → s.clock.verdict = .sound → s.supervision.pendingReset = none →
      s.switches.seat.level = false → refused .seat) ∧
    (s.supervision.safeStop = true → s.clock.verdict = .sound → s.supervision.pendingReset = none →
      s.switches.seat.level = true → s.travel.state ≠ .parked → refused .notParked) ∧
    (s.supervision.safeStop = true → s.clock.verdict = .sound → s.supervision.pendingReset = none →
      s.switches.seat.level = true → s.travel.state = .parked →
      ∃ t, exec (.resume l tag []) s = .next t ∧ Served Form.resume l tag [] .ok .none s t ∧
        t.supervision.safeStop = false ∧ t.supervision.causes = SafeCauses.empty ∧
        t.travel.safeStop = false ∧ t.spray.safeStop = false ∧ t.travel.state = .parked ∧
        (s.profile.idle → s.profile.changeover = none → t.profile.changeover = none) ∧
        (∀ n, s.slotUsed .active = some n → s.profile.changeover = none → s.profile.storeOk → ∀ c, t.profile.changeover = some c →
          c.kind = .reapply ∧ c.fromSlot = none ∧ c.toSlot = some n ∧ c.start = s.time) ∧
        (NoReactions s →
          (∀ n r, s.slotUsed .active = some n → s.slot n = .held .active r → s.profile.changeover = none →
            ChangesTo .reapply none (some n) r.arms s t ∧
            ChangeoverGoes .reapply false s.slot r.ceiling (some r) s t) ∧
          ∀ x, s.attends x = true → (t.notices.get x).held[(20 : Fin 24)] =
            some ⟨.none, .safeStopLeft s.supervision.causes, s.time, none⟩))

/-- RESET_PART and SETTLED_RESET_TIMER_EXPIRY: IMMEDIATE resets at the frame end; SETTLED is REFUSED_BUSY while one is
pending, else the TG stops and each arm takes a stow order, and the reset is taken at once where all is then at rest, else
pending until the report that completes the test; the timer's expiry resets with SETTLE_TIMEOUT (R13, R96, R97, R125, R184
to R187). -/
def Obligations.RequestedResets : Prop :=
  ∀ (l : Station) (tag : Byte) (s : State),
    (Sent Form.resetPart l [0] s → workClear s →
      ∃ t, exec (.resetPartImmediate l tag [0]) s = .next t ∧ AfterRequest none s t) ∧
    (Sent Form.resetPart l [1] s → workClear s →
      (s.supervision.pendingReset ≠ none → exec (.resetPartSettled l tag [1]) s =
        .next (replied Form.resetPart l tag [1] .refusedBusy .none s)) ∧
      (s.supervision.pendingReset = none → s.travel.state = .parked →
        (∀ a, s.supervision.armDone.get a = true ∧ ((s.arm a).state = .stowed ∨ (s.arm a).state = .fault)) →
        ∃ t, exec (.resetPartSettled l tag [1]) s = .next t ∧ AfterRequest (some false) s t) ∧
      (s.supervision.pendingReset = none → NoReactions s → (∀ a, copyOk .supervision a s) →
        let ready := fun a => s.liftItem? a ≠ none ∧ s.item? 9 ≠ none
        let rests := s.travel.state = .parked ∨
          (s.travel.state = .hold ∨ s.travel.state = .drive) ∧ s.travel.setpoint = 0 ∧ s.travel.wheelSpeed = 0
        let done := ∀ a, (s.arm a).state = .stowed ∨ (s.arm a).state = .fault ∨
          (s.arm a).state ≠ .raising ∧ (s.arm a).up = true ∧ ready a
        (rests ∧ done → ∃ t, exec (.resetPartSettled l tag [1]) s = .next t ∧ AfterRequest (some false) s t) ∧
        (¬(rests ∧ done) → ∃ t, exec (.resetPartSettled l tag [1]) s = .next t ∧
          Served Form.resetPart l tag [1] .accepted .none s t ∧
          t.supervision.pendingReset = some l ∧ t.supervision.settledTimer = .running 15000 ∧
          t.travel.resetPending = true ∧
          s.travel.TakesCause (fun c => { c with resetPending := true }) t.travel ∧
          ∀ a, (s.arm a).Ordered (ready a) (t.arm a)))) ∧
    (workClear s → NoReactions s → s.supervision.pendingReset ≠ none →
      (s.travel.state = .parked → ∀ a, (s.arm a).state = .raising →
        (∀ b, b ≠ a → s.supervision.armDone.get b = true) →
        ((s.switches.input (.up a)).counter = .running 0 → (s.switches.input (.up a)).raw = true →
          ∃ t, exec (.debounceExpiry (.up a)) s = .next t ∧ AfterRequest (some false) s t) ∧
        ((s.arm a).motionTimer = .running 0 →
          ∃ t, exec (.motionTimerExpiry a) s = .next t ∧ AfterRequest (some false) s t)) ∧
      (s.travel.state = .stopping → s.travel.resetPending = true →
        (∀ a, s.supervision.armDone.get a = true) →
        (s.travel.rampTimer = .running 0 → s.travel.wheelSpeed = 0 →
          rampStep s.travel.setpoint 0 (s.item 5) (s.item 6) = 0 →
          ∃ t, exec .rampTimerExpiry s = .next t ∧ AfterRequest (some false) s t) ∧
        (s.capture.wheel.timer = .running 0 → s.travel.setpoint = 0 → s.capture.wheel.counter = 0 →
          s.capture.wheel.newest = 0 → s.capture.wheel.newer = 0 → s.capture.wheel.older = 0 →
          (∀ a, s.water.armDown.get a = false) →
          ∃ t, exec (.gateExpiry .wheel) s = .next t ∧ AfterRequest (some false) s t))) ∧
    (∀ p, 2 ≤ byteAt [p] 0 → Sent Form.resetPart l [p] s → workClear s →
      exec (.resetPartImmediate l tag [p]) s = .next (replied Form.resetPart l tag [p] .badParam .none s) ∧
      exec (.resetPartSettled l tag [p]) s = .next (replied Form.resetPart l tag [p] .badParam .none s)) ∧
    (s.supervision.settledTimer = .running 0 →
      ∃ t, exec .settledResetTimerExpiry s = .next t ∧ AfterRequest (some true) s t)

/-- The reads are answered OK with the state as it stands, item by item, and change nothing; READ_RESET_CAUSE empties the
sender's own record; a profile selector outside the slots and DRAFT is BAD_PARAM (R37, R54, R68, R109, R133, R151, R152,
R164, R175, R180, R187). That the ramp target is 0 in PARKED, that the stored ceiling is read, and that the direction is
that of the last WHEEL pulse are the model's readings (log entries 23, 35, 39); that a FLOW source not in force shows the value
0 is its choice (log entry 46). -/
def Obligations.ReadsAnswerTheState : Prop :=
  ∀ (l : Station) (tag : Byte) (ps : List Byte) (s : State),
    (∀ g, Sent Form.readClaim l ps s → groupOf (byteAt ps 0) = some g → exec (.readClaim l tag ps) s =
      .next (replied Form.readClaim l tag ps .ok (.claim (s.claims.get g)) s)) ∧
    (Sent Form.readProfile l ps s →
      (∀ n : SlotNo, n.val = byteAt ps 0 → exec (.readProfile l tag ps) s =
        .next (replied Form.readProfile l tag ps .ok (.slot (s.slot n)) s)) ∧
      (byteAt ps 0 = 0xFE → exec (.readProfile l tag ps) s =
        .next (replied Form.readProfile l tag ps .ok (.draft s.profile.draft) s)) ∧
      (8 ≤ byteAt ps 0 → byteAt ps 0 ≠ 0xFE → exec (.readProfile l tag ps) s =
        .next (replied Form.readProfile l tag ps .badParam .none s))) ∧
    (Sent Form.readChangeover l ps s →
      (∀ c, s.profile.changeover = some c → exec (.readChangeover l tag ps) s =
        .next (replied Form.readChangeover l tag ps .ok (.changeover c) s)) ∧
      (s.profile.changeover = none → exec (.readChangeover l tag ps) s =
        .next (replied Form.readChangeover l tag ps .ok (.noChangeover (s.slotUsed .active)) s))) ∧
    (Sent Form.readTravel l ps s →
      let g := s.travel
      let reverse : Nat := if g.reverseOpen then s.item 3 else 0
      ∃ v : TravelView, exec (.readTravel l tag ps) s = .next (replied Form.readTravel l tag ps .ok (.travel v) s) ∧
        v.state = g.state ∧ v.causes = g.causes ∧ v.demand = g.demand ∧
        v.target = (if g.state = .drive then
          (if 0 ≤ g.demand then min g.demand g.ceiling else max g.demand (-(reverse : Int))) else 0) ∧
        v.setpoint = g.setpoint.tdiv 100 ∧ v.trim = g.trim.tdiv 100 ∧ v.ceiling = g.ceiling ∧ v.limiting = g.limiting ∧
        (v.cap.inForce = true ↔ ∃ e : EntryNo, g.caps[e] ≠ none) ∧
        (v.cap.inForce = true → (∃ e : EntryNo, g.caps[e] = some v.cap.value) ∧
          ∀ (e : EntryNo) c, g.caps[e] = some c → v.cap.value ≤ c) ∧
        (∀ e : EntryNo, v.capEntries[e] = g.caps[e].isSome) ∧
        v.dry = ⟨g.waterEmpty && !g.zonesEmpty, s.item 30⟩ ∧
        v.flow = ⟨g.flowCeiling.isSome, g.flowCeiling.getD 0⟩ ∧
        v.armMotion = ⟨g.armMoving.l || g.armMoving.r || g.armMoving.c, s.item 7⟩ ∧
        v.maximum = ⟨true, s.item 2⟩ ∧
        v.profile = ⟨true, match g.profileLimit with
          | .maximum => s.item 2
          | .fixed c => c
          | .lowerOfMaximum c => min c (s.item 2)⟩ ∧
        v.releaseTimer = g.releaseTimer ∧ v.reverseCeiling = reverse ∧ v.overspeedTimer = g.overspeedTimer ∧
        v.wheelSpeed = g.wheelSpeed ∧ v.direction = s.capture.direction ∧ v.seat = g.seat ∧ v.forward = g.forward ∧
        v.reverse = g.reverse ∧ v.brakeDriven = g.brakeDriven) ∧
    (∀ a, Sent Form.readArm l ps s → armOf (byteAt ps 0) = some a →
      let u := s.arm a
      exec (.readArm l tag ps) s = .next (replied Form.readArm l tag ps .ok (.arm ⟨u.state, u.sub, u.target, u.origin,
        u.fault, u.motionTimer, u.settleTimer, u.pinnedTimer, u.stallTimer, u.rotTarget, u.rotDemand, u.rotGrant,
        u.liftPosted, u.liftGrant, u.reaction, u.level, u.brushSpeed, u.up, u.down, u.contact, u.liftDownOpen,
        u.liftUpOpen, u.force, u.rot⟩) s)) ∧
    (Sent Form.readSpray l ps s →
      let v := s.spray
      exec (.readSpray l tag ps) s = .next (replied Form.readSpray l tag ps .ok (.spray ⟨v.zones, v.forcedOff, v.duty,
        v.valves, v.frost, v.waterState, v.safeStop, v.dwell, v.dwellTimer, v.dwellDelay, v.zoneSet, v.reserve,
        v.pumpDuty, v.pumpDemand, v.pumpGrant, v.pumpOut, v.dryRunTimer⟩) s)) ∧
    (Sent Form.readWater l ps s → exec (.readWater l tag ps) s =
      .next (replied Form.readWater l tag ps .ok (.water ⟨s.water.estimate, s.water.pulses, s.water.state,
        s.water.dryLatch, s.water.dispensed, s.water.swept, s.water.low, s.water.full, s.capture.waterFlow⟩) s)) ∧
    (Sent Form.readFlow l ps s → exec (.readFlow l tag ps) s =
      .next (replied Form.readFlow l tag ps .ok
        (.flow ⟨s.flow, s.travel.flowCeiling, s.travel.releaseTimer⟩) s)) ∧
    (Sent Form.readReactions l ps s → exec (.readReactions l tag ps) s =
      .next (replied Form.readReactions l tag ps .ok (.reactions s.reactions) s)) ∧
    (Sent Form.readCommission l ps s →
      (byteAt ps 0 = 0 → exec (.readCommission l tag ps) s =
        .next (replied Form.readCommission l tag ps .ok (.partStatus ⟨s.supervision.mode, s.supervision.committed,
          s.supervision.safeStop, s.supervision.causes, s.supervision.pendingReset, s.supervision.settledTimer,
          s.clock.verdict⟩) s)) ∧
      (byteAt ps 0 ≠ 0 → exec (.readCommission l tag ps) s =
        .next (replied Form.readCommission l tag ps .ok (.item (s.item? (byteAt ps 0))) s))) ∧
    (Sent Form.readResetCause l ps s → exec (.readResetCause l tag ps) s =
      .next { replied Form.readResetCause l tag ps .ok (.resetCauses (s.supervision.resetCauses.get l)) s with
        supervision := { s.supervision with
          resetCauses := s.supervision.resetCauses.set l ⟨false, false, false, false, false⟩ } })

end
end

