-- ==== Sys2Proof/Laws/State.lean ====
section
/-! SUPPORT. One lemma for each field of State under each update of Machine/Ops.lean, each true by rfl, and the
laws of the indexed records. -/

namespace Sys2Proof.Machine

set_option Elab.async false

@[simp] theorem State.modClock_pending (s : State) (f : Clock → Clock) : (s.modClock f).pending = s.pending := rfl
@[simp] theorem State.modClock_time (s : State) (f : Clock → Clock) : (s.modClock f).time = s.time := rfl
@[simp] theorem State.modClock_clock (s : State) (f : Clock → Clock) : (s.modClock f).clock = f s.clock := rfl
@[simp] theorem State.modClock_links (s : State) (f : Clock → Clock) : (s.modClock f).links = s.links := rfl
@[simp] theorem State.modClock_attendance (s : State) (f : Clock → Clock) : (s.modClock f).attendance = s.attendance := rfl
@[simp] theorem State.modClock_claims (s : State) (f : Clock → Clock) : (s.modClock f).claims = s.claims := rfl
@[simp] theorem State.modClock_profile (s : State) (f : Clock → Clock) : (s.modClock f).profile = s.profile := rfl
@[simp] theorem State.modClock_capture (s : State) (f : Clock → Clock) : (s.modClock f).capture = s.capture := rfl
@[simp] theorem State.modClock_switches (s : State) (f : Clock → Clock) : (s.modClock f).switches = s.switches := rfl
@[simp] theorem State.modClock_travel (s : State) (f : Clock → Clock) : (s.modClock f).travel = s.travel := rfl
@[simp] theorem State.modClock_arms (s : State) (f : Clock → Clock) : (s.modClock f).arms = s.arms := rfl
@[simp] theorem State.modClock_spray (s : State) (f : Clock → Clock) : (s.modClock f).spray = s.spray := rfl
@[simp] theorem State.modClock_water (s : State) (f : Clock → Clock) : (s.modClock f).water = s.water := rfl
@[simp] theorem State.modClock_flow (s : State) (f : Clock → Clock) : (s.modClock f).flow = s.flow := rfl
@[simp] theorem State.modClock_notices (s : State) (f : Clock → Clock) : (s.modClock f).notices = s.notices := rfl
@[simp] theorem State.modClock_reactions (s : State) (f : Clock → Clock) : (s.modClock f).reactions = s.reactions := rfl
@[simp] theorem State.modClock_supervision (s : State) (f : Clock → Clock) : (s.modClock f).supervision = s.supervision := rfl
@[simp] theorem State.modClock_work (s : State) (f : Clock → Clock) : (s.modClock f).work = s.work := rfl
@[simp] theorem State.modClock_freeCount (s : State) (f : Clock → Clock) : (s.modClock f).freeCount = s.freeCount := rfl

@[simp] theorem State.modLinks_pending (s : State) (f : PerStation Link → PerStation Link) : (s.modLinks f).pending = s.pending := rfl
@[simp] theorem State.modLinks_time (s : State) (f : PerStation Link → PerStation Link) : (s.modLinks f).time = s.time := rfl
@[simp] theorem State.modLinks_clock (s : State) (f : PerStation Link → PerStation Link) : (s.modLinks f).clock = s.clock := rfl
@[simp] theorem State.modLinks_links (s : State) (f : PerStation Link → PerStation Link) : (s.modLinks f).links = f s.links := rfl
@[simp] theorem State.modLinks_attendance (s : State) (f : PerStation Link → PerStation Link) : (s.modLinks f).attendance = s.attendance := rfl
@[simp] theorem State.modLinks_claims (s : State) (f : PerStation Link → PerStation Link) : (s.modLinks f).claims = s.claims := rfl
@[simp] theorem State.modLinks_profile (s : State) (f : PerStation Link → PerStation Link) : (s.modLinks f).profile = s.profile := rfl
@[simp] theorem State.modLinks_capture (s : State) (f : PerStation Link → PerStation Link) : (s.modLinks f).capture = s.capture := rfl
@[simp] theorem State.modLinks_switches (s : State) (f : PerStation Link → PerStation Link) : (s.modLinks f).switches = s.switches := rfl
@[simp] theorem State.modLinks_travel (s : State) (f : PerStation Link → PerStation Link) : (s.modLinks f).travel = s.travel := rfl
@[simp] theorem State.modLinks_arms (s : State) (f : PerStation Link → PerStation Link) : (s.modLinks f).arms = s.arms := rfl
@[simp] theorem State.modLinks_spray (s : State) (f : PerStation Link → PerStation Link) : (s.modLinks f).spray = s.spray := rfl
@[simp] theorem State.modLinks_water (s : State) (f : PerStation Link → PerStation Link) : (s.modLinks f).water = s.water := rfl
@[simp] theorem State.modLinks_flow (s : State) (f : PerStation Link → PerStation Link) : (s.modLinks f).flow = s.flow := rfl
@[simp] theorem State.modLinks_notices (s : State) (f : PerStation Link → PerStation Link) : (s.modLinks f).notices = s.notices := rfl
@[simp] theorem State.modLinks_reactions (s : State) (f : PerStation Link → PerStation Link) : (s.modLinks f).reactions = s.reactions := rfl
@[simp] theorem State.modLinks_supervision (s : State) (f : PerStation Link → PerStation Link) : (s.modLinks f).supervision = s.supervision := rfl
@[simp] theorem State.modLinks_work (s : State) (f : PerStation Link → PerStation Link) : (s.modLinks f).work = s.work := rfl
@[simp] theorem State.modLinks_freeCount (s : State) (f : PerStation Link → PerStation Link) : (s.modLinks f).freeCount = s.freeCount := rfl

@[simp] theorem State.modAttendance_pending (s : State) (f : PerStation Attendance → PerStation Attendance) : (s.modAttendance f).pending = s.pending := rfl
@[simp] theorem State.modAttendance_time (s : State) (f : PerStation Attendance → PerStation Attendance) : (s.modAttendance f).time = s.time := rfl
@[simp] theorem State.modAttendance_clock (s : State) (f : PerStation Attendance → PerStation Attendance) : (s.modAttendance f).clock = s.clock := rfl
@[simp] theorem State.modAttendance_links (s : State) (f : PerStation Attendance → PerStation Attendance) : (s.modAttendance f).links = s.links := rfl
@[simp] theorem State.modAttendance_attendance (s : State) (f : PerStation Attendance → PerStation Attendance) : (s.modAttendance f).attendance = f s.attendance := rfl
@[simp] theorem State.modAttendance_claims (s : State) (f : PerStation Attendance → PerStation Attendance) : (s.modAttendance f).claims = s.claims := rfl
@[simp] theorem State.modAttendance_profile (s : State) (f : PerStation Attendance → PerStation Attendance) : (s.modAttendance f).profile = s.profile := rfl
@[simp] theorem State.modAttendance_capture (s : State) (f : PerStation Attendance → PerStation Attendance) : (s.modAttendance f).capture = s.capture := rfl
@[simp] theorem State.modAttendance_switches (s : State) (f : PerStation Attendance → PerStation Attendance) : (s.modAttendance f).switches = s.switches := rfl
@[simp] theorem State.modAttendance_travel (s : State) (f : PerStation Attendance → PerStation Attendance) : (s.modAttendance f).travel = s.travel := rfl
@[simp] theorem State.modAttendance_arms (s : State) (f : PerStation Attendance → PerStation Attendance) : (s.modAttendance f).arms = s.arms := rfl
@[simp] theorem State.modAttendance_spray (s : State) (f : PerStation Attendance → PerStation Attendance) : (s.modAttendance f).spray = s.spray := rfl
@[simp] theorem State.modAttendance_water (s : State) (f : PerStation Attendance → PerStation Attendance) : (s.modAttendance f).water = s.water := rfl
@[simp] theorem State.modAttendance_flow (s : State) (f : PerStation Attendance → PerStation Attendance) : (s.modAttendance f).flow = s.flow := rfl
@[simp] theorem State.modAttendance_notices (s : State) (f : PerStation Attendance → PerStation Attendance) : (s.modAttendance f).notices = s.notices := rfl
@[simp] theorem State.modAttendance_reactions (s : State) (f : PerStation Attendance → PerStation Attendance) : (s.modAttendance f).reactions = s.reactions := rfl
@[simp] theorem State.modAttendance_supervision (s : State) (f : PerStation Attendance → PerStation Attendance) : (s.modAttendance f).supervision = s.supervision := rfl
@[simp] theorem State.modAttendance_work (s : State) (f : PerStation Attendance → PerStation Attendance) : (s.modAttendance f).work = s.work := rfl
@[simp] theorem State.modAttendance_freeCount (s : State) (f : PerStation Attendance → PerStation Attendance) : (s.modAttendance f).freeCount = s.freeCount := rfl

@[simp] theorem State.modClaims_pending (s : State) (f : PerGroup Claim → PerGroup Claim) : (s.modClaims f).pending = s.pending := rfl
@[simp] theorem State.modClaims_time (s : State) (f : PerGroup Claim → PerGroup Claim) : (s.modClaims f).time = s.time := rfl
@[simp] theorem State.modClaims_clock (s : State) (f : PerGroup Claim → PerGroup Claim) : (s.modClaims f).clock = s.clock := rfl
@[simp] theorem State.modClaims_links (s : State) (f : PerGroup Claim → PerGroup Claim) : (s.modClaims f).links = s.links := rfl
@[simp] theorem State.modClaims_attendance (s : State) (f : PerGroup Claim → PerGroup Claim) : (s.modClaims f).attendance = s.attendance := rfl
@[simp] theorem State.modClaims_claims (s : State) (f : PerGroup Claim → PerGroup Claim) : (s.modClaims f).claims = f s.claims := rfl
@[simp] theorem State.modClaims_profile (s : State) (f : PerGroup Claim → PerGroup Claim) : (s.modClaims f).profile = s.profile := rfl
@[simp] theorem State.modClaims_capture (s : State) (f : PerGroup Claim → PerGroup Claim) : (s.modClaims f).capture = s.capture := rfl
@[simp] theorem State.modClaims_switches (s : State) (f : PerGroup Claim → PerGroup Claim) : (s.modClaims f).switches = s.switches := rfl
@[simp] theorem State.modClaims_travel (s : State) (f : PerGroup Claim → PerGroup Claim) : (s.modClaims f).travel = s.travel := rfl
@[simp] theorem State.modClaims_arms (s : State) (f : PerGroup Claim → PerGroup Claim) : (s.modClaims f).arms = s.arms := rfl
@[simp] theorem State.modClaims_spray (s : State) (f : PerGroup Claim → PerGroup Claim) : (s.modClaims f).spray = s.spray := rfl
@[simp] theorem State.modClaims_water (s : State) (f : PerGroup Claim → PerGroup Claim) : (s.modClaims f).water = s.water := rfl
@[simp] theorem State.modClaims_flow (s : State) (f : PerGroup Claim → PerGroup Claim) : (s.modClaims f).flow = s.flow := rfl
@[simp] theorem State.modClaims_notices (s : State) (f : PerGroup Claim → PerGroup Claim) : (s.modClaims f).notices = s.notices := rfl
@[simp] theorem State.modClaims_reactions (s : State) (f : PerGroup Claim → PerGroup Claim) : (s.modClaims f).reactions = s.reactions := rfl
@[simp] theorem State.modClaims_supervision (s : State) (f : PerGroup Claim → PerGroup Claim) : (s.modClaims f).supervision = s.supervision := rfl
@[simp] theorem State.modClaims_work (s : State) (f : PerGroup Claim → PerGroup Claim) : (s.modClaims f).work = s.work := rfl
@[simp] theorem State.modClaims_freeCount (s : State) (f : PerGroup Claim → PerGroup Claim) : (s.modClaims f).freeCount = s.freeCount := rfl

@[simp] theorem State.modProfile_pending (s : State) (f : Profiles → Profiles) : (s.modProfile f).pending = s.pending := rfl
@[simp] theorem State.modProfile_time (s : State) (f : Profiles → Profiles) : (s.modProfile f).time = s.time := rfl
@[simp] theorem State.modProfile_clock (s : State) (f : Profiles → Profiles) : (s.modProfile f).clock = s.clock := rfl
@[simp] theorem State.modProfile_links (s : State) (f : Profiles → Profiles) : (s.modProfile f).links = s.links := rfl
@[simp] theorem State.modProfile_attendance (s : State) (f : Profiles → Profiles) : (s.modProfile f).attendance = s.attendance := rfl
@[simp] theorem State.modProfile_claims (s : State) (f : Profiles → Profiles) : (s.modProfile f).claims = s.claims := rfl
@[simp] theorem State.modProfile_profile (s : State) (f : Profiles → Profiles) : (s.modProfile f).profile = f s.profile := rfl
@[simp] theorem State.modProfile_capture (s : State) (f : Profiles → Profiles) : (s.modProfile f).capture = s.capture := rfl
@[simp] theorem State.modProfile_switches (s : State) (f : Profiles → Profiles) : (s.modProfile f).switches = s.switches := rfl
@[simp] theorem State.modProfile_travel (s : State) (f : Profiles → Profiles) : (s.modProfile f).travel = s.travel := rfl
@[simp] theorem State.modProfile_arms (s : State) (f : Profiles → Profiles) : (s.modProfile f).arms = s.arms := rfl
@[simp] theorem State.modProfile_spray (s : State) (f : Profiles → Profiles) : (s.modProfile f).spray = s.spray := rfl
@[simp] theorem State.modProfile_water (s : State) (f : Profiles → Profiles) : (s.modProfile f).water = s.water := rfl
@[simp] theorem State.modProfile_flow (s : State) (f : Profiles → Profiles) : (s.modProfile f).flow = s.flow := rfl
@[simp] theorem State.modProfile_notices (s : State) (f : Profiles → Profiles) : (s.modProfile f).notices = s.notices := rfl
@[simp] theorem State.modProfile_reactions (s : State) (f : Profiles → Profiles) : (s.modProfile f).reactions = s.reactions := rfl
@[simp] theorem State.modProfile_supervision (s : State) (f : Profiles → Profiles) : (s.modProfile f).supervision = s.supervision := rfl
@[simp] theorem State.modProfile_work (s : State) (f : Profiles → Profiles) : (s.modProfile f).work = s.work := rfl
@[simp] theorem State.modProfile_freeCount (s : State) (f : Profiles → Profiles) : (s.modProfile f).freeCount = s.freeCount := rfl

@[simp] theorem State.modCapture_pending (s : State) (f : Capture → Capture) : (s.modCapture f).pending = s.pending := rfl
@[simp] theorem State.modCapture_time (s : State) (f : Capture → Capture) : (s.modCapture f).time = s.time := rfl
@[simp] theorem State.modCapture_clock (s : State) (f : Capture → Capture) : (s.modCapture f).clock = s.clock := rfl
@[simp] theorem State.modCapture_links (s : State) (f : Capture → Capture) : (s.modCapture f).links = s.links := rfl
@[simp] theorem State.modCapture_attendance (s : State) (f : Capture → Capture) : (s.modCapture f).attendance = s.attendance := rfl
@[simp] theorem State.modCapture_claims (s : State) (f : Capture → Capture) : (s.modCapture f).claims = s.claims := rfl
@[simp] theorem State.modCapture_profile (s : State) (f : Capture → Capture) : (s.modCapture f).profile = s.profile := rfl
@[simp] theorem State.modCapture_capture (s : State) (f : Capture → Capture) : (s.modCapture f).capture = f s.capture := rfl
@[simp] theorem State.modCapture_switches (s : State) (f : Capture → Capture) : (s.modCapture f).switches = s.switches := rfl
@[simp] theorem State.modCapture_travel (s : State) (f : Capture → Capture) : (s.modCapture f).travel = s.travel := rfl
@[simp] theorem State.modCapture_arms (s : State) (f : Capture → Capture) : (s.modCapture f).arms = s.arms := rfl
@[simp] theorem State.modCapture_spray (s : State) (f : Capture → Capture) : (s.modCapture f).spray = s.spray := rfl
@[simp] theorem State.modCapture_water (s : State) (f : Capture → Capture) : (s.modCapture f).water = s.water := rfl
@[simp] theorem State.modCapture_flow (s : State) (f : Capture → Capture) : (s.modCapture f).flow = s.flow := rfl
@[simp] theorem State.modCapture_notices (s : State) (f : Capture → Capture) : (s.modCapture f).notices = s.notices := rfl
@[simp] theorem State.modCapture_reactions (s : State) (f : Capture → Capture) : (s.modCapture f).reactions = s.reactions := rfl
@[simp] theorem State.modCapture_supervision (s : State) (f : Capture → Capture) : (s.modCapture f).supervision = s.supervision := rfl
@[simp] theorem State.modCapture_work (s : State) (f : Capture → Capture) : (s.modCapture f).work = s.work := rfl
@[simp] theorem State.modCapture_freeCount (s : State) (f : Capture → Capture) : (s.modCapture f).freeCount = s.freeCount := rfl

@[simp] theorem State.modSwitches_pending (s : State) (f : Switches → Switches) : (s.modSwitches f).pending = s.pending := rfl
@[simp] theorem State.modSwitches_time (s : State) (f : Switches → Switches) : (s.modSwitches f).time = s.time := rfl
@[simp] theorem State.modSwitches_clock (s : State) (f : Switches → Switches) : (s.modSwitches f).clock = s.clock := rfl
@[simp] theorem State.modSwitches_links (s : State) (f : Switches → Switches) : (s.modSwitches f).links = s.links := rfl
@[simp] theorem State.modSwitches_attendance (s : State) (f : Switches → Switches) : (s.modSwitches f).attendance = s.attendance := rfl
@[simp] theorem State.modSwitches_claims (s : State) (f : Switches → Switches) : (s.modSwitches f).claims = s.claims := rfl
@[simp] theorem State.modSwitches_profile (s : State) (f : Switches → Switches) : (s.modSwitches f).profile = s.profile := rfl
@[simp] theorem State.modSwitches_capture (s : State) (f : Switches → Switches) : (s.modSwitches f).capture = s.capture := rfl
@[simp] theorem State.modSwitches_switches (s : State) (f : Switches → Switches) : (s.modSwitches f).switches = f s.switches := rfl
@[simp] theorem State.modSwitches_travel (s : State) (f : Switches → Switches) : (s.modSwitches f).travel = s.travel := rfl
@[simp] theorem State.modSwitches_arms (s : State) (f : Switches → Switches) : (s.modSwitches f).arms = s.arms := rfl
@[simp] theorem State.modSwitches_spray (s : State) (f : Switches → Switches) : (s.modSwitches f).spray = s.spray := rfl
@[simp] theorem State.modSwitches_water (s : State) (f : Switches → Switches) : (s.modSwitches f).water = s.water := rfl
@[simp] theorem State.modSwitches_flow (s : State) (f : Switches → Switches) : (s.modSwitches f).flow = s.flow := rfl
@[simp] theorem State.modSwitches_notices (s : State) (f : Switches → Switches) : (s.modSwitches f).notices = s.notices := rfl
@[simp] theorem State.modSwitches_reactions (s : State) (f : Switches → Switches) : (s.modSwitches f).reactions = s.reactions := rfl
@[simp] theorem State.modSwitches_supervision (s : State) (f : Switches → Switches) : (s.modSwitches f).supervision = s.supervision := rfl
@[simp] theorem State.modSwitches_work (s : State) (f : Switches → Switches) : (s.modSwitches f).work = s.work := rfl
@[simp] theorem State.modSwitches_freeCount (s : State) (f : Switches → Switches) : (s.modSwitches f).freeCount = s.freeCount := rfl

@[simp] theorem State.modTravel_pending (s : State) (f : Travel → Travel) : (s.modTravel f).pending = s.pending := rfl
@[simp] theorem State.modTravel_time (s : State) (f : Travel → Travel) : (s.modTravel f).time = s.time := rfl
@[simp] theorem State.modTravel_clock (s : State) (f : Travel → Travel) : (s.modTravel f).clock = s.clock := rfl
@[simp] theorem State.modTravel_links (s : State) (f : Travel → Travel) : (s.modTravel f).links = s.links := rfl
@[simp] theorem State.modTravel_attendance (s : State) (f : Travel → Travel) : (s.modTravel f).attendance = s.attendance := rfl
@[simp] theorem State.modTravel_claims (s : State) (f : Travel → Travel) : (s.modTravel f).claims = s.claims := rfl
@[simp] theorem State.modTravel_profile (s : State) (f : Travel → Travel) : (s.modTravel f).profile = s.profile := rfl
@[simp] theorem State.modTravel_capture (s : State) (f : Travel → Travel) : (s.modTravel f).capture = s.capture := rfl
@[simp] theorem State.modTravel_switches (s : State) (f : Travel → Travel) : (s.modTravel f).switches = s.switches := rfl
@[simp] theorem State.modTravel_travel (s : State) (f : Travel → Travel) : (s.modTravel f).travel = f s.travel := rfl
@[simp] theorem State.modTravel_arms (s : State) (f : Travel → Travel) : (s.modTravel f).arms = s.arms := rfl
@[simp] theorem State.modTravel_spray (s : State) (f : Travel → Travel) : (s.modTravel f).spray = s.spray := rfl
@[simp] theorem State.modTravel_water (s : State) (f : Travel → Travel) : (s.modTravel f).water = s.water := rfl
@[simp] theorem State.modTravel_flow (s : State) (f : Travel → Travel) : (s.modTravel f).flow = s.flow := rfl
@[simp] theorem State.modTravel_notices (s : State) (f : Travel → Travel) : (s.modTravel f).notices = s.notices := rfl
@[simp] theorem State.modTravel_reactions (s : State) (f : Travel → Travel) : (s.modTravel f).reactions = s.reactions := rfl
@[simp] theorem State.modTravel_supervision (s : State) (f : Travel → Travel) : (s.modTravel f).supervision = s.supervision := rfl
@[simp] theorem State.modTravel_work (s : State) (f : Travel → Travel) : (s.modTravel f).work = s.work := rfl
@[simp] theorem State.modTravel_freeCount (s : State) (f : Travel → Travel) : (s.modTravel f).freeCount = s.freeCount := rfl

@[simp] theorem State.modArms_pending (s : State) (f : PerArm ArmUnit → PerArm ArmUnit) : (s.modArms f).pending = s.pending := rfl
@[simp] theorem State.modArms_time (s : State) (f : PerArm ArmUnit → PerArm ArmUnit) : (s.modArms f).time = s.time := rfl
@[simp] theorem State.modArms_clock (s : State) (f : PerArm ArmUnit → PerArm ArmUnit) : (s.modArms f).clock = s.clock := rfl
@[simp] theorem State.modArms_links (s : State) (f : PerArm ArmUnit → PerArm ArmUnit) : (s.modArms f).links = s.links := rfl
@[simp] theorem State.modArms_attendance (s : State) (f : PerArm ArmUnit → PerArm ArmUnit) : (s.modArms f).attendance = s.attendance := rfl
@[simp] theorem State.modArms_claims (s : State) (f : PerArm ArmUnit → PerArm ArmUnit) : (s.modArms f).claims = s.claims := rfl
@[simp] theorem State.modArms_profile (s : State) (f : PerArm ArmUnit → PerArm ArmUnit) : (s.modArms f).profile = s.profile := rfl
@[simp] theorem State.modArms_capture (s : State) (f : PerArm ArmUnit → PerArm ArmUnit) : (s.modArms f).capture = s.capture := rfl
@[simp] theorem State.modArms_switches (s : State) (f : PerArm ArmUnit → PerArm ArmUnit) : (s.modArms f).switches = s.switches := rfl
@[simp] theorem State.modArms_travel (s : State) (f : PerArm ArmUnit → PerArm ArmUnit) : (s.modArms f).travel = s.travel := rfl
@[simp] theorem State.modArms_arms (s : State) (f : PerArm ArmUnit → PerArm ArmUnit) : (s.modArms f).arms = f s.arms := rfl
@[simp] theorem State.modArms_spray (s : State) (f : PerArm ArmUnit → PerArm ArmUnit) : (s.modArms f).spray = s.spray := rfl
@[simp] theorem State.modArms_water (s : State) (f : PerArm ArmUnit → PerArm ArmUnit) : (s.modArms f).water = s.water := rfl
@[simp] theorem State.modArms_flow (s : State) (f : PerArm ArmUnit → PerArm ArmUnit) : (s.modArms f).flow = s.flow := rfl
@[simp] theorem State.modArms_notices (s : State) (f : PerArm ArmUnit → PerArm ArmUnit) : (s.modArms f).notices = s.notices := rfl
@[simp] theorem State.modArms_reactions (s : State) (f : PerArm ArmUnit → PerArm ArmUnit) : (s.modArms f).reactions = s.reactions := rfl
@[simp] theorem State.modArms_supervision (s : State) (f : PerArm ArmUnit → PerArm ArmUnit) : (s.modArms f).supervision = s.supervision := rfl
@[simp] theorem State.modArms_work (s : State) (f : PerArm ArmUnit → PerArm ArmUnit) : (s.modArms f).work = s.work := rfl
@[simp] theorem State.modArms_freeCount (s : State) (f : PerArm ArmUnit → PerArm ArmUnit) : (s.modArms f).freeCount = s.freeCount := rfl

@[simp] theorem State.modSpray_pending (s : State) (f : Spray → Spray) : (s.modSpray f).pending = s.pending := rfl
@[simp] theorem State.modSpray_time (s : State) (f : Spray → Spray) : (s.modSpray f).time = s.time := rfl
@[simp] theorem State.modSpray_clock (s : State) (f : Spray → Spray) : (s.modSpray f).clock = s.clock := rfl
@[simp] theorem State.modSpray_links (s : State) (f : Spray → Spray) : (s.modSpray f).links = s.links := rfl
@[simp] theorem State.modSpray_attendance (s : State) (f : Spray → Spray) : (s.modSpray f).attendance = s.attendance := rfl
@[simp] theorem State.modSpray_claims (s : State) (f : Spray → Spray) : (s.modSpray f).claims = s.claims := rfl
@[simp] theorem State.modSpray_profile (s : State) (f : Spray → Spray) : (s.modSpray f).profile = s.profile := rfl
@[simp] theorem State.modSpray_capture (s : State) (f : Spray → Spray) : (s.modSpray f).capture = s.capture := rfl
@[simp] theorem State.modSpray_switches (s : State) (f : Spray → Spray) : (s.modSpray f).switches = s.switches := rfl
@[simp] theorem State.modSpray_travel (s : State) (f : Spray → Spray) : (s.modSpray f).travel = s.travel := rfl
@[simp] theorem State.modSpray_arms (s : State) (f : Spray → Spray) : (s.modSpray f).arms = s.arms := rfl
@[simp] theorem State.modSpray_spray (s : State) (f : Spray → Spray) : (s.modSpray f).spray = f s.spray := rfl
@[simp] theorem State.modSpray_water (s : State) (f : Spray → Spray) : (s.modSpray f).water = s.water := rfl
@[simp] theorem State.modSpray_flow (s : State) (f : Spray → Spray) : (s.modSpray f).flow = s.flow := rfl
@[simp] theorem State.modSpray_notices (s : State) (f : Spray → Spray) : (s.modSpray f).notices = s.notices := rfl
@[simp] theorem State.modSpray_reactions (s : State) (f : Spray → Spray) : (s.modSpray f).reactions = s.reactions := rfl
@[simp] theorem State.modSpray_supervision (s : State) (f : Spray → Spray) : (s.modSpray f).supervision = s.supervision := rfl
@[simp] theorem State.modSpray_work (s : State) (f : Spray → Spray) : (s.modSpray f).work = s.work := rfl
@[simp] theorem State.modSpray_freeCount (s : State) (f : Spray → Spray) : (s.modSpray f).freeCount = s.freeCount := rfl

@[simp] theorem State.modWater_pending (s : State) (f : Water → Water) : (s.modWater f).pending = s.pending := rfl
@[simp] theorem State.modWater_time (s : State) (f : Water → Water) : (s.modWater f).time = s.time := rfl
@[simp] theorem State.modWater_clock (s : State) (f : Water → Water) : (s.modWater f).clock = s.clock := rfl
@[simp] theorem State.modWater_links (s : State) (f : Water → Water) : (s.modWater f).links = s.links := rfl
@[simp] theorem State.modWater_attendance (s : State) (f : Water → Water) : (s.modWater f).attendance = s.attendance := rfl
@[simp] theorem State.modWater_claims (s : State) (f : Water → Water) : (s.modWater f).claims = s.claims := rfl
@[simp] theorem State.modWater_profile (s : State) (f : Water → Water) : (s.modWater f).profile = s.profile := rfl
@[simp] theorem State.modWater_capture (s : State) (f : Water → Water) : (s.modWater f).capture = s.capture := rfl
@[simp] theorem State.modWater_switches (s : State) (f : Water → Water) : (s.modWater f).switches = s.switches := rfl
@[simp] theorem State.modWater_travel (s : State) (f : Water → Water) : (s.modWater f).travel = s.travel := rfl
@[simp] theorem State.modWater_arms (s : State) (f : Water → Water) : (s.modWater f).arms = s.arms := rfl
@[simp] theorem State.modWater_spray (s : State) (f : Water → Water) : (s.modWater f).spray = s.spray := rfl
@[simp] theorem State.modWater_water (s : State) (f : Water → Water) : (s.modWater f).water = f s.water := rfl
@[simp] theorem State.modWater_flow (s : State) (f : Water → Water) : (s.modWater f).flow = s.flow := rfl
@[simp] theorem State.modWater_notices (s : State) (f : Water → Water) : (s.modWater f).notices = s.notices := rfl
@[simp] theorem State.modWater_reactions (s : State) (f : Water → Water) : (s.modWater f).reactions = s.reactions := rfl
@[simp] theorem State.modWater_supervision (s : State) (f : Water → Water) : (s.modWater f).supervision = s.supervision := rfl
@[simp] theorem State.modWater_work (s : State) (f : Water → Water) : (s.modWater f).work = s.work := rfl
@[simp] theorem State.modWater_freeCount (s : State) (f : Water → Water) : (s.modWater f).freeCount = s.freeCount := rfl

@[simp] theorem State.modFlow_pending (s : State) (f : Flow → Flow) : (s.modFlow f).pending = s.pending := rfl
@[simp] theorem State.modFlow_time (s : State) (f : Flow → Flow) : (s.modFlow f).time = s.time := rfl
@[simp] theorem State.modFlow_clock (s : State) (f : Flow → Flow) : (s.modFlow f).clock = s.clock := rfl
@[simp] theorem State.modFlow_links (s : State) (f : Flow → Flow) : (s.modFlow f).links = s.links := rfl
@[simp] theorem State.modFlow_attendance (s : State) (f : Flow → Flow) : (s.modFlow f).attendance = s.attendance := rfl
@[simp] theorem State.modFlow_claims (s : State) (f : Flow → Flow) : (s.modFlow f).claims = s.claims := rfl
@[simp] theorem State.modFlow_profile (s : State) (f : Flow → Flow) : (s.modFlow f).profile = s.profile := rfl
@[simp] theorem State.modFlow_capture (s : State) (f : Flow → Flow) : (s.modFlow f).capture = s.capture := rfl
@[simp] theorem State.modFlow_switches (s : State) (f : Flow → Flow) : (s.modFlow f).switches = s.switches := rfl
@[simp] theorem State.modFlow_travel (s : State) (f : Flow → Flow) : (s.modFlow f).travel = s.travel := rfl
@[simp] theorem State.modFlow_arms (s : State) (f : Flow → Flow) : (s.modFlow f).arms = s.arms := rfl
@[simp] theorem State.modFlow_spray (s : State) (f : Flow → Flow) : (s.modFlow f).spray = s.spray := rfl
@[simp] theorem State.modFlow_water (s : State) (f : Flow → Flow) : (s.modFlow f).water = s.water := rfl
@[simp] theorem State.modFlow_flow (s : State) (f : Flow → Flow) : (s.modFlow f).flow = f s.flow := rfl
@[simp] theorem State.modFlow_notices (s : State) (f : Flow → Flow) : (s.modFlow f).notices = s.notices := rfl
@[simp] theorem State.modFlow_reactions (s : State) (f : Flow → Flow) : (s.modFlow f).reactions = s.reactions := rfl
@[simp] theorem State.modFlow_supervision (s : State) (f : Flow → Flow) : (s.modFlow f).supervision = s.supervision := rfl
@[simp] theorem State.modFlow_work (s : State) (f : Flow → Flow) : (s.modFlow f).work = s.work := rfl
@[simp] theorem State.modFlow_freeCount (s : State) (f : Flow → Flow) : (s.modFlow f).freeCount = s.freeCount := rfl

@[simp] theorem State.modNotices_pending (s : State) (f : PerStation StationNotices → PerStation StationNotices) : (s.modNotices f).pending = s.pending := rfl
@[simp] theorem State.modNotices_time (s : State) (f : PerStation StationNotices → PerStation StationNotices) : (s.modNotices f).time = s.time := rfl
@[simp] theorem State.modNotices_clock (s : State) (f : PerStation StationNotices → PerStation StationNotices) : (s.modNotices f).clock = s.clock := rfl
@[simp] theorem State.modNotices_links (s : State) (f : PerStation StationNotices → PerStation StationNotices) : (s.modNotices f).links = s.links := rfl
@[simp] theorem State.modNotices_attendance (s : State) (f : PerStation StationNotices → PerStation StationNotices) : (s.modNotices f).attendance = s.attendance := rfl
@[simp] theorem State.modNotices_claims (s : State) (f : PerStation StationNotices → PerStation StationNotices) : (s.modNotices f).claims = s.claims := rfl
@[simp] theorem State.modNotices_profile (s : State) (f : PerStation StationNotices → PerStation StationNotices) : (s.modNotices f).profile = s.profile := rfl
@[simp] theorem State.modNotices_capture (s : State) (f : PerStation StationNotices → PerStation StationNotices) : (s.modNotices f).capture = s.capture := rfl
@[simp] theorem State.modNotices_switches (s : State) (f : PerStation StationNotices → PerStation StationNotices) : (s.modNotices f).switches = s.switches := rfl
@[simp] theorem State.modNotices_travel (s : State) (f : PerStation StationNotices → PerStation StationNotices) : (s.modNotices f).travel = s.travel := rfl
@[simp] theorem State.modNotices_arms (s : State) (f : PerStation StationNotices → PerStation StationNotices) : (s.modNotices f).arms = s.arms := rfl
@[simp] theorem State.modNotices_spray (s : State) (f : PerStation StationNotices → PerStation StationNotices) : (s.modNotices f).spray = s.spray := rfl
@[simp] theorem State.modNotices_water (s : State) (f : PerStation StationNotices → PerStation StationNotices) : (s.modNotices f).water = s.water := rfl
@[simp] theorem State.modNotices_flow (s : State) (f : PerStation StationNotices → PerStation StationNotices) : (s.modNotices f).flow = s.flow := rfl
@[simp] theorem State.modNotices_notices (s : State) (f : PerStation StationNotices → PerStation StationNotices) : (s.modNotices f).notices = f s.notices := rfl
@[simp] theorem State.modNotices_reactions (s : State) (f : PerStation StationNotices → PerStation StationNotices) : (s.modNotices f).reactions = s.reactions := rfl
@[simp] theorem State.modNotices_supervision (s : State) (f : PerStation StationNotices → PerStation StationNotices) : (s.modNotices f).supervision = s.supervision := rfl
@[simp] theorem State.modNotices_work (s : State) (f : PerStation StationNotices → PerStation StationNotices) : (s.modNotices f).work = s.work := rfl
@[simp] theorem State.modNotices_freeCount (s : State) (f : PerStation StationNotices → PerStation StationNotices) : (s.modNotices f).freeCount = s.freeCount := rfl

@[simp] theorem State.modReactions_pending (s : State) (f : Vector (Option Binding) 8 → Vector (Option Binding) 8) : (s.modReactions f).pending = s.pending := rfl
@[simp] theorem State.modReactions_time (s : State) (f : Vector (Option Binding) 8 → Vector (Option Binding) 8) : (s.modReactions f).time = s.time := rfl
@[simp] theorem State.modReactions_clock (s : State) (f : Vector (Option Binding) 8 → Vector (Option Binding) 8) : (s.modReactions f).clock = s.clock := rfl
@[simp] theorem State.modReactions_links (s : State) (f : Vector (Option Binding) 8 → Vector (Option Binding) 8) : (s.modReactions f).links = s.links := rfl
@[simp] theorem State.modReactions_attendance (s : State) (f : Vector (Option Binding) 8 → Vector (Option Binding) 8) : (s.modReactions f).attendance = s.attendance := rfl
@[simp] theorem State.modReactions_claims (s : State) (f : Vector (Option Binding) 8 → Vector (Option Binding) 8) : (s.modReactions f).claims = s.claims := rfl
@[simp] theorem State.modReactions_profile (s : State) (f : Vector (Option Binding) 8 → Vector (Option Binding) 8) : (s.modReactions f).profile = s.profile := rfl
@[simp] theorem State.modReactions_capture (s : State) (f : Vector (Option Binding) 8 → Vector (Option Binding) 8) : (s.modReactions f).capture = s.capture := rfl
@[simp] theorem State.modReactions_switches (s : State) (f : Vector (Option Binding) 8 → Vector (Option Binding) 8) : (s.modReactions f).switches = s.switches := rfl
@[simp] theorem State.modReactions_travel (s : State) (f : Vector (Option Binding) 8 → Vector (Option Binding) 8) : (s.modReactions f).travel = s.travel := rfl
@[simp] theorem State.modReactions_arms (s : State) (f : Vector (Option Binding) 8 → Vector (Option Binding) 8) : (s.modReactions f).arms = s.arms := rfl
@[simp] theorem State.modReactions_spray (s : State) (f : Vector (Option Binding) 8 → Vector (Option Binding) 8) : (s.modReactions f).spray = s.spray := rfl
@[simp] theorem State.modReactions_water (s : State) (f : Vector (Option Binding) 8 → Vector (Option Binding) 8) : (s.modReactions f).water = s.water := rfl
@[simp] theorem State.modReactions_flow (s : State) (f : Vector (Option Binding) 8 → Vector (Option Binding) 8) : (s.modReactions f).flow = s.flow := rfl
@[simp] theorem State.modReactions_notices (s : State) (f : Vector (Option Binding) 8 → Vector (Option Binding) 8) : (s.modReactions f).notices = s.notices := rfl
@[simp] theorem State.modReactions_reactions (s : State) (f : Vector (Option Binding) 8 → Vector (Option Binding) 8) : (s.modReactions f).reactions = f s.reactions := rfl
@[simp] theorem State.modReactions_supervision (s : State) (f : Vector (Option Binding) 8 → Vector (Option Binding) 8) : (s.modReactions f).supervision = s.supervision := rfl
@[simp] theorem State.modReactions_work (s : State) (f : Vector (Option Binding) 8 → Vector (Option Binding) 8) : (s.modReactions f).work = s.work := rfl
@[simp] theorem State.modReactions_freeCount (s : State) (f : Vector (Option Binding) 8 → Vector (Option Binding) 8) : (s.modReactions f).freeCount = s.freeCount := rfl

@[simp] theorem State.modSupervision_pending (s : State) (f : Supervision → Supervision) : (s.modSupervision f).pending = s.pending := rfl
@[simp] theorem State.modSupervision_time (s : State) (f : Supervision → Supervision) : (s.modSupervision f).time = s.time := rfl
@[simp] theorem State.modSupervision_clock (s : State) (f : Supervision → Supervision) : (s.modSupervision f).clock = s.clock := rfl
@[simp] theorem State.modSupervision_links (s : State) (f : Supervision → Supervision) : (s.modSupervision f).links = s.links := rfl
@[simp] theorem State.modSupervision_attendance (s : State) (f : Supervision → Supervision) : (s.modSupervision f).attendance = s.attendance := rfl
@[simp] theorem State.modSupervision_claims (s : State) (f : Supervision → Supervision) : (s.modSupervision f).claims = s.claims := rfl
@[simp] theorem State.modSupervision_profile (s : State) (f : Supervision → Supervision) : (s.modSupervision f).profile = s.profile := rfl
@[simp] theorem State.modSupervision_capture (s : State) (f : Supervision → Supervision) : (s.modSupervision f).capture = s.capture := rfl
@[simp] theorem State.modSupervision_switches (s : State) (f : Supervision → Supervision) : (s.modSupervision f).switches = s.switches := rfl
@[simp] theorem State.modSupervision_travel (s : State) (f : Supervision → Supervision) : (s.modSupervision f).travel = s.travel := rfl
@[simp] theorem State.modSupervision_arms (s : State) (f : Supervision → Supervision) : (s.modSupervision f).arms = s.arms := rfl
@[simp] theorem State.modSupervision_spray (s : State) (f : Supervision → Supervision) : (s.modSupervision f).spray = s.spray := rfl
@[simp] theorem State.modSupervision_water (s : State) (f : Supervision → Supervision) : (s.modSupervision f).water = s.water := rfl
@[simp] theorem State.modSupervision_flow (s : State) (f : Supervision → Supervision) : (s.modSupervision f).flow = s.flow := rfl
@[simp] theorem State.modSupervision_notices (s : State) (f : Supervision → Supervision) : (s.modSupervision f).notices = s.notices := rfl
@[simp] theorem State.modSupervision_reactions (s : State) (f : Supervision → Supervision) : (s.modSupervision f).reactions = s.reactions := rfl
@[simp] theorem State.modSupervision_supervision (s : State) (f : Supervision → Supervision) : (s.modSupervision f).supervision = f s.supervision := rfl
@[simp] theorem State.modSupervision_work (s : State) (f : Supervision → Supervision) : (s.modSupervision f).work = s.work := rfl
@[simp] theorem State.modSupervision_freeCount (s : State) (f : Supervision → Supervision) : (s.modSupervision f).freeCount = s.freeCount := rfl

@[simp] theorem State.modWork_pending (s : State) (f : Work → Work) : (s.modWork f).pending = s.pending := rfl
@[simp] theorem State.modWork_time (s : State) (f : Work → Work) : (s.modWork f).time = s.time := rfl
@[simp] theorem State.modWork_clock (s : State) (f : Work → Work) : (s.modWork f).clock = s.clock := rfl
@[simp] theorem State.modWork_links (s : State) (f : Work → Work) : (s.modWork f).links = s.links := rfl
@[simp] theorem State.modWork_attendance (s : State) (f : Work → Work) : (s.modWork f).attendance = s.attendance := rfl
@[simp] theorem State.modWork_claims (s : State) (f : Work → Work) : (s.modWork f).claims = s.claims := rfl
@[simp] theorem State.modWork_profile (s : State) (f : Work → Work) : (s.modWork f).profile = s.profile := rfl
@[simp] theorem State.modWork_capture (s : State) (f : Work → Work) : (s.modWork f).capture = s.capture := rfl
@[simp] theorem State.modWork_switches (s : State) (f : Work → Work) : (s.modWork f).switches = s.switches := rfl
@[simp] theorem State.modWork_travel (s : State) (f : Work → Work) : (s.modWork f).travel = s.travel := rfl
@[simp] theorem State.modWork_arms (s : State) (f : Work → Work) : (s.modWork f).arms = s.arms := rfl
@[simp] theorem State.modWork_spray (s : State) (f : Work → Work) : (s.modWork f).spray = s.spray := rfl
@[simp] theorem State.modWork_water (s : State) (f : Work → Work) : (s.modWork f).water = s.water := rfl
@[simp] theorem State.modWork_flow (s : State) (f : Work → Work) : (s.modWork f).flow = s.flow := rfl
@[simp] theorem State.modWork_notices (s : State) (f : Work → Work) : (s.modWork f).notices = s.notices := rfl
@[simp] theorem State.modWork_reactions (s : State) (f : Work → Work) : (s.modWork f).reactions = s.reactions := rfl
@[simp] theorem State.modWork_supervision (s : State) (f : Work → Work) : (s.modWork f).supervision = s.supervision := rfl
@[simp] theorem State.modWork_work (s : State) (f : Work → Work) : (s.modWork f).work = f s.work := rfl
@[simp] theorem State.modWork_freeCount (s : State) (f : Work → Work) : (s.modWork f).freeCount = s.freeCount := rfl

@[simp] theorem PerStation.get_all {α : Type} (x : α) (i : Station) : (PerStation.all x).get i = x := by
  cases i <;> rfl

@[simp] theorem PerStation.get_set {α : Type} (p : PerStation α) (i j : Station) (x : α) :
    (p.set i x).get j = if j = i then x else p.get j := by
  cases i <;> cases j <;> rfl

theorem PerStation.ext_get {α : Type} (p q : PerStation α) (h : ∀ i, p.get i = q.get i) : p = q := by
  cases p; cases q
  simp only [PerStation.mk.injEq]
  exact ⟨h .a, h .b, h .c⟩

@[simp] theorem PerStation.set_get {α : Type} (p : PerStation α) (i : Station) : p.set i (p.get i) = p := by
  cases i <;> rfl

@[simp] theorem PerArm.get_all {α : Type} (x : α) (i : Arm) : (PerArm.all x).get i = x := by
  cases i <;> rfl

@[simp] theorem PerArm.get_set {α : Type} (p : PerArm α) (i j : Arm) (x : α) :
    (p.set i x).get j = if j = i then x else p.get j := by
  cases i <;> cases j <;> rfl

theorem PerArm.ext_get {α : Type} (p q : PerArm α) (h : ∀ i, p.get i = q.get i) : p = q := by
  cases p; cases q
  simp only [PerArm.mk.injEq]
  exact ⟨h .l, h .r, h .c⟩

@[simp] theorem PerArm.set_get {α : Type} (p : PerArm α) (i : Arm) : p.set i (p.get i) = p := by
  cases i <;> rfl

@[simp] theorem PerZone.get_all {α : Type} (x : α) (i : Zone) : (PerZone.all x).get i = x := by
  cases i <;> rfl

@[simp] theorem PerZone.get_set {α : Type} (p : PerZone α) (i j : Zone) (x : α) :
    (p.set i x).get j = if j = i then x else p.get j := by
  cases i <;> cases j <;> rfl

theorem PerZone.ext_get {α : Type} (p q : PerZone α) (h : ∀ i, p.get i = q.get i) : p = q := by
  cases p; cases q
  simp only [PerZone.mk.injEq]
  exact ⟨h .l, h .r, h .c, h .mouth⟩

@[simp] theorem PerZone.set_get {α : Type} (p : PerZone α) (i : Zone) : p.set i (p.get i) = p := by
  cases i <;> rfl

@[simp] theorem PerGroup.get_all {α : Type} (x : α) (i : Group) : (PerGroup.all x).get i = x := by
  cases i <;> rfl

@[simp] theorem PerGroup.get_set {α : Type} (p : PerGroup α) (i j : Group) (x : α) :
    (p.set i x).get j = if j = i then x else p.get j := by
  cases i <;> cases j <;> rfl

theorem PerGroup.ext_get {α : Type} (p q : PerGroup α) (h : ∀ i, p.get i = q.get i) : p = q := by
  cases p; cases q
  simp only [PerGroup.mk.injEq]
  exact ⟨h .travel, h .armL, h .armR, h .armC, h .spray, h .profile, h .account⟩

@[simp] theorem PerGroup.set_get {α : Type} (p : PerGroup α) (i : Group) : p.set i (p.get i) = p := by
  cases i <;> rfl

end Sys2Proof.Machine
end

