-- ==== Sys2Proof/Laws/Flow.lean ====
section
/-! SUPPORT. What the three-level allocation does to the lift lists and the grants. -/

namespace Sys2Proof.Machine

set_option Elab.async false

/-! ## Sums over the arms -/

theorem PerArm.sum_eq_zero {p : PerArm Nat} (h : ∀ a, p.get a = 0) : p.sum = 0 := by
  have hl := h .l; have hr := h .r; have hc := h .c
  simp only [PerArm.get] at hl hr hc
  simp [PerArm.sum, hl, hr, hc]

theorem PerArm.sum_set (p : PerArm Nat) (a : Arm) (n : Nat) : (p.set a n).sum + p.get a = p.sum + n := by
  cases a <;> simp only [PerArm.sum, PerArm.set, PerArm.get] <;> omega

theorem PerArm.sum_mono {p q : PerArm Nat} (h : ∀ a, p.get a ≤ q.get a) : p.sum ≤ q.sum := by
  have hl := h .l; have hr := h .r; have hc := h .c
  simp only [PerArm.get] at hl hr hc
  simp only [PerArm.sum]
  omega

@[simp] theorem PerArm.get_map {α β : Type} (f : α → β) (p : PerArm α) (a : Arm) : (p.map f).get a = f (p.get a) := by
  cases a <;> rfl

@[simp] theorem PerArm.get_of {α : Type} (f : Arm → α) (a : Arm) : (PerArm.of f).get a = f a := by
  cases a <;> rfl

@[simp] theorem PerZone.get_map {α β : Type} (f : α → β) (p : PerZone α) (z : Zone) :
    (p.map f).get z = f (p.get z) := by
  cases z <;> rfl

@[simp] theorem PerZone.get_of {α : Type} (f : Zone → α) (z : Zone) : (PerZone.of f).get z = f z := by
  cases z <;> rfl

@[simp] theorem PerStation.get_of {α : Type} (f : Station → α) (st : Station) : (PerStation.of f).get st = f st := by
  cases st <;> rfl

@[simp] theorem PerStation.get_map {α β : Type} (f : α → β) (p : PerStation α) (st : Station) :
    (p.map f).get st = f (p.get st) := by
  cases st <;> rfl

theorem nodup_arms_length {l : List Arm} (h : l.Nodup) : l.length ≤ 3 := by
  have : l.length ≤ ([Arm.l, .r, .c] : List Arm).length := by
    apply List.Subperm.length_le
    apply List.subperm_of_subset h
    intro a _
    cases a <;> simp
  simpa using this

/-! ## Level 3 -/

theorem Flow.listsLawful.posted {f : Flow} (h : f.listsLawful) {a : Arm} (ha : f.liftDemand.get a = 0) :
    a ∉ f.queue ∧ a ∉ f.granted ∧ f.liftGrant.get a = 0 := by
  obtain ⟨_, _, hg, hq, hw⟩ := h
  have hz : f.liftGrant.get a = 0 := by
    rcases hw a with h | h
    · exact h
    · rw [h, ha]
  refine ⟨fun hm => ?_, fun hm => ?_, hz⟩
  · have := ((hq a).1 hm).1; omega
  · have := (hg a).1 hm; omega

theorem Flow.listsLawful_post {f : Flow} (h : f.listsLawful) {a : Arm} {d : Nat} (ha : f.liftDemand.get a = 0)
    (hd : d ≠ 0) :
    ({ f with liftDemand := f.liftDemand.set a d, queue := f.queue ++ [a] } : Flow).listsLawful := by
  obtain ⟨nq, ng, hz⟩ := h.posted ha
  obtain ⟨h1, h2, h3, h4, h5⟩ := h
  refine ⟨?_, h2, h3, fun b => ?_, fun b => ?_⟩
  · rw [List.nodup_append]
    refine ⟨h1, by simp, ?_⟩
    intro x hx y hy
    simp only [List.mem_singleton] at hy
    subst hy
    exact fun e => nq (e ▸ hx)
  · simp only [List.mem_append, List.mem_singleton, PerArm.get_set]
    by_cases hb : b = a
    · subst hb
      simp only [if_true]
      constructor
      · intro _; exact ⟨Nat.pos_of_ne_zero hd, hz⟩
      · intro _; exact Or.inr trivial
    · simp only [hb, if_false, or_false]
      exact h4 b
  · simp only [PerArm.get_set]
    by_cases hb : b = a
    · subst hb; exact Or.inl hz
    · simp only [hb, if_false]; exact h5 b

theorem Flow.listsLawful_withdraw {f : Flow} (h : f.listsLawful) (a : Arm) :
    ({ f with liftDemand := f.liftDemand.set a 0, liftGrant := f.liftGrant.set a 0,
              queue := f.queue.filter (· != a), granted := f.granted.filter (· != a) } : Flow).listsLawful := by
  obtain ⟨h1, h2, h3, h4, h5⟩ := h
  refine ⟨h1.filter _, h2.filter _, fun b => ?_, fun b => ?_, fun b => ?_⟩ <;>
    simp only [List.mem_filter, PerArm.get_set, bne_iff_ne, ne_eq] <;> by_cases hb : b = a
  · subst hb; simp
  · simp only [hb, if_false, not_false_eq_true, and_true]; exact h3 b
  · subst hb; simp
  · simp only [hb, if_false, not_false_eq_true, and_true]; exact h4 b
  · subst hb; simp
  · simp only [hb, if_false]; exact h5 b

/-- One withdrawal of R159 keeps the lists. -/
theorem Flow.listsLawful_unGrant {f : Flow} (h : f.listsLawful) {a : Arm} (hl : f.granted.getLast? = some a) :
    ({ f with granted := f.granted.dropLast, queue := a :: f.queue,
              liftGrant := f.liftGrant.set a 0 } : Flow).listsLawful ∧ f.granted.dropLast.length < f.granted.length := by
  obtain ⟨h1, h2, h3, h4, h5⟩ := h
  have hg : f.granted = f.granted.dropLast ++ [a] := by
    have hne : f.granted ≠ [] := by intro e; rw [e] at hl; simp at hl
    have := List.dropLast_append_getLast hne
    rw [List.getLast?_eq_some_getLast hne] at hl
    simp only [Option.some.injEq] at hl
    rw [hl] at this
    exact this.symm
  have hmem : a ∈ f.granted := by rw [hg]; simp
  have hpos := (h3 a).1 hmem
  have hd : f.liftDemand.get a = f.liftGrant.get a := by
    rcases h5 a with h | h
    · omega
    · exact h.symm
  have hnd := h2
  rw [hg, List.nodup_append] at hnd
  obtain ⟨hn1, _, hdis⟩ := hnd
  refine ⟨⟨?_, hn1, fun b => ?_, fun b => ?_, fun b => ?_⟩, ?_⟩
  · rw [List.nodup_cons]
    refine ⟨fun hq => ?_, h1⟩
    have := ((h4 a).1 hq).2
    omega
  · simp only [PerArm.get_set]
    by_cases hb : b = a
    · subst hb
      simp only [if_true, Nat.lt_irrefl, iff_false]
      exact fun hm => hdis b hm b (by simp) rfl
    · simp only [hb, if_false]
      rw [← h3 b]
      constructor
      · intro hm; rw [hg]; simp [hm]
      · intro hm
        rw [hg] at hm
        simpa [hb] using hm
  · simp only [List.mem_cons, PerArm.get_set]
    by_cases hb : b = a
    · subst hb
      simp only [true_or, if_true, and_true, true_iff]
      omega
    · simp only [hb, false_or, if_false]; exact h4 b
  · simp only [PerArm.get_set]
    by_cases hb : b = a
    · subst hb; simp
    · simp only [hb, if_false]; exact h5 b
  · rw [hg]; simp

theorem Flow.withdrawLifts_lawful (n : Nat) (f : Flow) (h : f.listsLawful) (hn : f.granted.length ≤ n) :
    (Flow.withdrawLifts n f).listsLawful ∧
      (Flow.withdrawLifts n f).liftGrant.sum ≤ (Flow.withdrawLifts n f).capacity := by
  induction n generalizing f with
  | zero =>
    have he : f.granted = [] := List.length_eq_zero_iff.1 (Nat.le_zero.1 hn)
    refine ⟨h, ?_⟩
    have : f.liftGrant.sum = 0 := PerArm.sum_eq_zero fun a => by
      rcases Nat.eq_zero_or_pos (f.liftGrant.get a) with hz | hz
      · exact hz
      · have := (h.2.2.1 a).2 hz
        rw [he] at this
        cases this
    simp only [Flow.withdrawLifts, this, Nat.zero_le]
  | succ n ih =>
    rw [Flow.withdrawLifts]
    by_cases hc : f.capacity < f.liftGrant.sum
    · rw [if_pos hc]
      cases hl : f.granted.getLast? with
      | none =>
        have he : f.granted = [] := by simpa using hl
        exact absurd (ih f h (by rw [he]; simp)) (by
          intro _
          have : f.liftGrant.sum = 0 := PerArm.sum_eq_zero fun a => by
            rcases Nat.eq_zero_or_pos (f.liftGrant.get a) with hz | hz
            · exact hz
            · have := (h.2.2.1 a).2 hz
              rw [he] at this
              cases this
          omega)
      | some a =>
        obtain ⟨h', hlt⟩ := Flow.listsLawful_unGrant h hl
        exact ih _ h' (by simp only; omega)
    · rw [if_neg hc]
      exact ⟨h, by omega⟩

theorem Flow.listsLawful_grant {f : Flow} (h : f.listsLawful) {a : Arm} {rest : List Arm} (hq : f.queue = a :: rest) :
    ({ f with queue := rest, granted := f.granted ++ [a],
              liftGrant := f.liftGrant.set a (f.liftDemand.get a) } : Flow).listsLawful := by
  obtain ⟨h1, h2, h3, h4, h5⟩ := h
  have hm := (h4 a).1 (by rw [hq]; simp)
  rw [hq, List.nodup_cons] at h1
  refine ⟨h1.2, ?_, fun b => ?_, fun b => ?_, fun b => ?_⟩
  · rw [List.nodup_append]
    refine ⟨h2, by simp, ?_⟩
    intro x hx y hy
    simp only [List.mem_singleton] at hy
    subst hy
    intro e
    subst e
    have := (h3 x).1 hx
    omega
  · simp only [List.mem_append, List.mem_singleton, PerArm.get_set]
    by_cases hb : b = a
    · subst hb; simp only [or_true, if_true, true_iff]; exact hm.1
    · simp only [hb, or_false, if_false]; exact h3 b
  · simp only [PerArm.get_set]
    by_cases hb : b = a
    · subst hb
      simp only [if_true]
      constructor
      · intro hr; exact absurd hr h1.1
      · intro hr; omega
    · simp only [hb, if_false]
      rw [← h4 b, hq]
      simp [hb]
  · simp only [PerArm.get_set]
    by_cases hb : b = a
    · subst hb; simp
    · simp only [hb, if_false]; exact h5 b

theorem Flow.grantLifts_lawful (n : Nat) (f : Flow) (h : f.listsLawful) (hs : f.liftGrant.sum ≤ f.capacity) :
    (Flow.grantLifts n f).listsLawful ∧
      (Flow.grantLifts n f).liftGrant.sum ≤ (Flow.grantLifts n f).capacity := by
  induction n generalizing f with
  | zero => exact ⟨h, hs⟩
  | succ n ih =>
    rw [Flow.grantLifts]
    cases hq : f.queue with
    | nil => exact ⟨h, hs⟩
    | cons a rest =>
      by_cases hc : f.liftDemand.get a + f.liftGrant.sum ≤ f.capacity
      · simp only [hc, if_true]
        refine ih _ (Flow.listsLawful_grant h hq) ?_
        have := PerArm.sum_set f.liftGrant a (f.liftDemand.get a)
        simp only
        omega
      · simp only [hc, if_false]
        exact ⟨h, hs⟩

/-! ## Levels 2 and 1 -/

theorem share_sum (x y z room : Nat) (h : room < x + y + z) :
    x * room / (x + y + z) + y * room / (x + y + z) + z * room / (x + y + z) ≤ room := by
  have hp : 0 < x + y + z := by omega
  rw [← Nat.mul_le_mul_left_iff hp]
  have h1 := Nat.mul_div_le (x * room) (x + y + z)
  have h2 := Nat.mul_div_le (y * room) (x + y + z)
  have h3 := Nat.mul_div_le (z * room) (x + y + z)
  have he : (x + y + z) * room = x * room + y * room + z * room := by ring
  rw [Nat.mul_add, Nat.mul_add]
  omega

theorem Flow.grantRotation_lawful (f : Flow) :
    f.grantRotation.rotGrant.sum ≤ f.capacity - f.liftGrant.sum ∧
      ∀ a, f.grantRotation.rotGrant.get a ≤ f.rotDemand.get a := by
  unfold Flow.grantRotation
  simp only
  by_cases h : f.rotDemand.sum ≤ f.capacity - f.liftGrant.sum
  · simp only [h, if_true]
    exact ⟨trivial, fun a => Nat.le_refl _⟩
  · simp only [h, if_false]
    have h' : f.capacity - f.liftGrant.sum < f.rotDemand.sum := by omega
    refine ⟨?_, fun a => ?_⟩
    · simp only [PerArm.sum, PerArm.map] at h' ⊢
      exact share_sum _ _ _ _ h'
    · rw [PerArm.get_map]
      apply Nat.div_le_of_le_mul
      rw [Nat.mul_comm]
      exact Nat.mul_le_mul_right _ (by omega)

/-- R157: a settled flow's grants fit and are lawful, whatever the demands, and its lists are kept. -/
theorem Flow.settle_lawful (f : Flow) (h : f.listsLawful) : f.settle.listsLawful ∧ f.settle.grantsLawful := by
  obtain ⟨w1, w2⟩ := Flow.withdrawLifts_lawful 3 f h (nodup_arms_length h.2.1)
  obtain ⟨g1, g2⟩ := Flow.grantLifts_lawful 3 _ w1 w2
  unfold Flow.settle
  generalize Flow.grantLifts 3 (Flow.withdrawLifts 3 f) = x at g1 g2
  obtain ⟨r1, r2⟩ := Flow.grantRotation_lawful x
  have hx : x.grantRotation.liftGrant = x.liftGrant ∧ x.grantRotation.capacity = x.capacity ∧
      x.grantRotation.rotDemand = x.rotDemand ∧ x.grantRotation.liftDemand = x.liftDemand := ⟨rfl, rfl, rfl, rfl⟩
  obtain ⟨e1, e2, e3, e4⟩ := hx
  refine ⟨g1, ?_, fun a => ?_, fun a => ?_, ?_⟩
  · simp only [Flow.grantPump, e1, e2]
    omega
  · simp only [Flow.grantPump, e1, e4]
    rcases g1.2.2.2.2 a with h | h
    · rw [h]; exact Nat.zero_le _
    · exact h.le
  · simp only [Flow.grantPump, e3]
    exact r2 a
  · simp only [Flow.grantPump]
    exact Nat.min_le_left _ _

end Sys2Proof.Machine
end

