-- ==== Sys2Proof/Laws/Cascade.lean ====
section
/-! SUPPORT. What one cascade can do: a relation between the state before and the state after, kept by every shared
operation, by every raise and by the end of an event. -/

namespace Sys2Proof.Machine

set_option Elab.async false

/-! ## The parts of the relation -/

/-- The lists and grants of R157 and R158 inside an event: the grants are lawful unless a reallocation is due, and
the lifts newly posted stand in the queue. -/
def FlowOk (f : Flow) (w : Work) : Prop :=
  f.listsLawful ∧ w.newLifts.Nodup ∧ (∀ a ∈ w.newLifts, a ∈ f.queue) ∧ (w.realloc = false → f.grantsLawful)

/-- A binding but for the raise it holds. -/
def Binding.same (b c : Binding) : Prop := { b with held := none } = { c with held := none }

/-- Bound entries stay as they are but for their held raise; no entry comes to be. -/
structure ReactionsKept (r t : Vector (Option Binding) 8) : Prop where
  bound : ∀ (e : EntryNo) b, r[e] = some b → b.enabled = true → ∃ c, t[e] = some c ∧ c.same b
  old : ∀ (e : EntryNo) c, t[e] = some c → ∃ b, r[e] = some b ∧ c.same b

/-- A station's factor state through a cascade: masks stand, a queue of at most 16 stays so. -/
structure NoticesKept (v w : StationNotices) : Prop where
  masks : w.masks = v.masks
  master : w.master = v.master
  length : v.queue.length ≤ 16 → w.queue.length ≤ 16

/-- An exception for one arm: its outputs not yet refreshed and its change not yet reported, or the report alone. -/
inductive Exc where
  | none
  | report (a : Arm)
  | both (a : Arm)

def Exc.outputs (x : Exc) (a : Arm) : Prop := x = .both a
def Exc.copies (x : Exc) (a : Arm) : Prop := x = .both a ∨ x = .report a

/-- How far an operation reaches: a cascade that lowers no arm and leaves the water state, one that may change the water
state, one that may lower arms, or one that also enters or leaves safe stop or starts a record. -/
inductive Reach where
  | cascade | water | lower | any

/-- Lowers no arm. -/
def Reach.calm : Reach → Bool
  | .cascade => true
  | .water => true
  | _ => false

/-- What every cascade keeps. -/
structure Frame (x : Exc) (k : Reach) (s t : State) : Prop where
  pending : t.pending = s.pending
  time : t.time = s.time
  clock : t.clock = s.clock
  links : t.links = s.links
  attendance : t.attendance = s.attendance
  claims : t.claims = s.claims
  capture : t.capture = s.capture
  switches : t.switches = s.switches
  draft : t.profile.draft = s.profile.draft
  items : t.supervision.items = s.supervision.items
  mode : t.supervision.mode = s.supervision.mode
  committed : t.supervision.committed = s.supervision.committed
  pendingReset : t.supervision.pendingReset = s.supervision.pendingReset
  resetCauses : t.supervision.resetCauses = s.supervision.resetCauses
  travel : s.travel.setpointLawful → t.travel.setpointLawful
  parked : s.travel.state = .parked → t.travel.state = .parked
  arms : ∀ a, ¬ x.outputs a → (s.arm a).lawful → (t.arm a).lawful
  copies : ∀ h a, ¬ x.copies a → copyOk h a s → copyOk h a t
  spray : valveLaw s → valveLaw t
  water : s.water.estimate ≤ s.item 22 → t.water.estimate ≤ t.item 22
  frost : t.spray.frost = s.spray.frost
  waterCopy : waterCopyLaw s → waterCopyLaw t
  waterKept : k = .cascade → t.water.state = s.water.state ∧ t.spray.waterState = s.spray.waterState ∧
    t.travel.waterEmpty = s.travel.waterEmpty
  flow : FlowOk s.flow s.work → FlowOk t.flow t.work
  notices : ∀ st, NoticesKept (s.notices.get st) (t.notices.get st)
  away : ∀ st, s.attends st = false → t.notices.get st = s.notices.get st
  reactions : ReactionsKept s.reactions t.reactions
  reset : s.supervision.pendingReset = none → s.work.reset = none → t.work.reset = none
  store : s.profile.storeOk → t.profile.storeOk
  safe : k ≠ .any → t.supervision.safeStop = s.supervision.safeStop ∧ t.spray.safeStop = s.spray.safeStop ∧
    t.travel.safeStop = s.travel.safeStop
  causes : k ≠ .any → t.supervision.causes = s.supervision.causes
  selecting : k ≠ .any → ∀ n, s.profile.selecting n → t.profile.selecting n
  record : k ≠ .any → ∀ d, t.profile.changeover = some d → ∃ c, s.profile.changeover = some c ∧ d.same c
  lowering : k.calm = true → ∀ a, (t.arm a).state = .lowering → (s.arm a).state = .lowering
  lowered : k.calm = true → ∀ a, (t.arm a).state.lowered = true → (s.arm a).state.lowered = true
  still : k.calm = true → s.profile.changeover = none → t.profile.changeover = none
  idle : k.calm = true → s.profile.changeover = none → s.profile.idle → t.profile.idle

/-- A cascade that leaves every output and every copy in order. -/
abbrev Cascade (s t : State) : Prop := Frame .none .cascade s t

theorem Binding.same.refl (b : Binding) : b.same b := rfl
theorem Binding.same.trans {b c d : Binding} (h : b.same c) (k : c.same d) : b.same d := Eq.trans h k
theorem Binding.same.enabled {b c : Binding} (h : b.same c) : b.enabled = c.enabled := by
  have := congrArg Binding.enabled h
  exact this

theorem ReactionsKept.refl (r : Vector (Option Binding) 8) : ReactionsKept r r :=
  ⟨fun _ b h _ => ⟨b, h, .refl b⟩, fun _ c h => ⟨c, h, .refl c⟩⟩

theorem ReactionsKept.trans {r t u : Vector (Option Binding) 8} (h : ReactionsKept r t) (k : ReactionsKept t u) :
    ReactionsKept r u where
  bound e b hb he := by
    obtain ⟨c, hc, hs⟩ := h.bound e b hb he
    obtain ⟨d, hd, hs'⟩ := k.bound e c hc (hs.enabled.trans he)
    exact ⟨d, hd, hs'.trans hs⟩
  old e c hc := by
    obtain ⟨d, hd, hs⟩ := k.old e c hc
    obtain ⟨b, hb, hs'⟩ := h.old e d hd
    exact ⟨b, hb, hs.trans hs'⟩

theorem NoticesKept.refl (v : StationNotices) : NoticesKept v v := ⟨rfl, rfl, id⟩

theorem NoticesKept.trans {v w u : StationNotices} (h : NoticesKept v w) (k : NoticesKept w u) : NoticesKept v u :=
  ⟨k.masks.trans h.masks, k.master.trans h.master, k.length ∘ h.length⟩

theorem State.attends_congr {s t : State} (h : t.attendance = s.attendance) (st : Station) :
    t.attends st = s.attends st := by
  simp only [State.attends, h]

theorem Frame.refl (x : Exc) (k : Reach) (s : State) : Frame x k s s where
  pending := rfl
  time := rfl
  clock := rfl
  links := rfl
  attendance := rfl
  claims := rfl
  capture := rfl
  switches := rfl
  draft := rfl
  items := rfl
  mode := rfl
  committed := rfl
  pendingReset := rfl
  resetCauses := rfl
  travel := id
  parked := id
  arms _ _ := id
  copies _ _ _ := id
  spray := id
  water := id
  frost := rfl
  waterCopy := id
  waterKept _ := ⟨rfl, rfl, rfl⟩
  flow := id
  notices _ := .refl _
  away _ _ := rfl
  reactions := .refl _
  reset _ := id
  store := id
  safe _ := ⟨rfl, rfl, rfl⟩
  causes _ := rfl
  selecting _ _ := id
  record _ d h := ⟨d, h, rfl, rfl, rfl, rfl⟩
  lowering _ _ := id
  lowered _ _ := id
  still _ := id
  idle _ _ := id

theorem Cascade.refl (s : State) : Cascade s s := Frame.refl _ _ s

theorem Frame.trans {x : Exc} {k : Reach} {s t u : State} (h : Frame x k s t) (h' : Frame x k t u) :
    Frame x k s u where
  pending := h'.pending.trans h.pending
  time := h'.time.trans h.time
  clock := h'.clock.trans h.clock
  links := h'.links.trans h.links
  attendance := h'.attendance.trans h.attendance
  claims := h'.claims.trans h.claims
  capture := h'.capture.trans h.capture
  switches := h'.switches.trans h.switches
  draft := h'.draft.trans h.draft
  items := h'.items.trans h.items
  mode := h'.mode.trans h.mode
  committed := h'.committed.trans h.committed
  pendingReset := h'.pendingReset.trans h.pendingReset
  resetCauses := h'.resetCauses.trans h.resetCauses
  travel := h'.travel ∘ h.travel
  parked := h'.parked ∘ h.parked
  arms a ha := h'.arms a ha ∘ h.arms a ha
  copies b a ha := h'.copies b a ha ∘ h.copies b a ha
  spray := h'.spray ∘ h.spray
  water := h'.water ∘ h.water
  frost := h'.frost.trans h.frost
  waterCopy := h'.waterCopy ∘ h.waterCopy
  waterKept hk := ⟨(h'.waterKept hk).1.trans (h.waterKept hk).1, (h'.waterKept hk).2.1.trans (h.waterKept hk).2.1,
    (h'.waterKept hk).2.2.trans (h.waterKept hk).2.2⟩
  flow := h'.flow ∘ h.flow
  notices st := (h.notices st).trans (h'.notices st)
  away st hs := (h'.away st ((State.attends_congr h.attendance st).trans hs)).trans (h.away st hs)
  reactions := h.reactions.trans h'.reactions
  reset hp hr := h'.reset (h.pendingReset.trans hp) (h.reset hp hr)
  store := h'.store ∘ h.store
  safe hk := ⟨(h'.safe hk).1.trans (h.safe hk).1, (h'.safe hk).2.1.trans (h.safe hk).2.1,
    (h'.safe hk).2.2.trans (h.safe hk).2.2⟩
  causes hk := (h'.causes hk).trans (h.causes hk)
  selecting hk n := h'.selecting hk n ∘ h.selecting hk n
  record hk d hd := by
    obtain ⟨c, hc, e⟩ := h'.record hk d hd
    obtain ⟨b, hb, e'⟩ := h.record hk c hc
    exact ⟨b, hb, e.1.trans e'.1, e.2.1.trans e'.2.1, e.2.2.1.trans e'.2.2.1, e.2.2.2.trans e'.2.2.2⟩
  lowering hk a := h.lowering hk a ∘ h'.lowering hk a
  lowered hk a := h.lowered hk a ∘ h'.lowered hk a
  still hk := h'.still hk ∘ h.still hk
  idle hk hs hi := h'.idle hk (h.still hk hs) (h.idle hk hs hi)

/-- A cascade is within every reach and under every exception. -/
theorem Cascade.to {x : Exc} {k : Reach} {s t : State} (h : Cascade s t) : Frame x k s t :=
  { h with
    arms := fun a _ => h.arms a nofun
    copies := fun b a _ => h.copies b a nofun
    waterKept := fun _ => h.waterKept rfl
    safe := fun _ => h.safe nofun
    causes := fun _ => h.causes nofun
    selecting := fun _ => h.selecting nofun
    record := fun _ => h.record nofun
    lowering := fun _ => h.lowering rfl
    lowered := fun _ => h.lowered rfl
    still := fun _ => h.still rfl
    idle := fun _ => h.idle rfl }

/-- What may lower an arm is within the widest reach. -/
theorem Frame.any {x : Exc} {k : Reach} {s t : State} (h : Frame x k s t) : Frame x .any s t :=
  { h with
    waterKept := nofun
    safe := fun hk => absurd rfl hk
    causes := fun hk => absurd rfl hk
    selecting := fun hk => absurd rfl hk
    record := fun hk => absurd rfl hk
    lowering := nofun
    lowered := nofun
    still := nofun
    idle := nofun }

/-- A cascade after any other. -/
theorem Frame.andThen {x : Exc} {k : Reach} {s t u : State} (h : Frame x k s t) (h' : Cascade t u) : Frame x k s u :=
  h.trans h'.to

/-! ## One block changed -/

theorem Cascade.modTravel (s : State) (f : Travel → Travel)
    (hf : s.travel.setpointLawful → (f s.travel).setpointLawful)
    (hp : s.travel.state = .parked → (f s.travel).state = .parked := by exact fun h => h)
    (hs : (f s.travel).armStowed = s.travel.armStowed := by rfl)
    (hm : (f s.travel).armMoving = s.travel.armMoving := by rfl)
    (hz : (f s.travel).safeStop = s.travel.safeStop := by rfl)
    (he : (f s.travel).waterEmpty = s.travel.waterEmpty := by rfl) : Cascade s (s.modTravel f) :=
  { Cascade.refl s with
    waterCopy := fun h => ⟨h.1, he.trans h.2⟩
    waterKept := fun _ => ⟨rfl, rfl, he⟩
    travel := hf
    parked := hp
    copies := fun b a _ h => by
      cases b
      · exact ⟨(congrArg (·.get a) hs).trans h.1, (congrArg (·.get a) hm).trans h.2⟩
      · exact h
      · exact h
      · exact h
    safe := fun _ => ⟨rfl, rfl, hz⟩ }

/-- The TG's record changed together with its copy of arm `a`. -/
theorem Frame.modTravelLoose {k : Reach} (s : State) (a : Arm) (f : Travel → Travel)
    (hf : s.travel.setpointLawful → (f s.travel).setpointLawful)
    (hs : ∀ b, b ≠ a → (f s.travel).armStowed.get b = s.travel.armStowed.get b)
    (hm : ∀ b, b ≠ a → (f s.travel).armMoving.get b = s.travel.armMoving.get b)
    (hp : (f s.travel).state = s.travel.state := by rfl)
    (hz : (f s.travel).safeStop = s.travel.safeStop := by rfl)
    (he : (f s.travel).waterEmpty = s.travel.waterEmpty := by rfl) : Frame (.report a) k s (s.modTravel f) :=
  { Frame.refl (.report a) k s with
    waterCopy := fun h => ⟨h.1, he.trans h.2⟩
    waterKept := fun _ => ⟨rfl, rfl, he⟩
    travel := hf
    parked := fun h => hp.trans h
    copies := fun c b hb h => by
      have hba : b ≠ a := fun e => hb (.inr (by rw [e]))
      cases c
      · exact ⟨(hs b hba).trans h.1, (hm b hba).trans h.2⟩
      · exact h
      · exact h
      · exact h
    safe := fun _ => ⟨rfl, rfl, hz⟩ }

theorem Cascade.modWater (s : State) (f : Water → Water)
    (hf : s.water.estimate ≤ s.item 22 → (f s.water).estimate ≤ s.item 22)
    (hd : (f s.water).armDown = s.water.armDown := by rfl)
    (hs : (f s.water).state = s.water.state := by rfl) : Cascade s (s.modWater f) :=
  { Cascade.refl s with
    waterCopy := fun h => ⟨h.1.trans hs.symm, h.2.trans (by
      show _ = ((f s.water).state == _)
      rw [hs])⟩
    waterKept := fun _ => ⟨hs, rfl, rfl⟩
    water := hf
    copies := fun b a _ h => by
      cases b
      · exact h
      · exact h
      · show (f s.water).armDown.get a = _
        rw [hd]; exact h
      · exact h }

theorem Cascade.modSpray (s : State) (f : Spray → Spray) (hf : valveLaw s → ∀ z, (f s.spray).valveLawful z)
    (ha : (f s.spray).armState = s.spray.armState := by rfl)
    (hz : (f s.spray).safeStop = s.spray.safeStop := by rfl)
    (hw : (f s.spray).waterState = s.spray.waterState := by rfl)
    (hr : (f s.spray).frost = s.spray.frost := by rfl) : Cascade s (s.modSpray f) :=
  { Cascade.refl s with
    frost := hr
    waterCopy := fun h => ⟨hw.trans h.1, h.2⟩
    waterKept := fun _ => ⟨rfl, hw, rfl⟩
    spray := hf
    copies := fun b a _ h => by
      cases b
      · exact h
      · show (f s.spray).armState.get a = _
        rw [ha]; exact h
      · exact h
      · exact h
    safe := fun _ => ⟨rfl, hz, rfl⟩ }

/-- The Spray Unit's record changed together with its copy of arm `a`, every zone lawful after. -/
theorem Frame.modSprayLoose {k : Reach} (s : State) (a : Arm) (f : Spray → Spray)
    (hf : ∀ z, (f s.spray).valveLawful z)
    (ha : ∀ b, b ≠ a → (f s.spray).armState.get b = s.spray.armState.get b)
    (hz : (f s.spray).safeStop = s.spray.safeStop) (hw : (f s.spray).waterState = s.spray.waterState)
    (hr : (f s.spray).frost = s.spray.frost) : Frame (.report a) k s (s.modSpray f) :=
  { Frame.refl (.report a) k s with
    frost := hr
    waterCopy := fun h => ⟨hw.trans h.1, h.2⟩
    waterKept := fun _ => ⟨rfl, hw, rfl⟩
    spray := fun _ => hf
    copies := fun c b hb h => by
      have hba : b ≠ a := fun e => hb (.inr (by rw [e]))
      cases c
      · exact h
      · exact (ha b hba).trans h
      · exact h
      · exact h
    safe := fun _ => ⟨rfl, hz, rfl⟩ }

/-- The changeover record's arms or its degraded flag changed. -/
theorem Cascade.modRecord (s : State) (c d : Changeover) (hc : s.profile.changeover = some c) (hd : d.same c) :
    Cascade s (s.modProfile fun p => { p with changeover := some d }) :=
  { Cascade.refl s with
    store := fun ⟨h1, h2⟩ => by
      refine ⟨h1, ?_⟩
      rw [hc] at h2
      show ∀ u ∈ ChangeKind.unused (some d.kind), _
      rw [hd.1]
      exact h2
    selecting := fun _ n h => by
      rcases h with ⟨e, he, h1, h2, h3⟩ | ⟨h, _⟩
      · rw [hc] at he
        cases he
        exact .inl ⟨d, rfl, hd.1.trans h1, hd.2.2.1.trans h2, h3⟩
      · rw [hc] at h; cases h
    record := fun _ e he => ⟨c, hc, by cases he; exact hd⟩
    still := fun _ h => by rw [hc] at h; cases h }

theorem Cascade.modWork (s : State) (f : Work → Work)
    (h1 : (f s.work).newLifts = s.work.newLifts := by rfl) (h2 : (f s.work).reset = s.work.reset := by rfl)
    (h3 : s.work.realloc = true → (f s.work).realloc = true := by exact fun h => h) : Cascade s (s.modWork f) :=
  { Cascade.refl s with
    flow := fun ⟨a, b, c, d⟩ => ⟨a, h1 ▸ b, h1 ▸ c, fun e => d (by
      cases h : s.work.realloc
      · rfl
      · exact absurd (h3 h) (by rw [show (f s.work).realloc = false from e]; exact nofun))⟩
    reset := fun _ h => h2.trans h }

theorem State.arm_modArm (s : State) (a b : Arm) (f : ArmUnit → ArmUnit) :
    (s.modArm a f).arm b = if b = a then f (s.arm a) else s.arm b := by
  simp only [State.arm, State.modArm, State.modArms, PerArm.get_set]

/-- A copy of another arm's state does not see a change of this arm. -/
theorem copyOk_modArm {s : State} {a b : Arm} {f : ArmUnit → ArmUnit} {c : Holder}
    (hb : b = a → (f (s.arm a)).state = (s.arm a).state) (h : copyOk c b s) : copyOk c b (s.modArm a f) := by
  have e : ((s.modArm a f).arm b).state = (s.arm b).state := by
    rw [State.arm_modArm]
    by_cases e : b = a
    · rw [if_pos e, hb e, e]
    · rw [if_neg e]
  cases c <;> simp only [copyOk, e] at h ⊢ <;> exact h

/-- An arm's record changed, its outputs left to a refresh and its state to a report. -/
theorem Frame.modArmLoose {k : Reach} (s : State) (a : Arm) (f : ArmUnit → ArmUnit)
    (h1 : k.calm = true → (f (s.arm a)).state = .lowering → (s.arm a).state = .lowering)
    (h2 : k.calm = true → (f (s.arm a)).state.lowered = true → (s.arm a).state.lowered = true) :
    Frame (.both a) k s (s.modArm a f) :=
  { Frame.refl (.both a) k s with
    arms := fun b hb h => by
      rw [State.arm_modArm, if_neg fun e => hb (by rw [e]; rfl)]
      exact h
    copies := fun c b hb h => copyOk_modArm (fun e => absurd (.inl (by rw [e])) hb) h
    lowering := fun hk b hb => by
      rw [State.arm_modArm] at hb
      by_cases e : b = a
      · subst e; rw [if_pos rfl] at hb; exact h1 hk hb
      · rw [if_neg e] at hb; exact hb
    lowered := fun hk b hb => by
      rw [State.arm_modArm] at hb
      by_cases e : b = a
      · subst e; rw [if_pos rfl] at hb; exact h2 hk hb
      · rw [if_neg e] at hb; exact hb }

/-- An arm's record changed but not its state. -/
theorem Cascade.modArm (s : State) (a : Arm) (f : ArmUnit → ArmUnit)
    (hf : (s.arm a).lawful → (f (s.arm a)).lawful)
    (hs : (f (s.arm a)).state = (s.arm a).state := by rfl) : Cascade s (s.modArm a f) :=
  { Cascade.refl s with
    arms := fun b _ h => by
      rw [State.arm_modArm]
      by_cases e : b = a
      · subst e; rw [if_pos rfl]; exact hf h
      · rw [if_neg e]; exact h
    copies := fun c b _ h => copyOk_modArm (fun _ => hs) h
    lowering := fun _ b hb => by
      rw [State.arm_modArm] at hb
      by_cases e : b = a
      · subst e; rw [if_pos rfl, hs] at hb; exact hb
      · rw [if_neg e] at hb; exact hb
    lowered := fun _ b hb => by
      rw [State.arm_modArm] at hb
      by_cases e : b = a
      · subst e; rw [if_pos rfl, hs] at hb; exact hb
      · rw [if_neg e] at hb; exact hb }

/-- An arm's record changed but not its state, under that arm's exception. -/
theorem Frame.modArmKept {k : Reach} (s : State) (a : Arm) (f : ArmUnit → ArmUnit)
    (hs : (f (s.arm a)).state = (s.arm a).state) : Frame (.both a) k s (s.modArm a f) :=
  Frame.modArmLoose s a f (fun _ h => hs ▸ h) (fun _ h => hs ▸ h)

/-- The outputs of arm `a` refreshed: its exception ends but for the report. -/
theorem Frame.refreshed {k : Reach} {a : Arm} {s u : State} (h : Frame (.both a) k s u)
    (hu : (u.arm a).lawful) : Frame (.report a) k s u :=
  { h with
    arms := fun b _ hb => by
      by_cases e : b = a
      · subst e; exact hu
      · exact h.arms b (fun he => e (by cases he; rfl)) hb
    copies := fun c b hb => h.copies c b fun he => hb (by
      rcases he with he | he
      · cases he; exact .inr rfl
      · cases he) }

/-- The change of arm `a` reported: its exception ends. -/
theorem Frame.reported {k : Reach} {a : Arm} {s u : State} (h : Frame (.report a) k s u)
    (hu : ∀ c, copyOk c a u) : Frame .none k s u :=
  { h with
    arms := fun b _ => h.arms b nofun
    copies := fun c b _ hb => by
      by_cases e : b = a
      · subst e; exact hu c
      · exact h.copies c b (fun he => by
          rcases he with he | he
          · cases he
          · cases he; exact e rfl) hb }

theorem Cascade.needRealloc (s : State) : Cascade s s.needRealloc := Cascade.modWork s _ (h3 := fun _ => rfl)

theorem Cascade.needCeiling (s : State) : Cascade s s.needCeiling := Cascade.modWork s _

theorem Cascade.targeting (s : State) (b : Bool) : Cascade s (s.modWork fun w => { w with targeting := b }) :=
  Cascade.modWork s _

/-- A change of the flow record that brings a reallocation. -/
theorem Cascade.modFlowRealloc (s : State) (f : Flow → Flow)
    (hf : s.flow.listsLawful → (f s.flow).listsLawful ∧ (f s.flow).queue = s.flow.queue) :
    Cascade s ((s.modFlow f).needRealloc) :=
  { Cascade.refl s with
    flow := fun ⟨a, b, c, _⟩ => ⟨(hf a).1, b, fun x hx => by
      show x ∈ (f s.flow).queue
      rw [(hf a).2]; exact c x hx, nofun⟩
    reset := fun _ h => h }

/-- A change of the flow record that touches neither lists, grants, demands nor capacity. -/
theorem Cascade.modFlowIdle (s : State) (f : Flow → Flow)
    (hf : s.flow.listsLawful → (f s.flow).listsLawful) (hq : (f s.flow).queue = s.flow.queue)
    (hg : s.flow.grantsLawful → (f s.flow).grantsLawful) : Cascade s (s.modFlow f) :=
  { Cascade.refl s with
    flow := fun ⟨a, b, c, d⟩ => ⟨hf a, b, fun x hx => by
      show x ∈ (f s.flow).queue
      rw [hq]; exact c x hx, fun e => hg (d e)⟩ }

/-! ## Delivery and completion (R166, R167, R177) -/

theorem StationNotices.append_kept (v : StationNotices) (n : Notice) : NoticesKept v (v.append n) := by
  unfold StationNotices.append
  split
  · refine ⟨rfl, rfl, fun _ => ?_⟩
    simp only [List.length_append, List.length_singleton]
    omega
  · exact ⟨rfl, rfl, id⟩

theorem StationNotices.take_kept (v : StationNotices) (h : HeldRecord) : NoticesKept v (v.take h) := by
  unfold StationNotices.take
  simp only
  split
  · exact ⟨rfl, rfl, id⟩
  · exact ⟨(StationNotices.append_kept _ _).masks, (StationNotices.append_kept _ _).master,
      fun hq => (StationNotices.append_kept _ _).length hq⟩

theorem Cascade.deliver (r : Raise) (c : Option Completion) (s : State) : Cascade s (deliver r c s) :=
  { Cascade.refl s with
    notices := fun st => by
      simp only [Sys2Proof.Machine.deliver, State.modNotices, PerStation.get_of]
      split
      · exact StationNotices.take_kept _ _
      · exact .refl _
    away := fun st h => by
      simp only [Sys2Proof.Machine.deliver, State.modNotices, PerStation.get_of]
      rw [if_neg]
      simp only [State.reaches]
      split <;> simp [h] }

theorem Cascade.deliverPlain (r : Raise) (s : State) : Cascade s (deliverPlain r s) := Cascade.deliver r none s

theorem State.setReaction_get (s : State) (e k : EntryNo) (b : Option Binding) :
    (s.setReaction e b).reactions[k] = if k = e then b else s.reactions[k] := by
  show (s.reactions.set e b)[(k : Nat)] = _
  rw [Vector.getElem_set]
  by_cases h : k = e
  · subst h; simp
  · rw [if_neg h, if_neg fun e' => h (Fin.ext e'.symm)]
    rfl

/-- An entry that keeps all but its held raise, or goes where it is DRAINING. -/
theorem Cascade.setReaction (s : State) (e : EntryNo) (b : Binding) (n : Option Binding) (hb : s.reactions[e] = some b)
    (hn : (∃ c, n = some c ∧ c.same b) ∨ n = none ∧ b.enabled = false) : Cascade s (s.setReaction e n) :=
  { Cascade.refl s with
    reactions := by
      constructor
      · intro k c hk he
        rw [State.setReaction_get]
        by_cases h : k = e
        · subst h
          rw [if_pos rfl]
          rw [hb] at hk
          cases hk
          rcases hn with hn | ⟨_, hn⟩
          · exact hn
          · rw [hn] at he; cases he
        · rw [if_neg h]
          exact ⟨c, hk, .refl c⟩
      · intro k c hk
        rw [State.setReaction_get] at hk
        by_cases h : k = e
        · subst h
          rw [if_pos rfl] at hk
          rcases hn with ⟨d, hd, hs⟩ | ⟨hd, _⟩
          · rw [hk] at hd
            cases hd
            exact ⟨b, hb, hs⟩
          · rw [hk] at hd; cases hd
        · rw [if_neg h] at hk
          exact ⟨c, hk, .refl c⟩ }

theorem Cascade.release (e : EntryNo) (k : Raise → State → State) (hk : ∀ r u, Cascade u (k r u)) (s : State) :
    Cascade s (release e k s) := by
  unfold Sys2Proof.Machine.release
  split
  · exact .refl _
  · rename_i b hb
    split
    · exact .refl _
    · refine (Cascade.setReaction s e b _ hb ?_).andThen (hk _ _)
      split
      · exact .inl ⟨_, rfl, rfl⟩
      · rename_i h
        exact .inr ⟨rfl, by simpa using h⟩

theorem Cascade.completeWith (e : EntryNo) (o : ActionOutcome) (z : ZoneSet) (s : State) :
    Cascade s (completeWith e o z s) := Cascade.release e _ (fun r u => Cascade.deliver r _ u) s

theorem Cascade.complete (e : EntryNo) (o : ActionOutcome) (s : State) : Cascade s (complete e o s) :=
  Cascade.completeWith e o _ s

theorem Cascade.foldl {α : Type} (l : List α) (f : State → α → State) (hf : ∀ u a, Cascade u (f u a)) (s : State) :
    Cascade s (l.foldl f s) := by
  induction l generalizing s with
  | nil => exact .refl _
  | cons a l ih => exact (hf s a).andThen (ih (f s a))

theorem Cascade.completeAll (p : Action → Bool) (o : ActionOutcome) (s : State) : Cascade s (completeAll p o s) :=
  Cascade.foldl _ _ (fun u e => Cascade.complete e o u) s

end Sys2Proof.Machine
end

