-- ==== Sys2Proof/Laws/CascadeTravel.lean ====
section
/-! SUPPORT. The Travel Governor's and the Flow Arbiter's operations stay within a cascade. -/

namespace Sys2Proof.Machine

set_option Elab.async false

/-! ## Travel Governor -/

theorem Cascade.raiseAll {raise : Raiser} (hr : ∀ r u, Cascade u (raise r u)) (l : List Raise) (s : State) :
    Cascade s (raiseAll raise l s) := by
  induction l generalizing s with
  | nil => exact .refl _
  | cons r l ih => exact (hr r s).trans (ih (raise r s))

theorem Cascade.holdReached (s : State) : Cascade s (holdReached s) := by
  refine Cascade.foldl _ _ (fun u p => ?_) s
  split
  · rename_i b hb
    split
    · exact Cascade.setReaction u p.1 b _ hb (.inl ⟨_, rfl, rfl⟩)
    · exact .refl _
  · exact .refl _

theorem Cascade.freeReached (s : State) : Cascade s (freeReached s) := by
  refine Cascade.foldl _ _ (fun u p => ?_) s
  split
  · exact Cascade.release _ _ (fun _ v => .refl v) _
  · exact .refl _

theorem Cascade.ceilingCheck {raise : Raiser} (hr : ∀ r u, Cascade u (raise r u)) (s : State) :
    Cascade s (ceilingCheck raise s) := by
  unfold Sys2Proof.Machine.ceilingCheck
  split
  · have h : Cascade s ((s.modTravel fun g =>
        { g with ceiling := s.lowestSource.1, limiting := s.lowestSource.2 }).modWork fun w =>
          { w with ceiling := false }) :=
      (Cascade.modTravel s _ id).trans (Cascade.modWork _ _)
    dsimp only
    split
    · exact h
    · exact ((h.trans (Cascade.modWork _ _)).trans (Cascade.holdReached _)).trans (hr _ _)
  · exact .refl _

/-- R185: a reset is set only while one is pending. -/
theorem Cascade.settledTest (s : State) : Cascade s (settledTest s) := by
  unfold Sys2Proof.Machine.settledTest
  split
  · rename_i h
    refine { Cascade.refl s with reset := fun hp => ?_ }
    rw [hp] at h
    simp at h
  · exact .refl _

theorem Cascade.stopTest (s : State) : Cascade s (stopTest s) := by
  unfold Sys2Proof.Machine.stopTest
  split
  · rename_i h
    have hp : s.travel.state = .parked → TravelState.hold = .parked := fun e => by rw [e] at h; simp at h
    split
    · exact ((Cascade.modTravel s _ id (fun _ => rfl)).trans (Cascade.completeAll _ _ _)).trans
        (Cascade.settledTest _)
    · exact (Cascade.modTravel s _ id hp).trans (Cascade.completeAll _ _ _)
  · exact .refl _

theorem Cascade.enterStopping (add : StopCauses → StopCauses) (s : State) : Cascade s (enterStopping add s) := by
  unfold Sys2Proof.Machine.enterStopping
  split
  · rename_i h
    exact (Cascade.modTravel s _ id fun e => by rw [h] at e; cases e).trans (Cascade.stopTest _)
  · rename_i h
    exact (Cascade.modTravel s _ id fun e => by rw [h] at e; cases e).trans (Cascade.stopTest _)
  · exact Cascade.modTravel s _ id
  · exact .refl _

theorem Cascade.travelHolderGone (s : State) : Cascade s (travelHolderGone s) := by
  unfold Sys2Proof.Machine.travelHolderGone
  split
  · exact Cascade.enterStopping _ _
  · exact .refl _

theorem Travel.setpointLawful_congr {g h : Travel} (h1 : h.setpoint = g.setpoint) (h2 : h.reverseOpen = g.reverseOpen)
    (h3 : h.armStowed = g.armStowed) (k : g.setpointLawful) : h.setpointLawful := by
  unfold Travel.setpointLawful at k ⊢
  rw [h1, h2, h3]
  exact k

/-- R107 changes the overspeed timer and mark alone. -/
theorem Travel.testOverspeed_eq (g : Travel) : ∃ m b, g.testOverspeed = { g with overspeedTimer := m, overspeedExpired := b } := by
  unfold Travel.testOverspeed
  split
  · exact ⟨_, _, rfl⟩
  · split
    · split
      · exact ⟨_, _, rfl⟩
      · exact ⟨_, _, rfl⟩
    · exact ⟨_, _, rfl⟩

theorem Cascade.overspeedTest (s : State) : Cascade s (overspeedTest s) := by
  obtain ⟨m, b, h⟩ := Travel.testOverspeed_eq s.travel
  have e : Sys2Proof.Machine.overspeedTest s = s.modTravel fun g => { g with overspeedTimer := m, overspeedExpired := b } := by
    simp only [Sys2Proof.Machine.overspeedTest, State.modTravel, h]
  rw [e]
  exact Cascade.modTravel s _ id

theorem Cascade.capAction (e : EntryNo) (v : Nat) (s : State) : Cascade s (capAction e v s) := by
  unfold Sys2Proof.Machine.capAction
  have h := (Cascade.modTravel s (fun g => { g with caps := g.caps.set e (some v) }) id).trans (Cascade.needCeiling _)
  dsimp only
  split
  · exact h.trans (Cascade.release e _ (fun _ u => Cascade.modWork u _) _)
  · exact h

theorem Cascade.deliverReached (s : State) : Cascade s (deliverReached s) :=
  ((Cascade.freeReached s).trans (Cascade.modWork _ fun w => { w with reached := [] })).trans
    (Cascade.foldl _ _ (fun u (p : EntryNo × Raise) => Cascade.deliver p.2 _ u) _)

theorem Cascade.capTest (s : State) : Cascade s (capTest s) :=
  Cascade.foldl _ _ (fun u e => Cascade.complete e _ u) _

theorem Cascade.removeCap (e : EntryNo) (s : State) : Cascade s (removeCap e s) :=
  (Cascade.modTravel s _ id).trans (Cascade.needCeiling _)

theorem Cascade.clearCaps (s : State) : Cascade s (clearCaps s) := by
  unfold Sys2Proof.Machine.clearCaps
  dsimp only
  refine Frame.trans ?_ (Cascade.completeAll _ _ _)
  split
  · exact (Cascade.modTravel s _ id).trans (Cascade.needCeiling _)
  · exact Cascade.modTravel s _ id

theorem Cascade.stopAction (e : EntryNo) (s : State) : Cascade s (stopAction e s) := by
  unfold Sys2Proof.Machine.stopAction
  split
  · exact Cascade.complete _ _ _
  · exact Cascade.enterStopping _ _

/-- R106: the setpoint turns to zero when the arms no longer all stand STOWED; the TG's copy takes the arm's state. -/
theorem Frame.travelTakesArm {k : Reach} (a : Arm) {st : ArmState}
    (s : State) (hst : (s.arm a).state = st) :
    Frame (.report a) k s (travelTakesArm a (st == .stowed) (st == .lowering || st == .raising) s) ∧
      copyOk .travel a (travelTakesArm a (st == .stowed) (st == .lowering || st == .raising) s) := by
  unfold Sys2Proof.Machine.travelTakesArm
  dsimp only
  generalize hu : (if (s.travel.armMoving.get a != (st == .lowering || st == .raising)) = true then _ else _ : State) = t
  have ht : t.travel.setpoint = s.travel.setpoint ∧ t.travel.reverseOpen = s.travel.reverseOpen ∧
      ∀ f : Travel → Travel, (s.travel.setpointLawful → (f t.travel).setpointLawful) →
        (∀ g, (f g).armStowed = g.armStowed ∧ (f g).armMoving = g.armMoving ∧ (f g).state = g.state ∧
          (f g).safeStop = g.safeStop ∧ (f g).waterEmpty = g.waterEmpty) →
        Frame (.report a) k s (t.modTravel f) ∧ copyOk .travel a (t.modTravel f) := by
    have hx : ∀ f : Travel → Travel, (∀ g, (f g).armStowed = g.armStowed ∧ (f g).armMoving = g.armMoving ∧
          (f g).state = g.state ∧ (f g).safeStop = g.safeStop ∧ (f g).waterEmpty = g.waterEmpty) →
        (s.travel.setpointLawful → (f { s.travel with
          armStowed := s.travel.armStowed.set a (st == .stowed),
          armMoving := s.travel.armMoving.set a (st == .lowering || st == .raising) }).setpointLawful) →
        Frame (.report a) k s (s.modTravel fun g => f { g with
          armStowed := g.armStowed.set a (st == .stowed),
          armMoving := g.armMoving.set a (st == .lowering || st == .raising) }) := fun f hg hf =>
      Frame.modTravelLoose s a _ hf (fun b hb => by rw [(hg _).1, PerArm.get_set, if_neg hb])
        (fun b hb => by rw [(hg _).2.1, PerArm.get_set, if_neg hb]) (hg _).2.2.1 (hg _).2.2.2.1 (hg _).2.2.2.2
    have hc : ∀ f : Travel → Travel, (∀ g, (f g).armStowed = g.armStowed ∧ (f g).armMoving = g.armMoving ∧
          (f g).state = g.state ∧ (f g).safeStop = g.safeStop ∧ (f g).waterEmpty = g.waterEmpty) →
        copyOk .travel a (s.modTravel fun g => f { g with
          armStowed := g.armStowed.set a (st == .stowed),
          armMoving := g.armMoving.set a (st == .lowering || st == .raising) }) := fun f hg => by
      show (f _).armStowed.get a = ((s.arm a).state == _) ∧ (f _).armMoving.get a = ((s.arm a).state == _ || (s.arm a).state == _)
      rw [(hg _).1, (hg _).2.1, hst]
      exact ⟨by rw [PerArm.get_set, if_pos rfl], by rw [PerArm.get_set, if_pos rfl]⟩
    rw [← hu]
    split
    · exact ⟨rfl, rfl, fun f hf hg => ⟨(hx f hg hf).andThen (Cascade.needCeiling _), hc f hg⟩⟩
    · exact ⟨rfl, rfl, fun f hf hg => ⟨hx f hg hf, hc f hg⟩⟩
  obtain ⟨h1, h2, h3⟩ := ht
  split
  · obtain ⟨h4, h5⟩ := h3 (fun g => { g with reverseOpen := false, setpoint := max g.setpoint 0 }) (fun _ => by
      refine ⟨fun h => ?_, nofun⟩
      have h' : max t.travel.setpoint 0 < 0 := h
      omega) fun _ => ⟨rfl, rfl, rfl, rfl, rfl⟩
    split
    · exact ⟨h4.andThen (Cascade.modWork _ _), h5⟩
    · exact ⟨h4, h5⟩
  · rename_i h
    refine h3 _ (fun hl => ⟨fun hneg => ?_, id⟩) fun _ => ⟨rfl, rfl, rfl, rfl, rfl⟩
    have hopen : s.travel.reverseOpen = true := hl.1 (by rw [← h1]; exact hneg)
    simpa [hopen] using h

theorem Cascade.raiseBlocked {raise : Raiser} (hr : ∀ r u, Cascade u (raise r u)) (s : State) :
    Cascade s (raiseBlocked raise s) := by
  unfold Sys2Proof.Machine.raiseBlocked
  split
  · exact (Cascade.modWork s _).trans (hr _ _)
  · exact .refl _

theorem rampStep_neg {p t a d : Int} (ha : 0 ≤ a) (h : rampStep p t a d < 0) : p < 0 ∨ t < 0 := by
  unfold rampStep at h
  split at h
  · split at h <;> omega
  · split at h
    · left; assumption
    · split at h <;> omega

theorem State.rampTarget_neg {s : State} (h : s.rampTarget < 0) : s.travel.reverseOpen = true := by
  unfold State.rampTarget at h
  split at h
  · split at h
    · omega
    · by_contra hn
      have : s.reverseCeiling = 0 := by simp [State.reverseCeiling, hn]
      rw [this] at h
      omega
  · omega

theorem Cascade.rampMove (s : State) : Cascade s (rampMove s) := by
  refine Cascade.modTravel s _ (fun h => ⟨fun hneg => ?_, h.2⟩)
  rcases rampStep_neg (Int.natCast_nonneg _) hneg with h' | h'
  · exact h.1 h'
  · exact State.rampTarget_neg h'

theorem Cascade.rampState (s : State) : Cascade s (rampState s) := by
  unfold Sys2Proof.Machine.rampState
  split
  · rename_i h
    exact Cascade.modTravel s _ id fun e => by rw [e] at h; simp at h
  · exact Cascade.stopTest _

theorem Cascade.rampExpiry (s : State) : Cascade s (rampExpiry s) :=
  ((((Cascade.modTravel s _ id).trans (Cascade.rampMove _)).trans (Cascade.rampState _)).trans (Cascade.overspeedTest _)).trans
    (Cascade.capTest _)

/-! ## Flow Arbiter -/

theorem Cascade.recomputeCapacity (s : State) : Cascade s (recomputeCapacity s) := by
  unfold Sys2Proof.Machine.recomputeCapacity
  split
  · exact .refl _
  · exact Cascade.modFlowRealloc s _ fun h => ⟨h, rfl⟩

theorem Cascade.postRotation (a : Arm) (d : Nat) (s : State) : Cascade s (postRotation a d s) := by
  unfold Sys2Proof.Machine.postRotation
  split
  · exact .refl _
  · exact Cascade.modFlowRealloc s _ fun h => ⟨h, rfl⟩

theorem Cascade.postPump (d : Nat) (s : State) : Cascade s (postPump d s) := by
  unfold Sys2Proof.Machine.postPump
  split
  · exact .refl _
  · exact Cascade.modFlowRealloc s _ fun h => ⟨h, rfl⟩

theorem Cascade.postLift (a : Arm) (s : State) : Cascade s (postLift a s) := by
  unfold Sys2Proof.Machine.postLift
  have h := Cascade.modArm s a (fun u => { u with liftPosted := true }) id
  dsimp only
  split
  · rename_i hd
    refine h.trans { Cascade.refl _ with flow := fun ⟨f1, f2, f3, _⟩ => ?_, reset := fun _ h => h }
    obtain ⟨nq, _, _⟩ := f1.posted hd.1
    refine ⟨Flow.listsLawful_post f1 hd.1 hd.2, ?_, ?_, nofun⟩
    · show (s.work.newLifts ++ [a]).Nodup
      rw [List.nodup_append]
      refine ⟨f2, by simp, fun x hx y hy e => ?_⟩
      simp only [List.mem_singleton] at hy
      subst hy; subst e
      exact nq (f3 _ hx)
    · intro x hx
      show x ∈ s.flow.queue ++ [a]
      rcases List.mem_append.1 hx with hx | hx
      · exact List.mem_append.2 (.inl (f3 x hx))
      · exact List.mem_append.2 (.inr hx)
  · exact h

theorem Cascade.withdrawLift (a : Arm) (s : State) : Cascade s (withdrawLift a s) := by
  unfold Sys2Proof.Machine.withdrawLift
  have h := Cascade.modArm s a (fun u => { u with liftPosted := false, liftGrant := 0 }) id
  dsimp only
  split
  · exact h
  · refine h.trans { Cascade.refl _ with flow := fun ⟨f1, f2, f3, _⟩ => ?_, reset := fun _ h => h }
    refine ⟨Flow.listsLawful_withdraw f1 a, f2.filter _, fun x hx => ?_, nofun⟩
    show x ∈ s.flow.queue.filter (· != a)
    have hx' : x ∈ s.work.newLifts.filter (· != a) := hx
    rw [List.mem_filter] at hx' ⊢
    exact ⟨f3 x hx'.1, hx'.2⟩

theorem pick_perm (n : Nat) (l : List Arm) : (pick n l).Perm l := by
  unfold pick
  split
  · split
    · exact .refl _
    · exact List.Perm.swap _ _ _
  · rename_i x y z
    split
    · exact .refl _
    · exact (List.Perm.swap _ _ _).cons _
    · exact List.Perm.swap _ _ _
    · exact (List.Perm.trans (List.Perm.cons _ (List.Perm.swap _ _ _)) (List.Perm.swap _ _ _))
    · exact (List.Perm.trans (List.Perm.swap _ _ _) (List.Perm.cons _ (List.Perm.swap _ _ _)))
    · exact List.Perm.trans (List.Perm.swap _ _ _)
        (List.Perm.trans (List.Perm.cons _ (List.Perm.swap _ _ _)) (List.Perm.swap _ _ _))
  · exact .refl _

/-- The queue of R158 in its chosen order holds the same lifts, each once. -/
theorem ordered_queue {q n : List Arm} (hq : q.Nodup) (hn : n.Nodup) (hs : ∀ a ∈ n, a ∈ q) (k : Nat) :
    (q.filter (fun a => !n.contains a) ++ pick k n).Nodup ∧
      ∀ a, a ∈ q.filter (fun a => !n.contains a) ++ pick k n ↔ a ∈ q := by
  have hp := pick_perm k n
  refine ⟨?_, fun a => ?_⟩
  · rw [List.nodup_append]
    refine ⟨hq.filter _, hp.nodup_iff.2 hn, fun x hx y hy e => ?_⟩
    subst e
    have := hp.mem_iff.1 hy
    simp [this] at hx
  · rw [List.mem_append, List.mem_filter, hp.mem_iff]
    by_cases h : a ∈ n
    · simp [h, hs a h]
    · simp [h]

/-- The queue ordered, nothing newly posted any more. -/
theorem orderPosted_lists (s : State) (h1 : s.flow.listsLawful) (h2 : s.work.newLifts.Nodup)
    (h3 : ∀ a ∈ s.work.newLifts, a ∈ s.flow.queue) :
    (orderPosted s).flow.listsLawful ∧ (orderPosted s).work.newLifts = [] := by
  unfold orderPosted
  dsimp only
  split
  · obtain ⟨n1, n2⟩ := ordered_queue h1.1 h2 h3 (Config.postOrder s.freeCount)
    exact ⟨⟨n1, h1.2.1, h1.2.2.1, fun a => (n2 a).trans (h1.2.2.2.1 a), h1.2.2.2.2⟩, rfl⟩
  · exact ⟨h1, rfl⟩

theorem ArmUnit.takeLift_lawful (u : ArmUnit) (g m : Nat) (h : u.lawful) : (u.takeLift g m).lawful := by
  obtain ⟨h1, h2, h3⟩ := h
  unfold ArmUnit.takeLift
  split
  · refine ⟨fun h => ⟨?_, rfl⟩, fun h => ⟨?_, rfl⟩, h3⟩
    · simpa using h
    · simpa using h
  · split
    · exact ⟨nofun, nofun, h3⟩
    · exact ⟨h1, h2, h3⟩

theorem ArmUnit.rotOut_ne {u : ArmUnit} {n : Nat} (h : u.rotOut n ≠ 0) : u.state = .working ∨ u.state = .deflected := by
  unfold ArmUnit.rotOut at h
  split at h
  · rename_i hs; simpa using hs
  · exact absurd rfl h

theorem ArmUnit.takeRotation_lawful (u : ArmUnit) (g n : Nat) (h : u.lawful) : (u.takeRotation g n).lawful :=
  ⟨h.1, h.2.1, fun hr => ArmUnit.rotOut_ne (u := { u with rotGrant := g }) hr⟩

theorem Spray.takeGrant_lawful (v : Spray) (g n m : Nat) (h : ∀ z, v.valveLawful z) (z : Zone) :
    (v.takeGrant g n m).valveLawful z := h z

theorem ArmUnit.takeLift_state (u : ArmUnit) (g m : Nat) : (u.takeLift g m).state = u.state := by
  unfold ArmUnit.takeLift
  split
  · rfl
  · split <;> rfl

/-- Every arm's record changed but no arm's state. -/
theorem Cascade.modArms (s : State) (f : PerArm ArmUnit → PerArm ArmUnit)
    (hf : ∀ a, (s.arm a).lawful → ((f s.arms).get a).lawful)
    (hs : ∀ a, ((f s.arms).get a).state = (s.arm a).state) : Cascade s (s.modArms f) :=
  { Cascade.refl s with
    arms := fun a _ h => hf a h
    copies := fun c a _ h => by
      have e : ((s.modArms f).arm a).state = (s.arm a).state := hs a
      cases c <;> simp only [copyOk, e] at h ⊢ <;> exact h
    lowering := fun _ a h => hs a ▸ h
    lowered := fun _ a h => hs a ▸ h }

theorem Cascade.postGrants (s : State) : Cascade s (postGrants s) := by
  refine Frame.trans (t := s.modArms _) (Cascade.modArms s _ (fun a h => ?_) fun a => ?_)
    (Cascade.modSpray _ _ fun h z => Spray.takeGrant_lawful _ _ _ _ h z)
  · rw [PerArm.get_of]
    exact ArmUnit.takeRotation_lawful _ _ _ (ArmUnit.takeLift_lawful _ _ _ h)
  · rw [PerArm.get_of]
    exact ArmUnit.takeLift_state _ _ _

theorem Travel.takeOffer_lawful (g : Travel) (o : Nat) (h : g.setpointLawful) : (g.takeOffer o).setpointLawful := h

theorem Cascade.handOffer (was : Bool) (s : State) : Cascade s (handOffer was s) := by
  unfold Sys2Proof.Machine.handOffer
  split
  · have h : Cascade s ((s.modFlow fun f => { f with lastOffer := some (s.flow.offerAt s.capture.wheelSpeed) }).modTravel
        fun g => g.takeOffer (s.flow.offerAt s.capture.wheelSpeed)) :=
      (Cascade.modFlowIdle s _ id rfl id).trans (Cascade.modTravel _ _ id)
    dsimp only
    split
    · exact h
    · exact h.trans (Cascade.needCeiling _)
  · split
    · exact Cascade.modTravel s _ id
    · exact .refl _

theorem Cascade.setShortFlags (s : State) : Cascade s (setShortFlags s) := Cascade.modFlowIdle s _ id rfl id

/-- All but the flow record and the lifts newly posted stands when the queue is ordered. -/
theorem orderPosted_rest (s : State) (f : Flow → Flow)
    (hf : FlowOk s.flow s.work → FlowOk (f (orderPosted s).flow) (orderPosted s).work) :
    Cascade s ((orderPosted s).modFlow f) := by
  unfold orderPosted at hf ⊢
  dsimp only at hf ⊢
  split
  · rename_i hl
    rw [if_pos hl] at hf
    exact { Cascade.refl s with flow := hf, reset := fun _ h => h }
  · rename_i hl
    rw [if_neg hl] at hf
    exact { Cascade.refl s with flow := hf, reset := fun _ h => h }

/-- R157 to R161: the flow settled. -/
theorem Cascade.settleFlow (s : State) :
    Cascade s ((orderPosted (s.modWork fun w => { w with realloc := false })).modFlow Flow.settle) := by
  have h : Cascade (s.modWork fun w => { w with realloc := true }) _ :=
    orderPosted_rest (s.modWork fun w => { w with realloc := true }) Flow.settle fun ⟨f1, f2, f3, _⟩ => by
      obtain ⟨g1, g2⟩ := orderPosted_lists (s.modWork fun w => { w with realloc := true }) f1 f2 f3
      obtain ⟨k1, k2⟩ := Flow.settle_lawful _ g1
      exact ⟨k1, by rw [g2]; exact List.nodup_nil, by rw [g2]; exact nofun, fun _ => k2⟩
  have h' : Cascade s ((orderPosted (s.modWork fun w => { w with realloc := true })).modFlow Flow.settle) :=
    (Cascade.needRealloc s).trans h
  have e : (orderPosted (s.modWork fun w => { w with realloc := false })).modFlow Flow.settle =
      ((orderPosted (s.modWork fun w => { w with realloc := true })).modFlow Flow.settle).modWork
        fun w => { w with realloc := false } := by
    have key : ∀ b, orderPosted (s.modWork fun w => { w with realloc := b }) =
        (orderPosted s).modWork fun w => { w with realloc := b } := fun b => by
      unfold orderPosted
      by_cases hl : 2 ≤ s.work.newLifts.length
      · have hl' : 2 ≤ (s.modWork fun w => { w with realloc := b }).work.newLifts.length := hl
        simp only [if_pos hl, if_pos hl']
        rfl
      · have hl' : ¬ 2 ≤ (s.modWork fun w => { w with realloc := b }).work.newLifts.length := hl
        simp only [if_neg hl, if_neg hl']
        rfl
    rw [key, key]
    rfl
  rw [e]
  refine { h' with flow := fun hf => ?_, reset := fun hp hr => h'.reset hp hr }
  obtain ⟨f1, f2, f3, _⟩ := hf
  obtain ⟨g1, g2⟩ := orderPosted_lists (s.modWork fun w => { w with realloc := true }) f1 f2 f3
  obtain ⟨k1, k2⟩ := Flow.settle_lawful _ g1
  refine ⟨k1, ?_, ?_, fun _ => k2⟩
  · show (orderPosted _).work.newLifts.Nodup
    rw [g2]; exact List.nodup_nil
  · show ∀ a ∈ (orderPosted _).work.newLifts, _
    rw [g2]; exact nofun

theorem Cascade.reallocate (s : State) : Cascade s (reallocate s).1 :=
  (((Cascade.settleFlow s).trans (Cascade.postGrants _)).trans (Cascade.setShortFlags _)).trans (Cascade.handOffer _ _)

end Sys2Proof.Machine
end

