-- ==== Sys2Proof/Laws/CascadeArms.lean ====
section
/-! SUPPORT. The Spray Unit's, the Water Account's, the Profile Unit's and the Arm Units' operations stay within a
cascade. -/

namespace Sys2Proof.Machine

set_option Elab.async false

/-! ## Spray Unit and Water Account -/

/-- R136, R137: an evaluation makes every zone lawful. -/
theorem Spray.evaluate_lawful (v : Spray) (z : Zone) : v.evaluate.valveLawful z := by
  have hz : v.evaluate.zones.get z = v.decide z := PerZone.get_of _ _
  have hv : v.evaluate.valves.get z = (v.evaluate.zones.get z == .on) := PerZone.get_map _ _ _
  unfold Spray.valveLawful
  rw [hv, hz]
  refine ⟨fun h => by simpa using h, fun h => ?_⟩
  show v.waterState ≠ .empty ∧ v.frost = false ∧ v.safeStop = false ∧
    ∀ a, z.arm = some a → v.armState.get a = .working
  unfold Spray.decide at h
  by_cases c1 : v.frost = true
  · simp [c1] at h
  by_cases c2 : v.waterState = .empty
  · simp [c1, c2] at h
  by_cases c3 : v.safeStop = true
  · simp [c1, c2, c3] at h
  by_cases c4 : v.brushUp z = true
  · simp only [c1, c3, c4, beq_iff_eq, c2, if_false, if_true] at h
    repeat' split at h
    all_goals cases h
  by_cases c5 : v.brushDeflected z = true
  · simp only [c1, c3, c4, c5, beq_iff_eq, c2, if_false, if_true] at h
    repeat' split at h
    all_goals cases h
  refine ⟨c2, by simpa using c1, by simpa using c3, fun a ha => ?_⟩
  unfold Spray.brushUp at c4
  unfold Spray.brushDeflected at c5
  rw [ha] at c4 c5
  simp only at c4 c5
  revert c4 c5
  cases v.armState.get a <;> simp [ArmState.isDown]

theorem evaluateZones_rest (s : State) : (evaluateZones s).travel = s.travel ∧ (evaluateZones s).arms = s.arms ∧
    (evaluateZones s).water = s.water ∧ (evaluateZones s).supervision = s.supervision ∧
    (evaluateZones s).spray.armState = s.spray.armState ∧ (evaluateZones s).spray.safeStop = s.spray.safeStop ∧
    (evaluateZones s).spray.waterState = s.spray.waterState := by
  unfold evaluateZones postPump
  dsimp only
  split <;> exact ⟨rfl, rfl, rfl, rfl, rfl, rfl, rfl⟩

/-- An evaluation leaves the valve law, whatever stood before it. -/
theorem evaluateZones_valveLaw (s : State) : valveLaw (evaluateZones s) := by
  unfold evaluateZones postPump
  dsimp only
  split <;> exact fun z => Spray.evaluate_lawful s.spray z

theorem Cascade.evaluateZones (s : State) (f : Spray → Spray)
    (ha : (f s.spray).armState = s.spray.armState := by rfl)
    (hz : (f s.spray).safeStop = s.spray.safeStop := by rfl)
    (hw : (f s.spray).waterState = s.spray.waterState := by rfl)
    (hf : (f s.spray).frost = s.spray.frost := by rfl) : Cascade s (evaluateZones (s.modSpray f)) := by
  unfold Sys2Proof.Machine.evaluateZones
  dsimp only
  refine Frame.trans ?_ (Cascade.postPump _ _)
  exact Cascade.modSpray s (fun _ => _) (fun _ z => Spray.evaluate_lawful (f s.spray) z) ha hz hw hf

/-- The Spray Unit's copy of arm `a` takes the arm's state. -/
theorem Frame.sprayTakesArm {k : Reach} (a : Arm) (s : State) : Frame (.report a) k s (sprayTakesArm a (s.arm a).state s) := by
  unfold Sys2Proof.Machine.sprayTakesArm Sys2Proof.Machine.evaluateZones
  dsimp only
  refine Frame.andThen ?_ (Cascade.postPump _ _)
  exact Frame.modSprayLoose s a (fun _ => _)
    (Spray.evaluate_lawful { s.spray with armState := s.spray.armState.set a (s.arm a).state })
    (fun b hb => by
      show (s.spray.armState.set a _).get b = _
      rw [PerArm.get_set, if_neg hb]) rfl rfl rfl

theorem sprayTakesArm_copy (a : Arm) (s : State) : copyOk .spray a (sprayTakesArm a (s.arm a).state s) := by
  unfold sprayTakesArm
  have h := evaluateZones_rest (s.modSpray fun v => { v with armState := v.armState.set a (s.arm a).state })
  show (evaluateZones _).spray.armState.get a = ((evaluateZones _).arms.get a).state
  rw [h.2.2.2.2.1, h.2.1]
  show (s.spray.armState.set a _).get a = _
  rw [PerArm.get_set, if_pos rfl]
  rfl

theorem Cascade.forceZones (e : EntryNo) (z : Option Zone) (s : State) : Cascade s (forceZones e z s) :=
  (Cascade.evaluateZones s _).trans (Cascade.completeWith _ _ _ _)

/-- A FROST event, from the state that holds the new level. -/
theorem Cascade.sprayTakesFrost {raise : Raiser} (hr : ∀ r u, Cascade u (raise r u)) (on : Bool) (s : State) :
    Cascade (s.modSpray fun v => { v with frost := on }) (sprayTakesFrost raise on s) := by
  have h : Cascade (s.modSpray fun v => { v with frost := on })
      (Sys2Proof.Machine.evaluateZones (s.modSpray fun v => { v with frost := on })) :=
    Cascade.evaluateZones (s.modSpray fun v => { v with frost := on }) id
  unfold Sys2Proof.Machine.sprayTakesFrost
  dsimp only
  split
  · exact h.trans (hr _ _)
  · exact h

/-- A FROST event leaves the valve law, whatever stood before it. -/
theorem sprayTakesFrost_valveLaw {raise : Raiser} (hr : ∀ r u, Cascade u (raise r u)) (on : Bool) (s : State) :
    valveLaw (sprayTakesFrost raise on s) := by
  unfold sprayTakesFrost
  dsimp only
  split
  · exact (hr _ _).spray (evaluateZones_valveLaw _)
  · exact evaluateZones_valveLaw _

theorem Spray.dwellStep_kept (v : Spray) : v.dwellStep.armState = v.armState ∧ v.dwellStep.safeStop = v.safeStop ∧
    v.dwellStep.waterState = v.waterState ∧ v.dwellStep.frost = v.frost := by
  unfold Spray.dwellStep
  split
  · split
    · split <;> exact ⟨rfl, rfl, rfl, rfl⟩
    · exact ⟨rfl, rfl, rfl, rfl⟩
  · split <;> exact ⟨rfl, rfl, rfl, rfl⟩

theorem Cascade.sprayTakesSpeed (v : Int) (s : State) : Cascade s (sprayTakesSpeed v s) :=
  Cascade.evaluateZones s _ (Spray.dwellStep_kept _).1 (Spray.dwellStep_kept _).2.1 (Spray.dwellStep_kept _).2.2.1
    (Spray.dwellStep_kept _).2.2.2

theorem Cascade.dryRunPulse (s : State) : Cascade s (dryRunPulse s) := by
  have e : ∃ m, Sys2Proof.Machine.dryRunPulse s = s.modSpray fun v => { v with dryRunTimer := m } := by
    by_cases h : 0 < s.spray.pumpGrant
    · exact ⟨.running (s.item 29), by simp only [Sys2Proof.Machine.dryRunPulse, State.modSpray, if_pos h]⟩
    · exact ⟨s.spray.dryRunTimer, by simp only [Sys2Proof.Machine.dryRunPulse, State.modSpray, if_neg h]⟩
  obtain ⟨m, e⟩ := e
  rw [e]
  exact Cascade.modSpray s _ fun h z => h z

/-- Handing the water state on makes its copies agree. -/
theorem Frame.handWater (s : State) : Frame .none .water s (handWater s) := by
  set u := Sys2Proof.Machine.evaluateZones (s.modSpray fun v => { v with waterState := s.water.state }) with hu
  have e := evaluateZones_rest (s.modSpray fun v => { v with waterState := s.water.state })
  have h : Frame .none .water s u := by
    have h0 : Frame .none .water (s.modSpray fun v => { v with waterState := s.water.state }) u :=
      Cascade.to (Cascade.evaluateZones (s.modSpray fun v => { v with waterState := s.water.state }) id)
    exact { h0 with
      spray := fun _ => evaluateZones_valveLaw _
      waterCopy := fun hw => ⟨by rw [hu, e.2.2.2.2.2.2, e.2.2.1]; rfl, by rw [hu, e.1, e.2.2.1]; exact hw.2⟩
      waterKept := nofun }
  unfold Sys2Proof.Machine.handWater Sys2Proof.Machine.sprayTakesWater
  dsimp only
  rw [← hu]
  split
  · exact h
  · refine Frame.andThen ?_ (Cascade.needCeiling _)
    have h1 : Frame .none .water u (u.modTravel fun g => { g with waterEmpty := s.water.state == .empty }) :=
      { Frame.refl .none .water u with
        waterCopy := fun hw => ⟨hw.1, by
          show (s.water.state == .empty) = (u.water.state == .empty)
          rw [hu, e.2.2.1]; rfl⟩
        waterKept := nofun }
    exact h.trans h1

/-- From a state whose water state is not handed on yet, handing it on makes the copies agree. -/
theorem handWater_copies (s : State) : waterCopyLaw (handWater s) := by
  set u := evaluateZones (s.modSpray fun v => { v with waterState := s.water.state }) with hu
  have e := evaluateZones_rest (s.modSpray fun v => { v with waterState := s.water.state })
  have e1 : u.spray.waterState = u.water.state := by rw [hu, e.2.2.2.2.2.2, e.2.2.1]; rfl
  have e2 : u.water.state = s.water.state := by rw [hu, e.2.2.1]; rfl
  have e3 : u.travel.waterEmpty = s.travel.waterEmpty := by rw [hu, e.1]; rfl
  unfold handWater sprayTakesWater
  dsimp only
  rw [← hu]
  split
  · rename_i h
    exact ⟨e1, by rw [e3, e2]; simpa using h⟩
  · exact ⟨e1, by
      show (s.water.state == .empty) = (u.water.state == .empty)
      rw [e2]⟩

theorem Frame.recomputeWater {raise : Raiser} (hr : ∀ r u, Cascade u (raise r u)) (s : State) :
    Frame .none .water s (recomputeWater raise s) := by
  unfold Sys2Proof.Machine.recomputeWater
  dsimp only
  split
  · exact .refl _ _ _
  · have h0 : ∀ x, Frame .none .water (s.modWater fun w => { w with state := x }) (s.modWater fun w => { w with state := x }) :=
      fun x => .refl _ _ _
    set m := s.modWater fun w => { w with state := s.water.stateFor (s.item 23) } with hm
    have h1 : ∀ u, Frame .none .water m u → Frame .none .water s (Sys2Proof.Machine.handWater u) := fun u hu => by
      have h2 := hu.trans (Frame.handWater u)
      exact { h2 with
        waterCopy := fun _ => handWater_copies u
        copies := fun c a hx hc => h2.copies c a hx (by
          cases c
          · exact hc
          · exact hc
          · exact hc
          · exact hc)
        waterKept := nofun }
    split
    · exact h1 _ (Cascade.to (hr _ _))
    · exact h1 _ (.refl _ _ _)

theorem Water.clampLow_kept (w : Water) (n c : Nat) (h : w.estimate ≤ c) :
    (w.clampLow n).estimate ≤ c ∧ (w.clampLow n).armDown = w.armDown ∧ (w.clampLow n).state = w.state := by
  unfold Water.clampLow
  split
  · exact ⟨le_trans (Nat.min_le_left _ _) h, rfl, rfl⟩
  · exact ⟨h, rfl, rfl⟩

theorem Water.clampLow_armDown (w : Water) (n : Nat) : (w.clampLow n).armDown = w.armDown :=
  (Water.clampLow_kept w n w.estimate (Nat.le_refl _)).2.1

theorem Water.clampLow_state (w : Water) (n : Nat) : (w.clampLow n).state = w.state :=
  (Water.clampLow_kept w n w.estimate (Nat.le_refl _)).2.2

/-- A pulse raises no estimate and touches neither the lift copies nor the water state. -/
theorem Water.pulse_kept (w : Water) (n : Nat) :
    (w.pulse n).estimate ≤ w.estimate ∧ (w.pulse n).armDown = w.armDown ∧ (w.pulse n).state = w.state := by
  unfold Water.pulse
  split
  · exact ⟨Nat.le_refl _, rfl, rfl⟩
  · exact ⟨Nat.sub_le _ _, rfl, rfl⟩

theorem Frame.waterTakesPulse {raise : Raiser} (hr : ∀ r u, Cascade u (raise r u)) (s : State) :
    Frame .none .water s (waterTakesPulse raise s) := by
  unfold Sys2Proof.Machine.waterTakesPulse
  split
  · exact .refl _ _ _
  · rename_i n _
    have h := Water.pulse_kept s.water n
    have h1 : Frame .none .water s (s.modWater fun w => w.pulse n) :=
      Cascade.to (Cascade.modWater s (fun w => w.pulse n) (fun hw => le_trans h.1 hw) h.2.1 h.2.2)
    dsimp only
    split
    · exact h1
    · exact h1.trans (Frame.recomputeWater hr _)

theorem Frame.waterTakesFull {raise : Raiser} (hr : ∀ r u, Cascade u (raise r u)) (on : Bool) (s : State) :
    Frame .none .water s (waterTakesFull raise on s) := by
  unfold Sys2Proof.Machine.waterTakesFull
  have h0 : Cascade s (s.modWater fun w => { w with full := on }) := Cascade.modWater s _ id
  dsimp only
  split
  · refine (Cascade.to (h0.trans
      (Cascade.modWater _ (fun w => w.fill (s.item? 22) (s.item 23)) (fun hw => ?_)
        (Water.clampLow_armDown _ _) (Water.clampLow_state _ _)))).trans (Frame.recomputeWater hr _)
    refine (Water.clampLow_kept _ _ _ ?_).1
    show (s.supervision.item 22).getD s.water.estimate ≤ (s.supervision.item 22).getD 0
    have hw' : s.water.estimate ≤ (s.supervision.item 22).getD 0 := hw
    cases hi : s.supervision.item 22 with
    | none => rw [hi] at hw'; exact hw'
    | some c => exact Nat.le_refl _
  · exact Cascade.to h0

theorem Frame.waterTakesLow {raise : Raiser} (hr : ∀ r u, Cascade u (raise r u)) (on : Bool) (s : State) :
    Frame .none .water s (waterTakesLow raise on s) :=
  (Cascade.to (Cascade.modWater s (fun w => { w with low := on }.clampLow (s.item 23))
    (fun hw => (Water.clampLow_kept { s.water with low := on } _ _ hw).1)
    (Water.clampLow_armDown _ _) (Water.clampLow_state _ _))).trans (Frame.recomputeWater hr _)

theorem Frame.waterRunsDry {raise : Raiser} (hr : ∀ r u, Cascade u (raise r u)) (s : State) :
    Frame .none .water s (waterRunsDry raise s) := by
  have h0 : Cascade s (s.modWater fun w => { w with dryLatch := true }) := Cascade.modWater s _ id
  exact (Cascade.to (h0.trans (hr _ _))).trans (Frame.recomputeWater hr _)

/-! ## Profile Unit: the slots -/

theorem Slot.usedAs_become (u v w : SlotUse) (x : Slot) :
    (if x.usedAs u then x.become v else x).usedAs w = if x.usedAs u then v == w else x.usedAs w := by
  cases x with
  | empty => rfl
  | held y r =>
    by_cases h : y = u <;> simp [Slot.usedAs, Slot.become, h]

/-- The slots after every slot in use u has gone to v. -/
theorem State.moveSlots_usedAs (s : State) (u v w : SlotUse) (n : SlotNo) :
    (s.moveSlots u v).profile.slots[n].usedAs w =
      if s.profile.slots[n].usedAs u then v == w else s.profile.slots[n].usedAs w := by
  show Slot.usedAs w ((s.profile.slots.map fun x => if x.usedAs u then x.become v else x)[(n : Nat)]) = _
  rw [Vector.getElem_map]
  exact Slot.usedAs_become _ _ _ _

/-- A slot is used one way at most. -/
theorem Slot.usedAs_unique {x : Slot} {u v : SlotUse} (h : x.usedAs u = true) (h' : x.usedAs v = true) : u = v := by
  cases x with
  | empty => cases h
  | held y r =>
    simp only [Slot.usedAs, beq_iff_eq] at h h'
    exact h.symm.trans h'

/-- R60 for the slots: what stands after the end of a record of each kind. -/
theorem endSlots_usedAs (k : ChangeKind) (s : State) (w : SlotUse) (n : SlotNo) :
    (endSlots k s).profile.slots[n].usedAs w =
      match k with
      | .select => if s.profile.slots[n].usedAs .outgoing then SlotUse.ready == w
          else if s.profile.slots[n].usedAs .incoming then SlotUse.active == w else s.profile.slots[n].usedAs w
      | .toTransport => if s.profile.slots[n].usedAs .outgoing then SlotUse.ready == w
          else s.profile.slots[n].usedAs w
      | .reapply => s.profile.slots[n].usedAs w
      | .abortReturn => if s.profile.slots[n].usedAs .incoming then SlotUse.ready == w
          else if s.profile.slots[n].usedAs .outgoing then SlotUse.active == w
          else s.profile.slots[n].usedAs w := by
  have key : ∀ (t : State) (p q w' : SlotUse), (t.moveSlots p q).profile.slots[n].usedAs w' = _ :=
    fun t p q w' => State.moveSlots_usedAs t p q w' n
  cases k
  · show ((s.moveSlots .outgoing .ready).moveSlots .incoming .active).profile.slots[n].usedAs w = _
    rw [key, key, key]
    cases h : s.profile.slots[n].usedAs .outgoing <;> simp
  · exact key _ _ _ _
  · rfl
  · show ((s.moveSlots .incoming .ready).moveSlots .outgoing .active).profile.slots[n].usedAs w = _
    rw [key, key, key]
    cases h : s.profile.slots[n].usedAs .incoming <;> simp

/-- R60: the record ended, the slots as its kind says. -/
theorem Cascade.endRecord (c : Changeover) (s : State) (hc : s.profile.changeover = some c) :
    Cascade s (endSlots c.kind s).dropRecord := by
  have hrest : (endSlots c.kind s).dropRecord = { s with profile :=
      { s.profile with slots := (endSlots c.kind s).profile.slots, changeover := none } } := by
    cases c.kind <;> rfl
  rw [hrest]
  refine { Cascade.refl s with
    store := fun ⟨h1, h2⟩ => ⟨fun u hu m n hm hn => ?_, fun u hu => ?_⟩
    selecting := fun _ n h => ?_
    record := nofun
    still := fun _ h => absurd (hc.symm.trans h) nofun
    idle := fun _ h => absurd (hc.symm.trans h) nofun }
  · have hm' : (endSlots c.kind s).profile.slots[m].usedAs u = true := hm
    have hn' : (endSlots c.kind s).profile.slots[n].usedAs u = true := hn
    rw [hc] at h2
    rw [endSlots_usedAs] at hm' hn'
    have a1 := h1 .incoming (by decide) m n
    have a2 := h1 .outgoing (by decide) m n
    have a3 := h1 u hu m n
    cases hk : c.kind <;> simp only [hk, Option.map_some, ChangeKind.unused, List.mem_cons, List.not_mem_nil, or_false, forall_eq,
      forall_eq_or_imp] at h2 hm' hn'
    · have h2m := h2 m; have h2n := h2 n
      cases u <;> simp_all
    · have h2m := h2.1 m; have h2n := h2.1 n
      cases u <;> simp_all
    · exact a3 hm' hn'
    · have h2m := h2 m; have h2n := h2 n
      cases u <;> simp_all
  · intro n
    show (endSlots c.kind s).profile.slots[n].usedAs u = false
    have h3 : u = .incoming ∨ u = .outgoing := by simpa [ChangeKind.unused] using hu
    rw [hc] at h2
    rw [endSlots_usedAs]
    cases hk : c.kind <;> simp only [hk, Option.map_some, ChangeKind.unused, List.mem_cons, List.not_mem_nil, or_false, forall_eq,
      forall_eq_or_imp] at h2 ⊢
    · rcases h3 with h3 | h3 <;> subst h3 <;> by_cases a1 : s.profile.slots[n].usedAs .outgoing = true <;>
        by_cases a2 : s.profile.slots[n].usedAs .incoming = true <;> simp_all
    · have h2n := h2.2 n
      rcases h3 with h3 | h3 <;> subst h3 <;> by_cases a1 : s.profile.slots[n].usedAs .outgoing = true <;>
        simp_all
    · rcases h3 with h3 | h3 <;> subst h3
      · exact h2.1 n
      · exact h2.2 n
    · rcases h3 with h3 | h3 <;> subst h3 <;> by_cases a1 : s.profile.slots[n].usedAs .outgoing = true <;>
        by_cases a2 : s.profile.slots[n].usedAs .incoming = true <;> simp_all
  · rcases h with ⟨e, he, h1, _, h3⟩ | ⟨h, _⟩
    · rw [hc] at he
      cases he
      refine .inr ⟨rfl, ?_⟩
      show (endSlots c.kind s).profile.slots[n].usedAs .active = true
      have h4 : ¬ s.profile.slots[n].usedAs .outgoing = true := fun h => by cases Slot.usedAs_unique h h3
      rw [endSlots_usedAs, h1]
      simp only [h3, if_neg h4, if_true]
      rfl
    · rw [hc] at h; cases h

end Sys2Proof.Machine
end

