-- ==== Sys2Proof/Laws/CascadeMotion.lean ====
section
/-! SUPPORT. The Profile Unit's record, the Arm Units' motions, safe stop, every raise and the end of an event stay within
their reach. -/

namespace Sys2Proof.Machine

set_option Elab.async false

/-! ## Outputs and values -/

/-- R111: a refresh makes the outputs lawful. -/
theorem ArmUnit.refresh_lawful (u : ArmUnit) (a b c : Nat) : (u.refresh a b c).lawful := by
  have key : ∀ v : ArmUnit, v.lawful → ∀ m n, (v.stallTest m n).lawful := fun v h m n => by
    unfold ArmUnit.stallTest
    split
    · split
      · exact h
      · exact h
    · exact h
  unfold ArmUnit.refresh
  dsimp only
  split
  · refine ⟨fun h => ?_, fun h => ?_, fun h => ArmUnit.rotOut_ne h⟩
    · simpa using h
    · simpa using h
  · refine key _ ⟨fun h => ?_, fun h => ?_, fun h => ArmUnit.rotOut_ne h⟩ _ _
    · simpa using h
    · simpa using h

theorem postRotation_arms (a : Arm) (d : Nat) (s : State) : (postRotation a d s).arms = s.arms := by
  unfold postRotation
  split <;> rfl

theorem ArmUnit.stallTest_kept (u : ArmUnit) (m n : Nat) : (u.stallTest m n).state = u.state ∧
    (u.lawful → (u.stallTest m n).lawful) := by
  unfold ArmUnit.stallTest
  split
  · split <;> exact ⟨rfl, id⟩
  · exact ⟨rfl, id⟩

theorem ArmUnit.refresh_state (u : ArmUnit) (a b c : Nat) : (u.refresh a b c).state = u.state := by
  unfold ArmUnit.refresh
  dsimp only
  split
  · rfl
  · exact (ArmUnit.stallTest_kept _ _ _).1

theorem Cascade.refreshArm (a : Arm) (s : State) : Cascade s (refreshArm a s) :=
  (Cascade.modArm s a _ (fun _ => ArmUnit.refresh_lawful _ _ _ _) (ArmUnit.refresh_state _ _ _ _)).trans
    (Cascade.postRotation _ _ _)

/-- The refresh ends the exception of its arm but for the report. -/
theorem Frame.refreshArm {k : Reach} {a : Arm} {s t : State} (h : Frame (.both a) k s t) :
    Frame (.report a) k s (refreshArm a t) := by
  refine (h.andThen (Cascade.refreshArm a t)).refreshed ?_
  unfold Sys2Proof.Machine.refreshArm
  dsimp only
  rw [State.arm, postRotation_arms]
  show ((t.modArm a _).arm a).lawful
  rw [State.arm_modArm, if_pos rfl]
  exact ArmUnit.refresh_lawful _ _ _ _

theorem Cascade.armTakesValues (v : Values) (a : Arm) (s : State) : Cascade s (armTakesValues v a s) :=
  (Cascade.modArm s a _ id).trans (Cascade.refreshArm a _)

theorem Cascade.handValues (s : State) : Cascade s (handValues s) := by
  unfold Sys2Proof.Machine.handValues
  dsimp only
  exact ((((((Cascade.modTravel s _ id).trans (Cascade.needCeiling _)).trans (Cascade.armTakesValues _ _ _)).trans
    (Cascade.armTakesValues _ _ _)).trans (Cascade.armTakesValues _ _ _)).trans (Cascade.evaluateZones _ _))

/-! ## The record -/

theorem Cascade.changeoverDone {raise : Raiser} (hr : ∀ r u, Cascade u (raise r u)) (c : Changeover)
    (o : ChangeOutcome) (e : ChangeEnding) (s : State) : Cascade s (changeoverDone raise c o e s) := hr _ _

theorem Cascade.completeIfDone {raise : Raiser} (hr : ∀ r u, Cascade u (raise r u)) (s : State) :
    Cascade s (completeIfDone raise s) := by
  unfold Sys2Proof.Machine.completeIfDone
  split
  · rename_i c hc
    split
    · exact .refl _
    · split
      · exact ((Cascade.endRecord c s hc).trans (Cascade.handValues _)).trans (hr _ _)
      · exact .refl _
  · exact .refl _

theorem Cascade.changeoverProgress {raise : Raiser} (hr : ∀ r u, Cascade u (raise r u)) (a : Arm) (st : ArmState)
    (s : State) : Cascade s (changeoverProgress raise a st s) := by
  unfold Sys2Proof.Machine.changeoverProgress
  split
  · exact .refl _
  · rename_i c hc
    split
    · exact .refl _
    · split
      · exact Frame.trans (Cascade.modRecord s c { c with
            pending := c.pending.set a none, degraded := c.degraded || st == .fault } hc ⟨rfl, rfl, rfl, rfl⟩)
          (Cascade.completeIfDone hr _)
      · exact .refl _

theorem Cascade.overtake (a : Arm) (s : State) : Cascade s (overtake a s) := by
  unfold Sys2Proof.Machine.overtake
  split
  · exact .refl _
  · rename_i c hc
    split
    · exact .refl _
    · exact Cascade.modRecord s c _ hc ⟨rfl, rfl, rfl, rfl⟩

theorem Cascade.setPending (a : Arm) (p : PendingArm) (s : State) : Cascade s (setPending a p s) := by
  unfold Sys2Proof.Machine.setPending
  split
  · rename_i c hc
    exact Cascade.modRecord s c _ hc ⟨rfl, rfl, rfl, rfl⟩
  · exact .refl _

theorem Cascade.setDegraded (s : State) : Cascade s (setDegraded s) := by
  unfold Sys2Proof.Machine.setDegraded
  split
  · rename_i c hc
    exact Cascade.modRecord s c _ hc ⟨rfl, rfl, rfl, rfl⟩
  · exact .refl _

/-- R64: the record cut short; the slots stand as under no record. -/
theorem Frame.cutShort {raise : Raiser} (hr : ∀ r u, Cascade u (raise r u)) (s : State) :
    Frame .none .any s (cutShort raise s) ∧ (cutShort raise s).profile.changeover = none := by
  unfold Sys2Proof.Machine.cutShort
  split
  · rename_i h
    exact ⟨.refl _ _ _, h⟩
  · rename_i c hc
    have h0 : Frame .none .any s ((s.moveSlots .incoming .ready).moveSlots .outgoing .active).dropRecord :=
      { Frame.refl .none .any s with
        store := fun ⟨h1, h2⟩ => by
          have hs : ∀ (n : SlotNo) w, (((s.moveSlots .incoming .ready).moveSlots .outgoing .active).dropRecord).profile.slots[n].usedAs w =
              (endSlots .abortReturn s).profile.slots[n].usedAs w := fun _ _ => rfl
          rw [hc] at h2
          refine ⟨fun u hu m n hm hn => ?_, fun u hu n => ?_⟩
          · rw [hs, endSlots_usedAs] at hm hn
            have a1 := h1 .incoming (by decide) m n
            have a2 := h1 .outgoing (by decide) m n
            have a3 := h1 u hu m n
            cases hk : c.kind <;> simp only [hk, Option.map_some, ChangeKind.unused, List.mem_cons, List.not_mem_nil,
              or_false, forall_eq, forall_eq_or_imp] at h2 hm hn
            · have h2m := h2 m; have h2n := h2 n
              cases u <;> simp_all
            · have h2m := h2.1 m; have h2n := h2.1 n
              cases u <;> simp_all
            · have h2m := h2.1 m; have h2n := h2.1 n; have h3m := h2.2 m; have h3n := h2.2 n
              cases u <;> simp_all
            · have h2m := h2 m; have h2n := h2 n
              cases u <;> simp_all
          · have hu' : u ∈ [SlotUse.incoming, SlotUse.outgoing] := hu
            have h3 : u = .incoming ∨ u = .outgoing := by simpa using hu'
            show (endSlots .abortReturn s).profile.slots[n].usedAs u = false
            rw [endSlots_usedAs]
            rcases h3 with h3 | h3 <;> subst h3 <;> by_cases a1 : s.profile.slots[n].usedAs .outgoing = true <;>
              by_cases a2 : s.profile.slots[n].usedAs .incoming = true <;> simp_all
        safe := fun hk => absurd rfl hk
        causes := fun hk => absurd rfl hk
        selecting := fun hk => absurd rfl hk
        record := fun hk => absurd rfl hk
        lowering := nofun
        lowered := nofun
        still := nofun
        idle := nofun }
    have h1 := Cascade.handValues ((s.moveSlots .incoming .ready).moveSlots .outgoing .active).dropRecord
    refine ⟨(h0.andThen h1).andThen (hr _ _), ?_⟩
    exact (hr _ _).still rfl (h1.still rfl rfl)

/-! ## Reports -/

theorem settledTest_rest (s : State) : (settledTest s).travel = s.travel ∧ (settledTest s).arms = s.arms ∧
    (settledTest s).water = s.water ∧ (settledTest s).supervision = s.supervision ∧ (settledTest s).spray = s.spray := by
  unfold settledTest
  split <;> exact ⟨rfl, rfl, rfl, rfl, rfl⟩

/-- The Supervision Unit's copy of arm `a` takes the arm's state. -/
theorem Frame.superTakesArm {k : Reach} (a : Arm) (s : State) : Frame (.report a) k s (superTakesArm a (s.arm a).state s) := by
  have h : Frame (.report a) k s (s.modSupervision fun v =>
      { v with armDone := v.armDone.set a ((s.arm a).state == .stowed || (s.arm a).state == .fault) }) :=
    { Frame.refl (.report a) k s with
      copies := fun c b hb h => by
        cases c
        · exact h
        · exact h
        · exact h
        · refine Eq.trans ?_ h
          show (s.supervision.armDone.set a _).get b = _
          rw [PerArm.get_set, if_neg fun e => hb (.inr (by rw [e]))] }
  unfold Sys2Proof.Machine.superTakesArm
  dsimp only
  split
  · exact h.andThen (Cascade.settledTest _)
  · exact h

/-- The Water Account's copy of arm `a` takes the arm's state. -/
theorem Frame.waterTakesArm {k : Reach} (a : Arm) (s : State) : Frame (.report a) k s (waterTakesArm a (s.arm a).state s) :=
  { Frame.refl (.report a) k s with
    copies := fun c b hb h => by
      cases c
      · exact h
      · exact h
      · refine Eq.trans ?_ h
        show (s.water.armDown.set a _).get b = _
        rw [PerArm.get_set, if_neg fun e => hb (.inr (by rw [e]))]
      · exact h }

/-- R112: once the arm has reported, every copy of its state agrees. -/
theorem reportArm_frame {raise : Raiser} (hr : ∀ r u, Cascade u (raise r u)) {k : Reach} {a : Arm} {st : ArmState}
    {s t : State} (h : Frame (.report a) k s t) : Frame .none k s (reportArm raise a st t) := by
  obtain ⟨h1, c1⟩ := Frame.travelTakesArm (k := k) a t rfl
  unfold Sys2Proof.Machine.reportArm
  dsimp only
  generalize travelTakesArm a _ _ t = t1 at h1 c1
  have h2 := Frame.sprayTakesArm (k := k) a t1
  have c2 := sprayTakesArm_copy a t1
  have r2 : (sprayTakesArm a (t1.arm a).state t1).travel = t1.travel ∧
      (sprayTakesArm a (t1.arm a).state t1).arms = t1.arms :=
    ⟨(evaluateZones_rest _).1, (evaluateZones_rest _).2.1⟩
  generalize sprayTakesArm a (t1.arm a).state t1 = t2 at h2 c2 r2
  have h3 := Frame.waterTakesArm (k := k) a t2
  have r3 : (waterTakesArm a (t2.arm a).state t2).travel = t2.travel ∧
      (waterTakesArm a (t2.arm a).state t2).arms = t2.arms ∧
      (waterTakesArm a (t2.arm a).state t2).spray = t2.spray ∧
      (waterTakesArm a (t2.arm a).state t2).water.armDown.get a = (t2.arm a).state.isDown :=
    ⟨rfl, rfl, rfl, by
      show (t2.water.armDown.set a _).get a = _
      rw [PerArm.get_set, if_pos rfl]⟩
  generalize waterTakesArm a (t2.arm a).state t2 = t3 at h3 r3
  have h4 := Frame.superTakesArm (k := k) a t3
  have r4 : (superTakesArm a (t3.arm a).state t3).travel = t3.travel ∧
      (superTakesArm a (t3.arm a).state t3).arms = t3.arms ∧
      (superTakesArm a (t3.arm a).state t3).spray = t3.spray ∧
      (superTakesArm a (t3.arm a).state t3).water = t3.water ∧
      (superTakesArm a (t3.arm a).state t3).supervision.armDone.get a =
        ((t3.arm a).state == .stowed || (t3.arm a).state == .fault) := by
    unfold Sys2Proof.Machine.superTakesArm
    dsimp only
    have key : ∀ b, (t3.supervision.armDone.set a b).get a = b := fun b => by rw [PerArm.get_set, if_pos rfl]
    split
    · have e := settledTest_rest (t3.modSupervision fun v =>
        { v with armDone := v.armDone.set a ((t3.arm a).state == .stowed || (t3.arm a).state == .fault) })
      rw [e.1, e.2.1, e.2.2.1, e.2.2.2.1, e.2.2.2.2]
      exact ⟨rfl, rfl, rfl, rfl, key _⟩
    · exact ⟨rfl, rfl, rfl, rfl, key _⟩
  generalize superTakesArm a (t3.arm a).state t3 = t4 at h4 r4
  refine ((((h.trans h1).trans h2).trans h3).trans h4).reported (fun c => ?_) |>.andThen (Cascade.changeoverProgress hr _ _ _)
  have e3 : t3.arm a = t2.arm a := by rw [State.arm, r3.2.1]; rfl
  have e4 : t4.arm a = t2.arm a := by rw [State.arm, r4.2.1]; exact e3
  have e2 : t2.arm a = t1.arm a := by rw [State.arm, r2.2]; rfl
  cases c
  · unfold copyOk at c1 ⊢
    simp only [e4, e2, r4.1, r3.1, r2.1] at c1 ⊢
    exact c1
  · unfold copyOk at c2 ⊢
    simp only [e4, r4.2.2.1, r3.2.2.1] at c2 ⊢
    exact c2
  · unfold copyOk
    simp only [e4, r4.2.2.2.1, r3.2.2.2]
  · unfold copyOk
    simp only [e4, r4.2.2.2.2, e3]

theorem Cascade.endReaction (a : Arm) (o : ActionOutcome) (s : State) : Cascade s (endReaction a o s) := by
  unfold Sys2Proof.Machine.endReaction
  split
  · exact (Cascade.modArm s a _ id).trans (Cascade.complete _ _ _)
  · exact .refl _

theorem Cascade.raiseArm {raise : Raiser} (hr : ∀ r u, Cascade u (raise r u)) (a : Arm)
    (factors : List (ArmUnit → Detail)) (s : State) : Cascade s (raiseArm raise a factors s) :=
  Cascade.foldl _ _ (fun _ _ => hr _ _) s

theorem Frame.announce {raise : Raiser} (hr : ∀ r u, Cascade u (raise r u)) {k : Reach} {a : Arm} {st : ArmState}
    {factors : List (ArmUnit → Detail)} {outcome : Option ActionOutcome} {s t : State} (h : Frame (.both a) k s t) :
    Frame .none k s (announce raise a st factors outcome t) := by
  have h0 := (Frame.refreshArm h).andThen (Cascade.raiseArm hr a factors _)
  unfold Sys2Proof.Machine.announce
  dsimp only
  refine reportArm_frame hr ?_
  cases outcome with
  | none => exact h0
  | some o => exact h0.andThen (Cascade.endReaction _ _ _)

/-! ## Motions -/

theorem withdrawLift_state (a : Arm) (s : State) (b : Arm) : ((withdrawLift a s).arm b).state = (s.arm b).state := by
  have h : ((s.modArm a fun u => { u with liftPosted := false, liftGrant := 0 }).arm b).state = (s.arm b).state := by
    rw [State.arm_modArm]
    by_cases e : b = a
    · subst e; rw [if_pos rfl]
    · rw [if_neg e]
  unfold withdrawLift
  dsimp only
  split
  · exact h
  · exact h

/-- An arm's record changed under its exception; a cascade neither lowers the arm nor puts it down. -/
theorem Frame.then_modArm {k : Reach} {a : Arm} {s t : State} (h : Frame (.both a) k s t) (f : ArmUnit → ArmUnit)
    (h1 : k.calm = true → (f (t.arm a)).state = .lowering → (t.arm a).state = .lowering)
    (h2 : k.calm = true → (f (t.arm a)).state.lowered = true → (t.arm a).state.lowered = true) :
    Frame (.both a) k s (t.modArm a f) := h.trans (Frame.modArmLoose t a f h1 h2)

theorem Frame.then_modArmKept {k : Reach} {a : Arm} {s t : State} (h : Frame (.both a) k s t) (f : ArmUnit → ArmUnit)
    (hs : (f (t.arm a)).state = (t.arm a).state := by rfl) : Frame (.both a) k s (t.modArm a f) :=
  h.trans (Frame.modArmKept t a f hs)

/-- An arm's record changed to a state that is not down. -/
theorem Frame.then_modArmUp {k : Reach} {a : Arm} {s t : State} (h : Frame (.both a) k s t) (f : ArmUnit → ArmUnit)
    (hs : (f (t.arm a)).state.lowered = false := by rfl) : Frame (.both a) k s (t.modArm a f) :=
  h.then_modArm f (fun _ e => by rw [e] at hs; cases hs) (fun _ e => by rw [hs] at e; cases e)

theorem Frame.then_withdrawLift {x : Exc} {k : Reach} {s t : State} (h : Frame x k s t) (a : Arm) :
    Frame x k s (Sys2Proof.Machine.withdrawLift a t) := h.andThen (Cascade.withdrawLift a t)

theorem Frame.endLowering {raise : Raiser} (hr : ∀ r u, Cascade u (raise r u)) {k : Reach} {a : Arm} {s t : State}
    (h : Frame (.both a) k s t) (hl : k.calm = true → (t.arm a).state = .lowering) :
    Frame .none k s (endLowering raise a t) := by
  unfold Sys2Proof.Machine.endLowering
  refine Frame.announce hr ((h.then_withdrawLift a).then_modArm _ (fun hk _ => ?_) (fun hk _ => ?_))
  · rw [withdrawLift_state]; exact hl hk
  · rw [withdrawLift_state, hl hk]; rfl

theorem Frame.endRaising {raise : Raiser} (hr : ∀ r u, Cascade u (raise r u)) {k : Reach} {a : Arm}
    {factors : List (ArmUnit → Detail)} {s t : State} (h : Frame (.both a) k s t) :
    Frame .none k s (endRaising raise a factors t) := by
  unfold Sys2Proof.Machine.endRaising
  exact Frame.announce hr ((h.then_withdrawLift a).then_modArmUp _)

theorem Frame.awaitFlow {k : Reach} {a : Arm} {s t : State} (h : Frame (.both a) k s t) :
    Frame (.both a) k s (awaitFlow a t) :=
  (h.then_modArmKept _).andThen (Cascade.postLift a _)

theorem Frame.enterLowering {raise : Raiser} (hr : ∀ r u, Cascade u (raise r u)) (a : Arm) (o : Origin) (s : State) :
    Frame .none .lower s (enterLowering raise a o s) := by
  have h := fun f hs => Frame.modArmKept (k := .lower) s a f hs
  unfold Sys2Proof.Machine.enterLowering
  dsimp only
  split
  · exact Frame.endLowering hr (h _ rfl) nofun
  · refine Frame.announce hr ?_
    split
    · exact Frame.awaitFlow ((h _ rfl).then_modArm _ nofun nofun)
    · exact (h _ rfl).then_modArm _ nofun nofun

theorem Cascade.enterRaising {raise : Raiser} (hr : ∀ r u, Cascade u (raise r u)) (a : Arm) (o : Origin)
    (factors : List (ArmUnit → Detail)) (s : State) : Cascade s (enterRaising raise a o factors s) := by
  have h := fun f hs => Frame.modArmKept (k := .cascade) s a f hs
  unfold Sys2Proof.Machine.enterRaising
  dsimp only
  split
  · exact Frame.endRaising hr (h _ rfl)
  · exact Frame.announce hr (Frame.awaitFlow ((h _ rfl).then_modArmUp _))

theorem Cascade.reverseToRaising {raise : Raiser} (hr : ∀ r u, Cascade u (raise r u)) (a : Arm) (o : Origin)
    (s : State) : Cascade s (reverseToRaising raise a o s) := by
  have h := fun f hs => Frame.modArmKept (k := .cascade) s a f hs
  unfold Sys2Proof.Machine.reverseToRaising
  dsimp only
  split
  · exact Frame.endRaising hr (h _ rfl)
  · refine Frame.announce hr ?_
    split
    · exact ((h _ rfl).then_modArmUp _).then_modArmKept _
    · exact Frame.awaitFlow ((h _ rfl).then_modArmUp _)

theorem Frame.reverseToLowering {raise : Raiser} (hr : ∀ r u, Cascade u (raise r u)) (a : Arm) (o : Origin)
    (s : State) : Frame .none .lower s (reverseToLowering raise a o s) := by
  have h := fun f hs => Frame.modArmKept (k := .lower) s a f hs
  unfold Sys2Proof.Machine.reverseToLowering
  dsimp only
  split
  · exact Frame.endLowering hr (h _ rfl) nofun
  · refine Frame.announce hr ?_
    split
    · split
      · exact ((h _ rfl).then_modArm _ nofun nofun).then_modArmKept _
      · exact (h _ rfl).then_modArm _ nofun nofun
    · exact (((h _ rfl).then_modArm _ nofun nofun).then_withdrawLift a).then_modArmKept _

theorem Frame.takeLower {raise : Raiser} (hr : ∀ r u, Cascade u (raise r u)) (a : Arm) (o : Origin) (s : State) :
    Frame .none .lower s (takeLower raise a o s) := by
  unfold Sys2Proof.Machine.takeLower
  split
  · exact Frame.enterLowering hr _ _ _
  · exact Frame.enterLowering hr _ _ _
  · exact Frame.reverseToLowering hr _ _ _
  · exact .refl _ _ _

theorem Cascade.takeRaise {raise : Raiser} (hr : ∀ r u, Cascade u (raise r u)) (a : Arm) (o : Origin) (s : State) :
    Cascade s (takeRaise raise a o s) := by
  unfold Sys2Proof.Machine.takeRaise
  split
  · exact Cascade.enterRaising hr _ _ _ _
  · exact Cascade.enterRaising hr _ _ _ _
  · exact Cascade.enterRaising hr _ _ _ _
  · exact Cascade.reverseToRaising hr _ _ _
  · exact .refl _

theorem Cascade.haltArm {raise : Raiser} (hr : ∀ r u, Cascade u (raise r u)) (a : Arm) (s : State) :
    Cascade s (haltArm raise a s) := by
  unfold Sys2Proof.Machine.haltArm
  split
  · exact Frame.announce hr (((Frame.refl _ _ s).then_withdrawLift a).then_modArmUp _)
  · exact .refl _

theorem Cascade.faultArm {raise : Raiser} (hr : ∀ r u, Cascade u (raise r u)) (a : Arm) (c : FaultCause) (s : State) :
    Cascade s (faultArm raise a c s) := by
  unfold Sys2Proof.Machine.faultArm
  exact Frame.announce hr (((Frame.refl _ _ s).then_withdrawLift a).then_modArmUp _)

theorem Cascade.clearFault {raise : Raiser} (hr : ∀ r u, Cascade u (raise r u)) (a : Arm) (s : State) :
    Cascade s (clearFault raise a s) := by
  unfold Sys2Proof.Machine.clearFault
  exact Frame.announce hr ((Frame.refl _ _ s).then_modArmUp _)

theorem Cascade.stowOrder {raise : Raiser} (hr : ∀ r u, Cascade u (raise r u)) (a : Arm) (s : State) :
    Cascade s (stowOrder raise a s) := by
  unfold Sys2Proof.Machine.stowOrder
  dsimp only
  split
  · exact (Cascade.overtake _ _).trans (Cascade.takeRaise hr _ _ _)
  · exact Cascade.overtake _ _

theorem Cascade.supersede (a : Arm) (s : State) : Cascade s (supersede a s) :=
  (Cascade.endReaction _ _ _).trans (Cascade.overtake _ _)

theorem Cascade.raiseAction {raise : Raiser} (hr : ∀ r u, Cascade u (raise r u)) (e : EntryNo) (a : Arm) (s : State) :
    Cascade s (raiseAction raise e a s) := by
  have h := Cascade.supersede a s
  unfold Sys2Proof.Machine.raiseAction
  dsimp only
  split
  · exact h.trans (Cascade.complete _ _ _)
  · split
    · exact h.trans (Cascade.complete _ _ _)
    · split
      · exact h.trans (Cascade.complete _ _ _)
      · split
        · exact (h.trans (Cascade.takeRaise hr _ _ _)).trans (Cascade.complete _ _ _)
        · exact (h.trans (Cascade.modArm _ a _ id)).trans (Cascade.takeRaise hr _ _ _)

theorem Cascade.haltAction {raise : Raiser} (hr : ∀ r u, Cascade u (raise r u)) (e : EntryNo) (a : Arm) (s : State) :
    Cascade s (haltAction raise e a s) :=
  ((Cascade.supersede a s).trans (Cascade.haltArm hr _ _)).trans (Cascade.complete _ _ _)

theorem Cascade.endSwitchEvent {raise : Raiser} (hr : ∀ r u, Cascade u (raise r u)) (a : Arm) (s : State) :
    Cascade s (endSwitchEvent raise a s) := by
  unfold Sys2Proof.Machine.endSwitchEvent
  dsimp only
  split
  · exact Cascade.faultArm hr _ _ _
  · split
    · rename_i h
      exact Frame.endLowering hr (.refl _ _ _) fun _ => by simp only [Bool.and_eq_true, beq_iff_eq] at h; exact h.2
    · split
      · exact Frame.endRaising hr (.refl _ _ _)
      · exact .refl _

theorem Cascade.armTakesUp {raise : Raiser} (hr : ∀ r u, Cascade u (raise r u)) (a : Arm) (on : Bool) (s : State) :
    Cascade s (armTakesUp raise a on s) :=
  (Cascade.modArm s a _ id).trans (Cascade.endSwitchEvent hr _ _)

theorem Cascade.armTakesDown {raise : Raiser} (hr : ∀ r u, Cascade u (raise r u)) (a : Arm) (on : Bool) (s : State) :
    Cascade s (armTakesDown raise a on s) :=
  (Cascade.modArm s a _ id).trans (Cascade.endSwitchEvent hr _ _)

theorem ArmUnit.contactTimers_kept (u : ArmUnit) (n : Nat) : (u.contactTimers n).state = u.state ∧
    (u.lawful → (u.contactTimers n).lawful) := by
  unfold ArmUnit.contactTimers
  split
  · split
    · split <;> exact ⟨rfl, id⟩
    · exact ⟨rfl, id⟩
  · exact ⟨rfl, id⟩

theorem Cascade.armTakesContact {raise : Raiser} (hr : ∀ r u, Cascade u (raise r u)) (a : Arm) (on : Bool)
    (s : State) : Cascade s (armTakesContact raise a on s) := by
  unfold Sys2Proof.Machine.armTakesContact
  dsimp only
  split
  · rename_i h
    have hw : ((s.modArm a fun u => { u with contact := on }).arm a).state = .working := by
      simp only [Bool.and_eq_true, beq_iff_eq] at h; exact h.2
    unfold Sys2Proof.Machine.deflect
    exact Frame.announce hr ((Frame.modArmKept s a _ rfl).then_modArm _ (fun _ e => by cases e)
      (fun _ _ => by rw [hw]; rfl))
  · exact (Cascade.modArm s a (fun u => { u with contact := on }) id).trans
      (Cascade.modArm _ a _ (ArmUnit.contactTimers_kept _ _).2 (ArmUnit.contactTimers_kept _ _).1)

theorem Cascade.armTakesSpeed (v : Int) (a : Arm) (s : State) : Cascade s (armTakesSpeed v a s) := by
  unfold Sys2Proof.Machine.armTakesSpeed
  dsimp only
  refine Frame.trans ?_ (Cascade.refreshArm _ _)
  have h0 := Cascade.modArm s a (fun u => { u with wheelSpeed := v }) id
  split
  · rename_i h
    have hs : ((s.modArm a fun u => { u with wheelSpeed := v }).arm a).sub = .awaitingSpeed := by
      simp only [Bool.and_eq_true, beq_iff_eq] at h; exact h.1
    refine (h0.trans (Cascade.modArm _ a _ (fun hl => ?_))).trans (Cascade.postLift _ _)
    refine ⟨fun h => ?_, fun h => ?_, hl.2.2⟩
    · have := (hl.1 h).2
      rw [hs] at this; cases this
    · have := (hl.2.1 h).2
      rw [hs] at this; cases this
  · exact h0

theorem Cascade.armTakesBrush (v : Nat) (a : Arm) (s : State) : Cascade s (armTakesBrush v a s) := by
  unfold Sys2Proof.Machine.armTakesBrush
  have h := ArmUnit.stallTest_kept { s.arm a with brushSpeed := v } (s.item 10) (s.item 13)
  exact Cascade.modArm s a _ (fun hl => h.2 hl) h.1

theorem Cascade.motionExpiry {raise : Raiser} (hr : ∀ r u, Cascade u (raise r u)) (a : Arm) (s : State) :
    Cascade s (motionExpiry raise a s) := Cascade.faultArm hr _ _ _

theorem Cascade.settleExpiry {raise : Raiser} (hr : ∀ r u, Cascade u (raise r u)) (a : Arm) (s : State)
    (h : (s.arm a).state = .deflected) : Cascade s (settleExpiry raise a s) := by
  unfold Sys2Proof.Machine.settleExpiry
  exact Frame.announce hr ((Frame.refl _ _ s).then_modArm _ (fun _ e => by cases e) (fun _ _ => by rw [h]; rfl))

theorem Cascade.pinnedExpiry {raise : Raiser} (hr : ∀ r u, Cascade u (raise r u)) (a : Arm) (s : State) :
    Cascade s (pinnedExpiry raise a s) := Cascade.enterRaising hr _ _ _ _

theorem Cascade.stallExpiry {raise : Raiser} (hr : ∀ r u, Cascade u (raise r u)) (a : Arm) (s : State) :
    Cascade s (stallExpiry raise a s) := (Cascade.modArm s a _ id).trans (hr _ _)

/-! ## Targets -/

theorem Frame.giveTarget {raise : Raiser} (hr : ∀ r u, Cascade u (raise r u)) (a : Arm) (t : ArmTarget) (s : State) :
    Frame .none .lower s (giveTarget raise a t s) := by
  unfold Sys2Proof.Machine.giveTarget
  dsimp only
  split
  · exact (Cascade.setDegraded _).to
  · split
    · exact .refl _ _ _
    · split
      · exact (Cascade.setPending _ _ _).to
      · cases t
        · exact Cascade.to ((Cascade.setPending _ _ _).trans (Cascade.takeRaise hr _ _ _))
        · exact (Cascade.setPending _ _ _).to.trans (Frame.takeLower hr _ _ _)

theorem Frame.foldl {α : Type} {x : Exc} {k : Reach} (l : List α) (f : State → α → State)
    (hf : ∀ u a, Frame x k u (f u a)) (s : State) : Frame x k s (l.foldl f s) := by
  induction l generalizing s with
  | nil => exact .refl _ _ _
  | cons a l ih => exact (hf s a).trans (ih (f s a))

theorem Frame.giveTargets {raise : Raiser} (hr : ∀ r u, Cascade u (raise r u)) (set : ArmSet) (s : State) :
    Frame .none .lower s (giveTargets raise set s) :=
  ((Cascade.targeting s true).to.trans (Frame.foldl _ _ (fun u a => Frame.giveTarget hr a _ u) _)).andThen
    (Cascade.targeting _ false)

/-! ## Raising (R176) -/

theorem Cascade.handAction {raise : Raiser} (hr : ∀ r u, Cascade u (raise r u)) (e : EntryNo) (a : Action)
    (s : State) : Cascade s (handAction raise e a s) := by
  cases a with
  | raiseArm a => exact Cascade.raiseAction hr _ _ _
  | haltArm a => exact Cascade.haltAction hr _ _ _
  | forceZoneOff z => exact Cascade.forceZones _ _ _
  | capSpeed v => exact Cascade.capAction _ _ _
  | stopTravel => exact Cascade.stopAction _ _

theorem Cascade.raiseOnce {raise : Raiser} (hr : ∀ r u, Cascade u (raise r u)) (r : Raise) (s : State) :
    Cascade s (raiseOnce raise r s) := by
  unfold Sys2Proof.Machine.raiseOnce
  split
  · exact Cascade.deliverPlain _ _
  · split
    · exact Cascade.deliverPlain _ _
    · rename_i e _ _ b hb
      split
      · exact Cascade.deliverPlain _ _
      · exact (Cascade.setReaction s e b (some { b with held := some r }) hb (.inl ⟨_, rfl, rfl⟩)).trans
          (Cascade.handAction hr _ _ _)

/-- Every raise is a cascade, to whatever depth reactions nest. -/
theorem Cascade.raiseWith (n : Nat) : ∀ (r : Raise) (s : State), Cascade s (raiseWith n r s) := by
  induction n with
  | zero => exact Cascade.deliverPlain
  | succ n ih => exact fun r s => Cascade.raiseOnce ih r s

theorem Cascade.raiseFactor (r : Raise) (s : State) : Cascade s (raiseFactor r s) := Cascade.raiseWith 8 r s

/-! ## The end of an event (R157, R100) -/

theorem Cascade.reallocPass {raise : Raiser} (hr : ∀ r u, Cascade u (raise r u)) (s : State) :
    Cascade s (reallocPass raise s) := (Cascade.reallocate s).trans (Cascade.raiseAll hr _ _)

theorem Cascade.settlePass {raise : Raiser} (hr : ∀ r u, Cascade u (raise r u)) (s : State) :
    Cascade s (settlePass raise s) := by
  unfold Sys2Proof.Machine.settlePass
  split
  · split
    · exact Cascade.reallocPass hr s
    · exact (Cascade.ceilingCheck hr s).trans (Cascade.reallocPass hr _)
  · exact Cascade.ceilingCheck hr s

theorem Cascade.settle (n : Nat) (s : State) : Cascade s (settle n s) := by
  induction n generalizing s with
  | zero =>
    unfold Sys2Proof.Machine.settle
    split
    · exact (Cascade.reallocPass Cascade.deliverPlain s).trans (Cascade.ceilingCheck Cascade.deliverPlain _)
    · exact Cascade.ceilingCheck Cascade.deliverPlain s
  | succ n ih =>
    unfold Sys2Proof.Machine.settle
    split
    · exact (Cascade.settlePass Cascade.raiseFactor s).trans (ih _)
    · exact .refl _

theorem Cascade.settleAll (s : State) : Cascade s (settleAll s) :=
  ((Cascade.raiseBlocked Cascade.raiseFactor s).trans (Cascade.settle 16 _)).trans (Cascade.deliverReached _)

end Sys2Proof.Machine
end

