-- ==== Sys2Proof/Laws/CascadeSafe.lean ====
section
/-! SUPPORT. The laws of the part inside an event: a cascade keeps them, entering and leaving safe stop and the records of
a changeover keep them. -/

namespace Sys2Proof.Machine

set_option Elab.async false

/-- The laws of the part inside an event but for the valves. -/
structure Within (s : State) : Prop where
  claims : claimLaw s
  draft : draftLaw s
  store : storeLaw s
  setpoint : setpointLaw s
  outputs : outputLaw s
  copies : copyLaw s
  waterCopy : waterCopyLaw s
  frostCopy : frostCopyLaw s
  estimate : estimateLaw s
  flow : FlowOk s.flow s.work
  queues : queueLaw s
  safeStop : safeStopLaw s
  idle : idleLaw s
  commission : commissionLaw s
  starting : startingLaw s

/-- The laws of the part but for those of the end of an event. -/
structure Inside (s : State) : Prop extends Within s where
  valves : valveLaw s

theorem Lawful.inside {s : State} (h : Lawful s) : Inside s :=
  { h with flow := ⟨h.lists, by rw [h.work]; exact List.nodup_nil, by rw [h.work]; exact nofun, fun _ => h.grants⟩ }

theorem Inside.lawful {s : State} (h : Inside s) (hw : s.work = Work.clear) : Lawful s :=
  { h with grants := h.flow.2.2.2 (by rw [hw]; rfl), lists := h.flow.1, work := hw }

theorem Within.of_frame {k : Reach} {s t : State} (h : Within s) (f : Frame .none k s t) (hs : safeStopLaw t)
    (hi : idleLaw t) : Within t where
  claims := fun g => by
    have e : t.attends = s.attends := funext (State.attends_congr f.attendance)
    rw [e, f.claims]; exact h.claims g
  draft := fun d hd => (State.attends_congr f.attendance _).trans (h.draft d (f.draft ▸ hd))
  store := f.store h.store
  setpoint := f.travel h.setpoint
  outputs := fun a => f.arms a nofun (h.outputs a)
  copies := fun c a => f.copies c a nofun (h.copies c a)
  waterCopy := f.waterCopy h.waterCopy
  frostCopy := f.frost.trans (h.frostCopy.trans (by rw [f.switches]))
  estimate := f.water h.estimate
  flow := f.flow h.flow
  queues := fun st => (f.notices st).length (h.queues st)
  safeStop := hs
  idle := hi
  commission := by
    have e : ∀ k, t.item? k = s.item? k := fun k => by
      unfold State.item? Supervision.item
      rw [f.items]
    refine ⟨fun hm => f.committed.trans (h.commission.1 (f.mode ▸ hm)), fun hc k h1 h2 => ?_⟩
    rw [e]; exact h.commission.2 (f.committed ▸ hc) k h1 h2
  starting := by
    have h0 := h.starting
    unfold startingLaw at h0 ⊢
    rw [f.mode, f.clock, f.links]; exact h0

theorem Inside.of_frame {k : Reach} {s t : State} (h : Inside s) (f : Frame .none k s t) (hs : safeStopLaw t)
    (hi : idleLaw t) : Inside t := ⟨h.toWithin.of_frame f hs hi, f.spray h.valves⟩

theorem idleLaw_of_calm {x : Exc} {k : Reach} {s t : State} (hk : k.calm = true) (f : Frame x k s t) (h : idleLaw s) :
    idleLaw t := fun hm => by
  obtain ⟨h1, h2, h3, h4⟩ := h (f.mode ▸ hm)
  refine ⟨f.parked h1, f.still hk h2, f.idle hk h2 h3, fun a => ?_⟩
  cases ha : (t.arm a).state.lowered
  · rfl
  · exact absurd (f.lowered hk a ha) (by rw [h4 a]; exact nofun)

theorem Reach.calm_ne {k : Reach} (hk : k.calm = true) : k ≠ .any := fun e => by rw [e] at hk; cases hk

theorem safeStopLaw_of_calm {x : Exc} {k : Reach} {s t : State} (hk : k.calm = true) (f : Frame x k s t)
    (h : safeStopLaw s) : safeStopLaw t := by
  obtain ⟨e1, e2, e3⟩ := f.safe (Reach.calm_ne hk)
  refine ⟨fun hs => ?_, by rw [e1, e2]; exact h.2.1, by rw [e1, e3]; exact h.2.2⟩
  obtain ⟨h1, h2⟩ := h.1 (e1 ▸ hs)
  exact ⟨f.still hk h1, fun a ha => h2 a (f.lowering hk a ha)⟩

/-- A cascade that lowers no arm keeps the laws. -/
theorem Inside.of_calm {k : Reach} {s t : State} (h : Inside s) (hk : k.calm = true) (f : Frame .none k s t) : Inside t :=
  h.of_frame f (safeStopLaw_of_calm hk f h.safeStop) (idleLaw_of_calm hk f h.idle)

theorem Inside.of_cascade {s t : State} (h : Inside s) (f : Cascade s t) : Inside t := h.of_calm rfl f

/-- While the part is OPERATIONAL and not in safe stop, a cascade that lowers arms keeps the laws too. -/
theorem Inside.of_lower {k : Reach} {s t : State} (h : Inside s) (hk : k ≠ .any) (f : Frame .none k s t)
    (hm : s.supervision.mode = .operational) (hs : s.supervision.safeStop = false) : Inside t := by
  obtain ⟨e1, e2, e3⟩ := f.safe hk
  exact h.of_frame f ⟨fun h => absurd (e1.symm.trans h) (by rw [hs]; exact nofun), by rw [e1, e2]; exact h.safeStop.2.1, by rw [e1, e3]; exact h.safeStop.2.2⟩
    (fun h => absurd (f.mode.trans hm) h)

/-! ## Stow orders -/

theorem State.canRaise_congr {s t : State} (h : t.supervision.items = s.supervision.items) (a : Arm) :
    t.canRaise a = s.canRaise a := by
  simp only [State.canRaise, State.liftItem?, State.item?, Supervision.item, h]

theorem overtake_arms (a : Arm) (s : State) : (overtake a s).arms = s.arms := by
  unfold overtake
  split
  · rfl
  · split <;> rfl

theorem announce_lowering {raise : Raiser} (hr : ∀ r u, Cascade u (raise r u)) {a : Arm} {st : ArmState}
    {f : List (ArmUnit → Detail)} {o : Option ActionOutcome} {t : State} (h : (t.arm a).state ≠ .lowering) :
    ((announce raise a st f o t).arm a).state ≠ .lowering := fun e =>
  h ((Frame.announce hr (Frame.refl (.both a) .cascade t)).lowering rfl a e)

/-- RAISE leaves no arm LOWERING (R115, R122). -/
theorem takeRaise_lowering {raise : Raiser} (hr : ∀ r u, Cascade u (raise r u)) (a : Arm) (o : Origin) (s : State) :
    ((takeRaise raise a o s).arm a).state ≠ .lowering := by
  by_cases h : (s.arm a).state = .lowering
  · unfold takeRaise
    rw [h]
    show ((reverseToRaising raise a o s).arm a).state ≠ .lowering
    unfold reverseToRaising
    dsimp only
    split
    · unfold endRaising
      dsimp only
      refine announce_lowering hr ?_
      rw [State.arm_modArm, if_pos rfl]
      exact nofun
    · refine announce_lowering hr fun e => ?_
      set t := (s.modArm a fun u => { u with target := .stowed, origin := o, motionTimer := .stopped }).modArm a
        fun u => { u with state := .raising } with ht
      have hn : (t.arm a).state = .raising := by rw [ht, State.arm_modArm, if_pos rfl]
      split at e
      · rw [State.arm_modArm, if_pos rfl] at e
        rw [show ({ t.arm a with motionTimer := _ } : ArmUnit).state = _ from hn] at e
        cases e
      · have h1 := (Frame.awaitFlow (Frame.refl (.both a) .cascade t)).lowering rfl a e
        rw [hn] at h1; cases h1
  · exact fun e => h ((Cascade.takeRaise hr a o s).lowering rfl a e)

theorem stowOrder_lowering {raise : Raiser} (hr : ∀ r u, Cascade u (raise r u)) (a : Arm) (s : State)
    (h : (s.arm a).state = .lowering → s.canRaise a = true) : ((stowOrder raise a s).arm a).state ≠ .lowering := by
  unfold stowOrder
  dsimp only
  split
  · exact takeRaise_lowering hr _ _ _
  · rename_i hc
    intro e
    rw [State.arm, overtake_arms] at e
    exact hc ((State.canRaise_congr (Cascade.overtake a s).items a).trans (h e))

/-- R125: after the three stow orders no arm that can be raised is LOWERING. -/
theorem stowOrders_lowering {raise : Raiser} (hr : ∀ r u, Cascade u (raise r u)) (s : State)
    (h : ∀ a, (s.arm a).state = .lowering → s.canRaise a = true) (a : Arm) :
    ((Arm.list.foldl (fun t a => stowOrder raise a t) s).arm a).state ≠ .lowering := by
  have c := fun a u => Cascade.stowOrder hr a u
  show ((stowOrder raise .c (stowOrder raise .r (stowOrder raise .l s))).arm a).state ≠ .lowering
  have hl := stowOrder_lowering hr .l s (h .l)
  have hrr := stowOrder_lowering hr .r (stowOrder raise .l s) fun e =>
    (State.canRaise_congr (c .l s).items .r).trans (h .r ((c .l s).lowering rfl _ e))
  have hc := stowOrder_lowering hr .c (stowOrder raise .r (stowOrder raise .l s)) fun e =>
    (State.canRaise_congr ((c .l s).trans (c .r _)).items .c).trans (h .c (((c .l s).trans (c .r _)).lowering rfl _ e))
  cases a
  · exact fun e => hl (((c .r _).trans (c .c _)).lowering rfl _ e)
  · exact fun e => hrr ((c .c _).lowering rfl _ e)
  · exact hc

/-- An arm on its way down can be raised: its items are written (R178, R180). -/
theorem Inside.canRaise {s : State} (h : Inside s) (a : Arm) (hl : (s.arm a).state = .lowering) :
    s.canRaise a = true := by
  have hm : s.supervision.mode = .operational := by
    by_contra hm
    have := (h.idle hm).2.2.2 a
    rw [hl] at this; cases this
  have hw := h.commission.2 (h.commission.1 hm)
  have h9 := hw 9 (by decide) (by decide)
  have hi := hw (15 + a.number) (by omega) (by cases a <;> decide)
  exact Bool.and_eq_true_iff.mpr ⟨hi, h9⟩

/-! ## Safe stop (R181 to R183) -/

theorem evaluateZones_profile (s : State) : (evaluateZones s).profile = s.profile := by
  unfold evaluateZones postPump
  dsimp only
  split <;> rfl

theorem sprayTakesSafeStop_rest (on : Bool) (s : State) : (sprayTakesSafeStop on s).travel = s.travel ∧
    (sprayTakesSafeStop on s).arms = s.arms ∧ (sprayTakesSafeStop on s).supervision = s.supervision ∧
    (sprayTakesSafeStop on s).profile = s.profile ∧ (sprayTakesSafeStop on s).spray.safeStop = on :=
  have e := evaluateZones_rest (s.modSpray fun v => { v with safeStop := on })
  ⟨e.1, e.2.1, e.2.2.2.1, evaluateZones_profile _, e.2.2.2.2.2.1⟩

/-- The three blocks that hold a safe stop mark take it (R182, R183). -/
theorem Frame.safeFlag (on : Bool) (s : State) :
    Frame .none .any s (s.modTravel fun g => { g with safeStop := on }) ∧
      Frame .none .any s (sprayTakesSafeStop on s) ∧
      ∀ c, Frame .none .any s (s.modSupervision fun v => { v with safeStop := on, causes := c }) := by
  refine ⟨?_, ?_, fun c => ?_⟩
  · exact { Frame.refl .none .any s with
      safe := fun hk => absurd rfl hk, selecting := fun hk => absurd rfl hk
      causes := fun hk => absurd rfl hk, record := fun hk => absurd rfl hk
      lowering := nofun, lowered := nofun, still := nofun, idle := nofun }
  · have h0 : Frame .none .any s (s.modSpray fun v => { v with safeStop := on }.evaluate) :=
      { Frame.refl .none .any s with
        spray := fun _ z => Spray.evaluate_lawful { s.spray with safeStop := on } z
        safe := fun hk => absurd rfl hk, selecting := fun hk => absurd rfl hk
        causes := fun hk => absurd rfl hk, record := fun hk => absurd rfl hk
        lowering := nofun, lowered := nofun, still := nofun, idle := nofun }
    unfold sprayTakesSafeStop Sys2Proof.Machine.evaluateZones
    dsimp only
    refine Frame.andThen ?_ (Cascade.postPump _ _)
    exact { h0 with spray := fun _ z => Spray.evaluate_lawful { s.spray with safeStop := on } z }
  · exact { Frame.refl .none .any s with
      safe := fun hk => absurd rfl hk, selecting := fun hk => absurd rfl hk
      causes := fun hk => absurd rfl hk, record := fun hk => absurd rfl hk
      lowering := nofun, lowered := nofun, still := nofun, idle := nofun
      copies := fun h a _ hc => by cases h <;> exact hc }

/-- Handing safe stop on (R182): every part is a cascade but for the two marks and the record. -/
theorem handSafeStop_kept {raise : Raiser} (hr : ∀ r u, Cascade u (raise r u)) (s : State)
    (hc : ∀ a, (s.arm a).state = .lowering → s.canRaise a = true) :
    Frame .none .any s (handSafeStop raise s) ∧ (handSafeStop raise s).profile.changeover = none ∧
      (∀ a, ((handSafeStop raise s).arm a).state ≠ .lowering) ∧
      (handSafeStop raise s).spray.safeStop = true ∧ (handSafeStop raise s).travel.safeStop = true ∧
      (handSafeStop raise s).supervision.safeStop = s.supervision.safeStop ∧
      (s.profile.changeover = none → idleLaw s → idleLaw (handSafeStop raise s)) := by
  set t1 := s.modTravel fun g => { g with safeStop := true } with h1
  set t2 := travelTakesCause t1 with h2
  have f2 : Cascade t1 t2 := Cascade.enterStopping _ _
  obtain ⟨f3, n3⟩ := Frame.cutShort hr t2
  set t3 := cutShort raise t2 with h3
  set t4 := Arm.list.foldl (fun t a => stowOrder raise a t) t3 with h4
  have f4 : Cascade t3 t4 := Cascade.foldl _ _ (fun u a => Cascade.stowOrder hr a u) _
  have e5 := sprayTakesSafeStop_rest true t4
  have f5 := (Frame.safeFlag true t4).2.1
  have hh : handSafeStop raise s = sprayTakesSafeStop true t4 := rfl
  have c3 : (∀ a, (t3.arm a).state = .lowering → t3.canRaise a = true) ∧
      t3.supervision.safeStop = s.supervision.safeStop ∧ t3.travel.safeStop = true ∧
      (s.profile.changeover = none → t3 = t2) := by
    have q2 := f2.safe nofun
    have g : ∀ u : State, (∀ b, (u.arm b).state = .lowering → (t2.arm b).state = .lowering) →
        u.supervision.items = t2.supervision.items → ∀ a, (u.arm a).state = .lowering → u.canRaise a = true :=
      fun u hu hi a ha => (State.canRaise_congr (hi.trans f2.items) a).trans (hc a (f2.lowering rfl a (hu a ha)))
    have q3 : t2.profile.changeover = none → t3 = t2 := fun e => by rw [h3]; unfold cutShort; rw [e]
    refine ⟨?_, ?_, ?_, fun e => q3 (f2.still rfl e)⟩
    · cases e : t2.profile.changeover with
      | none => rw [q3 e]; exact g t2 (fun _ h => h) rfl
      | some c =>
        refine g t3 (fun b hb => ?_) f3.items
        rw [h3] at hb
        unfold cutShort at hb
        rw [e] at hb
        exact (Cascade.handValues ((t2.moveSlots .incoming .ready).moveSlots .outgoing .active).dropRecord).lowering
          rfl b ((hr _ _).lowering rfl b hb)
    · cases e : t2.profile.changeover with
      | none => rw [q3 e]; exact q2.1
      | some c =>
        have q := (Cascade.handValues ((t2.moveSlots .incoming .ready).moveSlots .outgoing .active).dropRecord).andThen
          (Cascade.changeoverDone hr c .aborted .safeStop _)
        have hq : t3 = changeoverDone raise c .aborted .safeStop
            (handValues ((t2.moveSlots .incoming .ready).moveSlots .outgoing .active).dropRecord) := by
          rw [h3]; unfold cutShort; rw [e]
        rw [hq]; exact (q.safe nofun).1.trans q2.1
    · cases e : t2.profile.changeover with
      | none => rw [q3 e]; exact q2.2.2
      | some c =>
        have q := (Cascade.handValues ((t2.moveSlots .incoming .ready).moveSlots .outgoing .active).dropRecord).andThen
          (Cascade.changeoverDone hr c .aborted .safeStop _)
        have hq : t3 = changeoverDone raise c .aborted .safeStop
            (handValues ((t2.moveSlots .incoming .ready).moveSlots .outgoing .active).dropRecord) := by
          rw [h3]; unfold cutShort; rw [e]
        rw [hq]; exact (q.safe nofun).2.2.trans q2.2.2
  rw [hh]
  refine ⟨((((Frame.safeFlag true s).1.andThen f2).trans f3).andThen f4).trans f5, ?_, fun a => ?_, e5.2.2.2.2, ?_, ?_,
    fun hn hi => ?_⟩
  · rw [e5.2.2.2.1]; exact f4.still rfl n3
  · rw [State.arm, e5.2.1]; exact stowOrders_lowering hr t3 c3.1 a
  · rw [e5.1]; exact (f4.safe nofun).2.2.trans c3.2.2.1
  · rw [e5.2.2.1]; exact (f4.safe nofun).1.trans c3.2.1
  · have i4 : idleLaw t4 := idleLaw_of_calm rfl f4 (by
      rw [c3.2.2.2 hn]; exact idleLaw_of_calm rfl f2 hi)
    intro hm
    rw [e5.2.2.1] at hm
    have := i4 hm
    rw [e5.1, e5.2.2.2.1]
    refine ⟨this.1, this.2.1, this.2.2.1, fun a => ?_⟩
    rw [State.arm, e5.2.1]; exact this.2.2.2 a

/-- R181, R182: entering safe stop keeps the laws. -/
theorem Inside.enterSafeStop {raise : Raiser} (hr : ∀ r u, Cascade u (raise r u)) (c : SafeCause) {s : State}
    (h : Inside s) : Inside (enterSafeStop raise c s) := by
  set t1 := s.modSupervision fun v => { v with safeStop := true, causes := v.causes.add c } with h1
  have f1 : Frame .none .any s t1 := (Frame.safeFlag true s).2.2 _
  set t2 := raise (t1.raiseOf (.cause c) (.safeStopEntered t1.supervision.causes s.supervision.safeStop)) t1 with h2
  have f2 : Cascade t1 t2 := hr _ _
  have i2 : idleLaw t2 := idleLaw_of_calm rfl f2 h.idle
  have q2 := f2.safe nofun
  unfold Sys2Proof.Machine.enterSafeStop
  dsimp only
  rw [← h1, ← h2]
  split
  · rename_i hs
    have f3 : Cascade t2 (travelTakesCause t2) := Cascade.enterStopping _ _
    refine h.of_frame ((f1.andThen f2).andThen f3) ?_ (idleLaw_of_calm rfl f3 i2)
    refine safeStopLaw_of_calm rfl (f2.trans f3) ⟨fun _ => h.safeStop.1 hs, ?_, ?_⟩
    · exact h.safeStop.2.1.trans hs
    · exact h.safeStop.2.2.trans hs
  · have hc : ∀ a, (t2.arm a).state = .lowering → t2.canRaise a = true := fun a ha =>
      (State.canRaise_congr (f2.items.trans f1.items) a).trans (h.canRaise a (f2.lowering rfl a ha))
    obtain ⟨g1, g2, g3, g4, g5, g6, g7⟩ := handSafeStop_kept hr t2 hc
    refine h.of_frame ((f1.andThen f2).trans g1) ⟨fun _ => ⟨g2, g3⟩, ?_, ?_⟩ ?_
    · rw [g4, g6]; exact q2.1.symm
    · rw [g5, g6]; exact q2.1.symm
    · intro hm
      by_cases hn : t2.profile.changeover = none
      · exact g7 hn i2 hm
      · rw [g1.mode] at hm
        exact absurd (i2 hm).2.1 hn

/-- A cut short leaves the Supervision Unit's marks. -/
theorem cutShort_marks {raise : Raiser} (hr : ∀ r u, Cascade u (raise r u)) (s : State) :
    (cutShort raise s).supervision.safeStop = s.supervision.safeStop ∧
      (cutShort raise s).supervision.causes = s.supervision.causes := by
  unfold cutShort
  split
  · exact ⟨rfl, rfl⟩
  · rename_i c hc
    have f := (Cascade.handValues ((s.moveSlots .incoming .ready).moveSlots .outgoing .active).dropRecord).andThen
      (Cascade.changeoverDone hr c .aborted .safeStop _)
    exact ⟨(f.safe nofun).1, f.causes nofun⟩

/-- R181: safe stop is in force afterwards, with the cause added. -/
theorem enterSafeStop_marks {raise : Raiser} (hr : ∀ r u, Cascade u (raise r u)) (c : SafeCause) (s : State) :
    (enterSafeStop raise c s).supervision.safeStop = true ∧
      (enterSafeStop raise c s).supervision.causes = s.supervision.causes.add c := by
  set t1 := s.modSupervision fun v => { v with safeStop := true, causes := v.causes.add c } with h1
  have f2 : Cascade t1 (raise (t1.raiseOf (.cause c) (.safeStopEntered t1.supervision.causes s.supervision.safeStop)) t1) :=
    hr _ _
  unfold enterSafeStop
  dsimp only
  rw [← h1]
  generalize raise (t1.raiseOf (.cause c) (.safeStopEntered t1.supervision.causes s.supervision.safeStop)) t1 = t2 at f2
  have e2 : t2.supervision.safeStop = true ∧ t2.supervision.causes = s.supervision.causes.add c :=
    ⟨(f2.safe nofun).1, f2.causes nofun⟩
  split
  · have f3 : Cascade t2 (travelTakesCause t2) := Cascade.enterStopping _ _
    exact ⟨(f3.safe nofun).1.trans e2.1, (f3.causes nofun).trans e2.2⟩
  · set t3 := travelTakesCause (t2.modTravel fun g => { g with safeStop := true }) with h3
    have f3 : Cascade (t2.modTravel fun g => { g with safeStop := true }) t3 := Cascade.enterStopping _ _
    have k3 := cutShort_marks hr t3
    have f4 : Cascade (cutShort raise t3) (Arm.list.foldl (fun t a => stowOrder raise a t) (cutShort raise t3)) :=
      Cascade.foldl _ _ (fun u a => Cascade.stowOrder hr a u) _
    have e5 := sprayTakesSafeStop_rest true (Arm.list.foldl (fun t a => stowOrder raise a t) (cutShort raise t3))
    have hh : handSafeStop raise t2 =
        sprayTakesSafeStop true (Arm.list.foldl (fun t a => stowOrder raise a t) (cutShort raise t3)) := rfl
    rw [hh, e5.2.2.1]
    exact ⟨(f4.safe nofun).1.trans (k3.1.trans ((f3.safe nofun).1.trans e2.1)),
      (f4.causes nofun).trans (k3.2.trans ((f3.causes nofun).trans e2.2))⟩

theorem Inside.clockFault {raise : Raiser} (hr : ∀ r u, Cascade u (raise r u)) {s : State} (h : Inside s) :
    Inside (clockFault raise s) := Inside.enterSafeStop hr _ (h.of_cascade (hr _ _))

theorem Inside.superTakesSeat {raise : Raiser} (hr : ∀ r u, Cascade u (raise r u)) (on : Bool) {s : State}
    (h : Inside s) : Inside (superTakesSeat raise on s) := by
  unfold Sys2Proof.Machine.superTakesSeat
  split
  · exact Inside.enterSafeStop hr _ (h.of_cascade (hr _ _))
  · exact h

theorem Inside.handPendingReset {raise : Raiser} (hr : ∀ r u, Cascade u (raise r u)) {s : State} (h : Inside s) :
    Inside (handPendingReset raise s) := by
  have f1 : Cascade s (s.modTravel fun g => { g with resetPending := true }) := Cascade.modTravel s _ id
  exact h.of_cascade (((f1.trans (Cascade.enterStopping _ _)).trans
    (Cascade.foldl _ _ (fun u a => Cascade.stowOrder hr a u) _)).trans (Cascade.settledTest _))

/-! ## The records of a changeover (R57, R62, R63) -/

/-- A record of the store changed with nothing else, while the part is OPERATIONAL and not in safe stop. -/
theorem Inside.modRecord {s : State} (h : Inside s) (p : Profiles) (hd : p.draft = s.profile.draft) (hp : p.storeOk)
    (hm : s.supervision.mode = .operational) (hs : s.supervision.safeStop = false) :
    Inside { s with profile := p } := by
  have f : Frame .none .any s { s with profile := p } :=
    { Frame.refl .none .any s with
      draft := hd
      store := fun _ => hp
      copies := fun c a _ hc => by cases c <;> exact hc
      safe := fun hk => absurd rfl hk, selecting := fun hk => absurd rfl hk
      causes := fun hk => absurd rfl hk, record := fun hk => absurd rfl hk
      lowering := nofun, lowered := nofun, still := nofun, idle := nofun }
  exact h.of_frame f ⟨fun e => absurd (hs.symm.trans e) nofun, h.safeStop.2.1, h.safeStop.2.2⟩
    (fun e => absurd hm e)

theorem Slot.usedAs_become_of {x : Slot} {u : SlotUse} (h : x.usedAs u = true) (v w : SlotUse) :
    (x.become v).usedAs w = (v == w) := by
  cases x with
  | empty => cases h
  | held y r => rfl

/-- R57 for the slots. -/
theorem startRecord_usedAs (target : Option SlotNo) (s : State)
    (hn : ∀ n, target = some n → s.profile.slots[n].usedAs .ready = true) (w : SlotUse) (m : SlotNo) :
    (startRecord target s).profile.slots[m].usedAs w =
      if target = some m then SlotUse.incoming == w
      else if s.profile.slots[m].usedAs .active then SlotUse.outgoing == w else s.profile.slots[m].usedAs w := by
  have k := fun w' m' => State.moveSlots_usedAs s .active .outgoing w' m'
  cases target with
  | none =>
    rw [if_neg nofun]
    exact k w m
  | some n =>
    show ((((s.moveSlots .active .outgoing).profile.slots.set n
      (((s.moveSlots .active .outgoing).profile.slots[n]).become .incoming))[(m : Nat)]).usedAs w) = _
    rw [Vector.getElem_set]
    by_cases e : n = m
    · subst e
      rw [if_pos rfl, if_pos rfl]
      have h0 : (s.moveSlots .active .outgoing).profile.slots[n].usedAs .ready = true := by
        rw [k]
        split
        · rename_i h
          cases Slot.usedAs_unique h (hn n rfl)
        · exact hn n rfl
      exact Slot.usedAs_become_of h0 _ _
    · rw [if_neg fun h => e (Fin.ext h), if_neg fun h => e (Option.some.inj h)]
      exact k w m

theorem startRecord_storeOk (target : Option SlotNo) (s : State)
    (hn : ∀ n, target = some n → s.profile.slots[n].usedAs .ready = true) (hc : s.profile.changeover = none)
    (h : s.profile.storeOk) : (startRecord target s).profile.storeOk := by
  obtain ⟨h1, h2⟩ := h
  rw [hc] at h2
  have hi := h2 .incoming (by decide)
  have ho := h2 .outgoing (by decide)
  have kk : (startRecord target s).profile.changeover.map Changeover.kind =
      some (match target with | some _ => ChangeKind.select | none => .toTransport) := by
    cases target <;> rfl
  refine ⟨fun u hu m n hm hn' => ?_, fun u hu n => ?_⟩
  · rw [startRecord_usedAs target s hn] at hm hn'
    by_cases e1 : target = some m
    · by_cases e2 : target = some n
      · exact Option.some.inj (e1.symm.trans e2)
      · rw [if_pos e1] at hm
        rw [if_neg e2] at hn'
        have : u = .incoming := (beq_iff_eq.mp hm).symm
        subst this
        rw [hi n] at hn'
        split at hn' <;> cases hn'
    · by_cases e2 : target = some n
      · rw [if_pos e2] at hn'
        rw [if_neg e1] at hm
        have : u = .incoming := (beq_iff_eq.mp hn').symm
        subst this
        rw [hi m] at hm
        split at hm <;> cases hm
      · rw [if_neg e1] at hm
        rw [if_neg e2] at hn'
        have a1 := h1 .active (by decide) m n
        have a2 := h1 u hu m n
        have om := ho m; have on := ho n
        by_cases q1 : s.profile.slots[m].usedAs .active = true <;>
          by_cases q2 : s.profile.slots[n].usedAs .active = true <;> simp only [q1, q2, if_true, if_false, Bool.false_eq_true] at hm hn'
        · exact a1 q1 q2
        · have : u = .outgoing := (beq_iff_eq.mp hm).symm
          subst this
          rw [on] at hn'; cases hn'
        · have : u = .outgoing := (beq_iff_eq.mp hn').symm
          subst this
          rw [om] at hm; cases hm
        · exact a2 hm hn'
  · rw [kk] at hu
    rw [startRecord_usedAs target s hn]
    cases target with
    | some i =>
      have : u = .active := by simpa [ChangeKind.unused] using hu
      subst this
      split
      · rfl
      · split
        · rfl
        · rename_i q; simpa using q
    | none =>
      have : u = .active ∨ u = .incoming := by simpa [ChangeKind.unused] using hu
      rw [if_neg nofun]
      rcases this with e | e <;> subst e
      · split
        · rfl
        · rename_i q; simpa using q
      · split
        · rfl
        · exact hi n

theorem Inside.startChangeover {raise : Raiser} (hr : ∀ r u, Cascade u (raise r u)) (target : Option SlotNo) {s : State}
    (h : Inside s) (hn : ∀ n, target = some n → s.profile.slots[n].usedAs .ready = true)
    (hc : s.profile.changeover = none) (hm : s.supervision.mode = .operational)
    (hs : s.supervision.safeStop = false) : Inside (Sys2Proof.Machine.startChangeover raise target s) := by
  have e : startRecord target s = { s with profile := (startRecord target s).profile } := by
    cases target <;> rfl
  have h1 : Inside (startRecord target s) := by
    rw [e]
    exact h.modRecord _ (by cases target <;> rfl) (startRecord_storeOk target s hn hc h.store) hm hs
  have em : (startRecord target s).supervision = s.supervision := by rw [e]
  have f2 : Frame .none .lower (startRecord target s) (Sys2Proof.Machine.startChangeover raise target s) := by
    unfold Sys2Proof.Machine.startChangeover
    dsimp only
    exact ((Cascade.to (Cascade.handValues _)).trans (Frame.giveTargets hr _ _)).andThen
      (Cascade.completeIfDone hr _)
  exact h1.of_lower (k := .lower) nofun f2 (by rw [em]; exact hm) (by rw [em]; exact hs)

theorem abortRecord_storeOk (c : Changeover) (s : State) (hc : s.profile.changeover = some c) (h : s.profile.storeOk) :
    (abortRecord c s).profile.storeOk := by
  obtain ⟨h1, h2⟩ := h
  rw [hc] at h2
  by_cases e : c.kind = .reapply
  · have hs : (abortRecord c s).profile.slots = (s.moveSlots .active .incoming).profile.slots := by
      unfold abortRecord; rw [if_pos e]; rfl
    have hk : (abortRecord c s).profile.changeover.map Changeover.kind = some .abortReturn := by
      unfold abortRecord; rfl
    simp only [e, Option.map_some] at h2
    have hi := h2 .incoming (by decide)
    refine ⟨fun u hu m n hm hn => ?_, fun u hu n => ?_⟩
    · rw [hs] at hm hn
      rw [State.moveSlots_usedAs] at hm hn
      have a1 := h1 .active (by decide) m n
      have a2 := h1 u hu m n
      have om := hi m; have on := hi n
      by_cases q1 : s.profile.slots[m].usedAs .active = true <;>
        by_cases q2 : s.profile.slots[n].usedAs .active = true <;> simp only [q1, q2, if_true, if_false, Bool.false_eq_true] at hm hn
      · exact a1 q1 q2
      · have : u = .incoming := (beq_iff_eq.mp hm).symm
        subst this
        rw [on] at hn; cases hn
      · have : u = .incoming := (beq_iff_eq.mp hn).symm
        subst this
        rw [om] at hm; cases hm
      · exact a2 hm hn
    · rw [hk] at hu
      have : u = .active := by simpa [ChangeKind.unused] using hu
      subst this
      rw [hs, State.moveSlots_usedAs]
      split
      · rfl
      · rename_i q; simpa using q
  · have hs : (abortRecord c s).profile.slots = s.profile.slots := by
      unfold abortRecord; rw [if_neg e]; rfl
    have hk : (abortRecord c s).profile.changeover.map Changeover.kind = some .abortReturn := by
      unfold abortRecord; rfl
    refine ⟨fun u hu m n hm hn => h1 u hu m n (by rw [← hs]; exact hm) (by rw [← hs]; exact hn), fun u hu n => ?_⟩
    rw [hk] at hu
    rw [hs]
    refine h2 u ?_ n
    have : u = .active := by simpa [ChangeKind.unused] using hu
    subst this
    cases ek : c.kind <;> simp_all [ChangeKind.unused]

theorem Inside.abortChangeover {raise : Raiser} (hr : ∀ r u, Cascade u (raise r u)) (c : Changeover) {s : State}
    (h : Inside s) (hc : s.profile.changeover = some c) : Inside (Sys2Proof.Machine.abortChangeover raise c s) := by
  have hm : s.supervision.mode = .operational := by
    by_contra hm
    exact absurd (hc.symm.trans (h.idle hm).2.1) nofun
  have hs : s.supervision.safeStop = false := by
    cases e : s.supervision.safeStop
    · rfl
    · exact absurd (hc.symm.trans (h.safeStop.1 e).1) nofun
  have e : abortRecord c s = { s with profile := (abortRecord c s).profile } := by
    unfold abortRecord
    split <;> rfl
  have h1 : Inside (abortRecord c s) := by
    rw [e]
    exact h.modRecord _ (by unfold abortRecord; split <;> rfl) (abortRecord_storeOk c s hc h.store) hm hs
  have em : (abortRecord c s).supervision = s.supervision := by rw [e]
  have f2 : Frame .none .lower (abortRecord c s) (Sys2Proof.Machine.abortChangeover raise c s) := by
    unfold Sys2Proof.Machine.abortChangeover
    dsimp only
    exact ((Frame.giveTargets hr _ _).andThen (Cascade.handValues _)).andThen (Cascade.completeIfDone hr _)
  exact h1.of_lower (k := .lower) nofun f2 (by rw [em]; exact hm) (by rw [em]; exact hs)

/-- R63: a REAPPLY, where there is an ACTIVE slot. -/
theorem Inside.startReapply {raise : Raiser} (hr : ∀ r u, Cascade u (raise r u)) {s : State} (h : Inside s)
    (hc : s.profile.changeover = none) (hs : s.supervision.safeStop = false) : Inside (startReapply raise s) := by
  unfold Sys2Proof.Machine.startReapply
  split
  · exact h
  · rename_i n hn
    have hm : s.supervision.mode = .operational := by
      by_contra hm
      have := (h.idle hm).2.2.1 n .active (by decide)
      have h0 : (s.slot n).usedAs .active = true :=
        List.find?_some (p := fun n => (s.slot n).usedAs .active) hn
      exact absurd (this.symm.trans h0) nofun
    have h1 : Inside (s.modProfile fun p =>
        { p with changeover := some ⟨.reapply, none, some n, s.time, .all none, false⟩ }) := by
      refine h.modRecord _ rfl ⟨h.store.1, ?_⟩ hm hs
      have h2 := h.store.2
      rw [hc] at h2
      exact h2
    exact h1.of_lower (k := .lower) nofun (((Cascade.to (Cascade.handValues _)).trans (Frame.giveTargets hr _ _)).andThen
      (Cascade.completeIfDone hr _)) hm hs

/-- R183: leaving safe stop keeps the laws. -/
theorem Inside.leaveSafeStop {raise : Raiser} (hr : ∀ r u, Cascade u (raise r u)) {s : State} (h : Inside s)
    (hs : s.supervision.safeStop = true) : Inside (leaveSafeStop raise s) := by
  set t1 := s.modSupervision fun v => { v with safeStop := false, causes := SafeCauses.empty } with h1
  have f1 : Frame .none .any s t1 := (Frame.safeFlag false s).2.2 _
  set t2 := raise (t1.raiseOf .none (.safeStopLeft s.supervision.causes)) t1 with h2
  have f2 : Cascade t1 t2 := hr _ _
  set t3 := t2.modTravel fun g => { g with safeStop := false } with h3
  have f3 : Frame .none .any t2 t3 := (Frame.safeFlag false t2).1
  have f4 := (Frame.safeFlag false t3).2.1
  have e4 := sprayTakesSafeStop_rest false t3
  have q2 := f2.safe nofun
  have n2 : t2.profile.changeover = none := f2.still rfl (h.safeStop.1 hs).1
  have i2 : idleLaw t2 := idleLaw_of_calm rfl f2 (s := t1) h.idle
  have i3 : idleLaw t3 := i2
  have h4 : Inside (sprayTakesSafeStop false t3) := by
    refine h.of_frame (((f1.andThen f2).trans f3).trans f4) ⟨fun e => ?_, ?_, ?_⟩ fun hm => ?_
    · rw [e4.2.2.1] at e
      exact absurd (q2.1.symm.trans e) nofun
    · rw [e4.2.2.1, e4.2.2.2.2]; exact q2.1.symm
    · rw [e4.2.2.1, e4.1]; exact q2.1.symm
    · rw [e4.2.2.1] at hm
      have := i3 hm
      rw [e4.1, e4.2.2.2.1]
      refine ⟨this.1, this.2.1, this.2.2.1, fun a => ?_⟩
      rw [State.arm, e4.2.1]; exact this.2.2.2 a
  exact Inside.startReapply hr h4 (by rw [e4.2.2.2.1]; exact n2) (by rw [e4.2.2.1]; exact q2.1)

end Sys2Proof.Machine
end

