-- ==== Sys2Proof/Laws/Events.lean ====
section
/-! SUPPORT. The end of an event, a reset, leaving STARTING and a frame end: each said once, and each keeps the laws. -/

namespace Sys2Proof.Machine

set_option Elab.async false

/-! ## The end of an event -/

theorem Work.left_clear : Work.clear.left = false := rfl

/-- With nothing left to do the end of an event changes nothing. -/
theorem finish_clear {s : State} (h : s.work = Work.clear) : finish s = s := by
  have h0 : raiseBlocked raiseFactor s = s := by
    unfold raiseBlocked
    rw [h]
    rfl
  have h1 : settle 16 s = s := by
    unfold settle
    rw [h, Work.left_clear]
    rfl
  have h2 : deliverReached s = s := by
    unfold deliverReached
    have h3 : freeReached s = s := by
      unfold freeReached
      rw [h]
      rfl
    rw [h3, h]
    show s.modWork (fun w => { w with reached := [] }) = s
    unfold State.modWork
    rw [h]
    show { s with work := Work.clear } = s
    rw [← h]
  have h3 : settleAll s = s := by
    unfold settleAll
    rw [h0, h1, h2]
  unfold finish
  dsimp only
  rw [h3, h]
  show s.modWork (fun _ => Work.clear) = s
  rw [← h]
  rfl

theorem foldl_work {α : Type} (l : List α) (f : State → α → State) (hf : ∀ u a, (f u a).work = u.work) (s : State) :
    (l.foldl f s).work = s.work := by
  induction l generalizing s with
  | nil => rfl
  | cons a l ih => exact (ih _).trans (hf s a)

theorem raiseAll_plain_work (l : List Raise) (s : State) : (raiseAll deliverPlain l s).work = s.work := by
  induction l generalizing s with
  | nil => rfl
  | cons r l ih => exact (ih _).trans rfl

theorem holdReached_work (s : State) : (holdReached s).work = s.work :=
  foldl_work _ _ (fun u p => by
    split
    · split <;> rfl
    · rfl) s

theorem freeReached_work (s : State) : (freeReached s).work = s.work :=
  foldl_work _ _ (fun u p => by
    split
    · unfold release
      split
      · rfl
      · split <;> rfl
    · rfl) s

theorem deliverReached_work (s : State) : (deliverReached s).work = { s.work with reached := [] } := by
  unfold deliverReached
  refine (foldl_work s.work.reached (fun t (p : EntryNo × Raise) => deliver p.2 (some ⟨p.1, .reached, .all false⟩) t)
    (fun _ _ => rfl) _).trans ?_
  show { (freeReached s).work with reached := [] } = _
  rw [freeReached_work]

theorem ceilingCheck_plain_work (s : State) : (ceilingCheck deliverPlain s).work.realloc = s.work.realloc := by
  unfold ceilingCheck
  split
  · dsimp only
    split
    · rfl
    · show (holdReached _).work.realloc = _
      rw [holdReached_work]
      rfl
  · rfl

theorem reallocate_realloc (s : State) : (reallocate s).1.work.realloc = false := by
  have h1 : ∀ u : State, (orderPosted u).work.realloc = u.work.realloc := fun u => by
    unfold orderPosted
    dsimp only
    split <;> rfl
  have h2 : ∀ (w : Bool) (u : State), (handOffer w u).work.realloc = u.work.realloc := fun w u => by
    unfold handOffer
    split
    · dsimp only
      split <;> rfl
    · split <;> rfl
  show (handOffer s.flow.short2 (setShortFlags (postGrants ((orderPosted
    (s.modWork fun w => { w with realloc := false })).modFlow Flow.settle)))).work.realloc = false
  rw [h2]
  show (orderPosted (s.modWork fun w => { w with realloc := false })).work.realloc = false
  rw [h1]
  rfl

/-- After the end's passes no reallocation is due (R157). -/
theorem settle_realloc (n : Nat) (s : State) : (settle n s).work.realloc = false := by
  induction n generalizing s with
  | zero =>
    unfold settle
    rw [ceilingCheck_plain_work]
    split
    · unfold reallocPass
      dsimp only
      rw [raiseAll_plain_work]; exact reallocate_realloc _
    · rename_i h
      simpa using h
  | succ n ih =>
    unfold settle
    split
    · exact ih _
    · rename_i h
      simp only [Work.left, Bool.or_eq_true, not_or, Bool.not_eq_true] at h
      exact h.1

theorem settleAll_realloc (s : State) : (settleAll s).work.realloc = false := by
  unfold settleAll
  rw [deliverReached_work]
  exact settle_realloc 16 _

/-- Where no reset is due an event ends with its cascade and nothing left to do. -/
theorem finish_calm {s : State} (h : (settleAll s).work.reset = none) :
    finish s = (settleAll s).modWork fun _ => Work.clear := by
  unfold finish
  dsimp only
  rw [h]

/-- With no settled reset pending none comes of the end of an event (R185). -/
theorem settle_reset {s : State} (h : s.supervision.pendingReset = none) (hw : s.work.reset = none) :
    (settleAll s).work.reset = none := (Cascade.settleAll s).reset h hw

/-! ## Resets (R186) -/

theorem Slot.ready_usedAs (x : Slot) (u : SlotUse) (hu : u ≠ .ready) : (x.become .ready).usedAs u = false := by
  cases x with
  | empty => rfl
  | held y r => exact beq_eq_false_iff_ne.mpr fun e => hu e.symm

theorem profileAfterReset_slots (k : ResetKind) (p : Profiles) (n : SlotNo) (u : SlotUse) (hu : u ≠ .ready) :
    (profileAfterReset k p).slots[n].usedAs u = false := by
  unfold profileAfterReset
  split
  · show ((p.slots.map (Slot.become .ready))[(n : Nat)]).usedAs u = false
    rw [Vector.getElem_map]
    exact Slot.ready_usedAs _ u hu
  · show ((Vector.replicate 8 Slot.empty)[(n : Nat)]).usedAs u = false
    rw [Vector.getElem_replicate]
    rfl

/-- A reset leaves the laws, whatever stood before but the commissioning and the account (R186). -/
theorem afterReset_lawful (k : ResetKind) {s : State} (hc : commissionLaw s) (he : estimateLaw s) :
    Lawful (afterReset k s) := by
  have hp : ∀ (n : SlotNo) (u : SlotUse), u ≠ .ready → (afterReset k s).profile.slots[n].usedAs u = false :=
    fun n u hu => profileAfterReset_slots k s.profile n u hu
  have hch : (afterReset k s).profile.changeover = none := by
    show (profileAfterReset k s.profile).changeover = none
    unfold profileAfterReset
    split <;> rfl
  have hdr : (afterReset k s).profile.draft = none := by
    show (profileAfterReset k s.profile).draft = none
    unfold profileAfterReset
    split <;> rfl
  have hmode : (afterReset k s).supervision.mode = .starting := by
    show (superAfterReset k s.supervision).mode = .starting
    unfold superAfterReset
    dsimp only
    split <;> rfl
  have hsafe : (afterReset k s).supervision.safeStop = false := by
    show (superAfterReset k s.supervision).safeStop = false
    unfold superAfterReset
    dsimp only
    split <;> rfl
  have hdone : (afterReset k s).supervision.armDone = Supervision.reset.armDone := by
    show (superAfterReset k s.supervision).armDone = _
    unfold superAfterReset
    dsimp only
    split <;> rfl
  have hwater : (afterReset k s).water.armDown = .all false := by
    show (waterAfterReset k s.water).armDown = _
    unfold waterAfterReset
    split <;> rfl
  exact
    { claims := fun g => by cases g <;> exact ⟨Nat.zero_le _, List.nodup_nil, nofun, fun _ => rfl, fun st h => by
        rcases h with h | h <;> cases h⟩
      draft := fun d h => by rw [hdr] at h; cases h
      store := ⟨fun u hu m n hm _ => by exact absurd ((hp m u hu).symm.trans hm) nofun, fun u hu n => hp n u (by
        have hu : u ∈ ChangeKind.unused ((afterReset k s).profile.changeover.map Changeover.kind) := hu
        rw [hch] at hu
        have : u = .incoming ∨ u = .outgoing := by simpa [ChangeKind.unused] using hu
        rcases this with e | e <;> subst e <;> decide)⟩
      setpoint := ⟨fun h => absurd (show (0 : Int) < 0 from h) (by decide), nofun⟩
      outputs := fun a => by cases a <;> exact ⟨nofun, nofun, fun h => absurd rfl h⟩
      copies := fun c a => by
        cases c
        · cases a <;> exact ⟨rfl, rfl⟩
        · cases a <;> rfl
        · show (afterReset k s).water.armDown.get a = _
          rw [hwater]; cases a <;> rfl
        · show (afterReset k s).supervision.armDone.get a = _
          rw [hdone]; cases a <;> rfl
      waterCopy := ⟨rfl, rfl⟩
      frostCopy := rfl
      valves := fun z => by cases z <;> exact ⟨nofun, nofun⟩
      estimate := by
        show (waterAfterReset k s.water).estimate ≤ ((superAfterReset k s.supervision).item 22).getD 0
        unfold waterAfterReset superAfterReset
        dsimp only
        split
        · exact he
        · exact Nat.zero_le _
      grants := ⟨Nat.zero_le _, fun a => by cases a <;> exact Nat.le_refl _, fun a => by cases a <;> exact Nat.le_refl _, Nat.le_refl _⟩
      lists := ⟨List.nodup_nil, List.nodup_nil, fun a => by cases a <;> exact ⟨nofun, nofun⟩,
        fun a => by cases a <;> exact ⟨nofun, fun h => absurd (show 0 < 0 from h.1) (by decide)⟩, fun a => .inl (by cases a <;> rfl)⟩
      queues := fun st => by cases st <;> exact Nat.zero_le _
      safeStop := ⟨fun h => absurd (hsafe.symm.trans h) nofun, hsafe.symm, hsafe.symm⟩
      idle := fun _ => ⟨rfl, hch, fun n u hu => hp n u hu, fun a => by cases a <;> rfl⟩
      commission := ⟨fun h => absurd (hmode.symm.trans h) nofun, fun h k' h1 h2 => by
        show ((superAfterReset k s.supervision).item k').isSome = true
        have h' : (superAfterReset k s.supervision).committed = true := h
        unfold superAfterReset at h' ⊢
        dsimp only at h' ⊢
        split at h'
        · rename_i hk
          rw [if_pos hk]
          exact hc.2 h' k' h1 h2
        · cases h'⟩
      starting := ⟨⟨fun _ => by
          show (if s.clock.resetLineAsserted then ClockPhase.held else ClockPhase.settling) ≠ .running
          split <;> exact nofun, fun _ => hmode⟩, fun _ l => by cases l <;> rfl⟩
      work := rfl }

theorem Inside.reset (k : ResetKind) {s : State} (h : Inside s) : Lawful (afterReset k s) :=
  afterReset_lawful k h.commission h.estimate

/-- The end of an event leaves the laws, with a reset or without. -/
theorem Inside.finish {s : State} (h : Inside s) : Lawful (finish s) := by
  have h1 : Inside (settleAll s) := h.of_cascade (Cascade.settleAll s)
  have hr := settleAll_realloc s
  unfold Sys2Proof.Machine.finish
  generalize settleAll s = t at h1 hr
  dsimp only
  split
  · exact h1.reset _
  · exact
      { claims := h1.claims, draft := h1.draft, store := h1.store, setpoint := h1.setpoint, outputs := h1.outputs
        copies := fun c a => by exact match c with
          | .travel => h1.copies .travel a
          | .spray => h1.copies .spray a
          | .water => h1.copies .water a
          | .supervision => h1.copies .supervision a
        waterCopy := h1.waterCopy, frostCopy := h1.frostCopy, valves := h1.valves, estimate := h1.estimate
        grants := h1.flow.2.2.2 hr, lists := h1.flow.1, queues := h1.queues, safeStop := h1.safeStop
        idle := h1.idle, commission := h1.commission, starting := h1.starting, work := rfl }

theorem Inside.event {f : Raiser → State → State} {s : State} (h : Inside (f raiseFactor s)) :
    Lawful (event f s) := h.finish

end Sys2Proof.Machine
end

