-- ==== Sys2Proof/Laws/Serve.lean ====
section
/-! SUPPORT. A frame end, a station leaving, and leaving STARTING: what each does, and that each keeps the laws. -/

namespace Sys2Proof.Machine

set_option Elab.async false

/-! ## The parts outside the laws -/

/-- Links, clock, time, captures, reactions and the queue may change freely, but for STARTING. -/
theorem Inside.rest {s : State} (h : Inside s) (q : List Instr) (w : Time) (c : Clock) (l : PerStation Link) (p : Capture)
    (r : Vector (Option Binding) 8) (n : Nat)
    (hs : startingLaw { s with pending := q, time := w, clock := c, links := l, capture := p, reactions := r, freeCount := n }) :
    Inside { s with pending := q, time := w, clock := c, links := l, capture := p, reactions := r, freeCount := n } where
  claims := h.claims
  draft := h.draft
  store := h.store
  setpoint := h.setpoint
  outputs := h.outputs
  copies := fun x a => match x with
    | .travel => h.copies .travel a
    | .spray => h.copies .spray a
    | .water => h.copies .water a
    | .supervision => h.copies .supervision a
  waterCopy := h.waterCopy
  frostCopy := h.frostCopy
  valves := h.valves
  estimate := h.estimate
  flow := h.flow
  queues := h.queues
  safeStop := h.safeStop
  idle := h.idle
  commission := h.commission
  starting := hs

theorem PerStation.get_set_eq {α : Type} (p : PerStation α) (st k : Station) (x : α) :
    (p.set st x).get k = if k = st then x else p.get k := by
  cases st <;> cases k <;> rfl

/-- A link changed; an OFFLINE one stays so while the part is STARTING. -/
theorem Inside.modLink {s : State} (h : Inside s) (l : Station) (f : Link → Link)
    (hf : s.supervision.mode = .starting → (f (s.links.get l)).state = .offline) : Inside (s.modLink l f) :=
  h.rest s.pending s.time s.clock (s.links.set l (f (s.links.get l))) s.capture s.reactions s.freeCount
    ⟨h.starting.1, fun hm k => by
      show ((s.links.set l (f (s.links.get l))).get k).state = .offline
      rw [PerStation.get_set_eq]
      split
      · exact hf hm
      · exact h.starting.2 hm k⟩

/-! ## Attendance -/

/-- An attendance record changed with no change of attending. -/
theorem Inside.modAttend {s : State} (h : Inside s) (st : Station) (f : Attendance → Attendance)
    (hf : (f (s.attendance.get st)).state = (s.attendance.get st).state) : Inside (s.modAttend st f) := by
  have e : ∀ x, (s.modAttend st f).attends x = s.attends x := fun x => by
    show (((s.attendance.set st (f (s.attendance.get st))).get x).state == .attending) = _
    rw [PerStation.get_set_eq]
    split
    · rename_i hx
      rw [hf, hx]; rfl
    · rfl
  exact
    { claims := fun g => by
        rw [show (s.modAttend st f).attends = s.attends from funext e]; exact h.claims g
      draft := fun d hd => (e _).trans (h.draft d hd)
      store := h.store, setpoint := h.setpoint, outputs := h.outputs
      copies := fun x a => match x with
        | .travel => h.copies .travel a
        | .spray => h.copies .spray a
        | .water => h.copies .water a
        | .supervision => h.copies .supervision a
      waterCopy := h.waterCopy, frostCopy := h.frostCopy, valves := h.valves, estimate := h.estimate
      flow := h.flow, queues := h.queues, safeStop := h.safeStop, idle := h.idle, commission := h.commission
      starting := h.starting }

/-! ## Frame ends (R6, R7) -/

theorem Inside.place {s : State} (h : Inside s) (st : Station) (r : Response) : Inside (place st r s) :=
  h.modLink st _ fun hm => h.starting.2 hm st

theorem Inside.tell {s : State} (h : Inside s) (st : Station) : Inside (tell st s) := h.modAttend st _ rfl

theorem Inside.riseUntaken {s : State} (h : Inside s) (st : Station) : Inside (riseUntaken st s) :=
  h.modLink st _ fun hm => by
    have e := h.starting.2 hm st
    rw [e]

theorem Inside.receiving {s : State} (h : Inside s) {st : Station} (hr : (s.links.get st).state = .receiving) :
    s.supervision.mode ≠ .starting := fun hm => absurd (hr.symm.trans (h.starting.2 hm st)) nofun

theorem Inside.atFrameEnd {s : State} (h : Inside s) (st : Station) (bytes : List Byte) (k : State → State)
    (hk : ∀ t, Inside t → t.supervision.mode ≠ .starting → Inside (k t)) : Inside (atFrameEnd st bytes k s) := by
  unfold Sys2Proof.Machine.atFrameEnd
  split
  · rename_i hr
    have hm := h.receiving hr
    exact hk _ (h.modLink st _ fun e => absurd e hm) hm
  · exact h.riseUntaken st

/-- A request leaves the state before it, or the one its owner decides on when the stages before it pass (R7). -/
theorem decideRequest_state (f : Form) (owner : Owner) (st : Station) (ps : List Byte) (s : State) :
    (decideRequest f owner st ps s).state = s ∨
      (f.exempt = true ∨ s.attends st = true) ∧ f.formOk ps = true ∧ f.roleOk st ps = true ∧
        (decideRequest f owner st ps s) = owner st ps s := by
  unfold decideRequest
  split
  · exact .inl rfl
  · rename_i h1
    split
    · exact .inl rfl
    · rename_i h2
      split
      · exact .inl rfl
      · rename_i h3
        refine .inr ⟨?_, by simpa using h2, by simpa using h3, rfl⟩
        cases e : f.exempt
        · right; simpa [e] using h1
        · exact .inl rfl

/-- What an owner is asked to keep. -/
def Owner.Keeps (f : Form) (owner : Owner) : Prop :=
  ∀ st ps s, Inside s → s.supervision.mode ≠ .starting → (f.exempt = true ∨ s.attends st = true) →
    f.formOk ps = true → f.roleOk st ps = true → Inside (owner st ps s).state

theorem Inside.serve {s : State} (h : Inside s) {f : Form} {owner : Owner} (ho : owner.Keeps f) (st : Station)
    (tag : Byte) (ps : List Byte) : Inside (serve f owner st tag ps s) := by
  unfold Sys2Proof.Machine.serve
  dsimp only
  refine h.atFrameEnd st _ _ fun t ht hm => ?_
  split
  · exact ht.place _ _
  · unfold serveGood
    dsimp only
    refine Inside.place ?_ _ _
    have h1 := ht.tell st
    rcases decideRequest_state f owner st ps (Sys2Proof.Machine.tell st t) with e | ⟨ha, hf, hr, e⟩
    · rw [e]; exact h1
    · rw [e]; exact ho st ps _ h1 hm ha hf hr

theorem Inside.serveEvent {s : State} (h : Inside s) {f : Form} {owner : Raiser → Owner}
    (ho : (owner Sys2Proof.Machine.raiseFactor).Keeps f) (st : Station) (tag : Byte) (ps : List Byte) :
    Lawful (serveEvent f owner st tag ps s) := (h.serve ho st tag ps).finish

/-! ## A request that reaches its owner -/

theorem clockBytesFrom_append (n : Nat) (frame rest : List Byte) (h3 : 3 ≤ frame.length)
    (hn : byteAt frame 2 = n) (h40 : n ≤ 40) (hl : frame.length + rest.length ≤ 4 + n) :
    clockBytesFrom frame.length frame rest = frame ++ rest := by
  induction rest generalizing frame with
  | nil => simp [clockBytesFrom]
  | cons b rest ih =>
    have hb : clockByte frame frame.length b = frame ++ [b] := by
      unfold clockByte
      rw [if_neg (by omega)]
      dsimp only
      rw [hn, if_neg]
      simp only [Bool.or_eq_true, decide_eq_true_eq, not_or, Nat.not_lt, Nat.not_le]
      simp only [List.length_cons] at hl
      omega
    have hn' : byteAt (frame ++ [b]) 2 = n := by
      rw [← hn]
      unfold byteAt
      rw [List.getD_append _ _ _ _ (by omega)]
    have h := ih (frame ++ [b]) (by simp; omega) hn' (by simp only [List.length_append, List.length_cons, List.length_nil] at hl ⊢; omega)
    show clockBytesFrom (frame.length + 1) (clockByte frame frame.length b) rest = _
    rw [hb]
    have e : frame.length + 1 = (frame ++ [b]).length := by simp
    rw [e, h]
    simp

/-- A whole good frame is received as it is (R5). -/
theorem clockBytes_requestFrame (code tag : Byte) (ps : List Byte) (h : ps.length ≤ 40) :
    clockBytes (requestFrame code tag ps) = requestFrame code tag ps ∧
      (requestFrame code tag ps).length = ps.length + 4 := by
  have hl : (requestFrame code tag ps).length = ps.length + 4 := by simp [requestFrame]
  refine ⟨?_, hl⟩
  have e : requestFrame code tag ps = [code, tag, BitVec.ofNat 8 ps.length] ++
      (ps ++ [crc8 (code :: tag :: BitVec.ofNat 8 ps.length :: ps)]) := by simp [requestFrame]
  have h1 : ∀ rest : List Byte, clockBytes ([code, tag, BitVec.ofNat 8 ps.length] ++ rest) =
      clockBytesFrom 3 [code, tag, BitVec.ofNat 8 ps.length] rest := fun rest => rfl
  rw [e, h1]
  refine clockBytesFrom_append ps.length [code, tag, BitVec.ofNat 8 ps.length] _ (by simp) ?_ h (by simp; omega)
  show (BitVec.ofNat 8 ps.length).toNat = ps.length
  rw [BitVec.toNat_ofNat]
  omega

theorem PerStation.set_get_same {α : Type} (p : PerStation α) (l : Station) (x y : α) :
    (p.set l x).set l y = p.set l y := by cases l <;> rfl

theorem PerStation.get_set_same {α : Type} (p : PerStation α) (l : Station) (x : α) : (p.set l x).get l = x := by
  cases l <;> rfl

/-- A request that passes the stages before its owner: the owner's decision, answered (R7, R11). -/
theorem serve_sent {f : Form} {l : Station} {ps : List Byte} {s : State} (h : Sent f l ps s) (owner : Owner)
    (tag : Byte) :
    serve f owner l tag ps s = place l ⟨(owner l ps (heard f l tag ps s)).status, tag, f.code,
      (owner l ps (heard f l tag ps s)).data⟩ (owner l ps (heard f l tag ps s)).state := by
  have hc := clockBytes_requestFrame f.code tag ps h.room
  have e : tell l (s.modLink l fun k => k.endFrame (requestFrame f.code tag ps)) = heard f l tag ps s := by
    unfold Link.endFrame
    dsimp only
    rw [hc.1, hc.2]
    rfl
  have ha : (heard f l tag ps s).attends l = s.attends l := by
    show (((s.attendance.set l _).get l).state == .attending) = _
    rw [PerStation.get_set_same]
    rfl
  unfold Sys2Proof.Machine.serve Sys2Proof.Machine.atFrameEnd
  dsimp only
  rw [if_pos h.receiving, if_neg (by have := h.room; omega)]
  unfold serveGood
  dsimp only
  rw [e]
  have hd : decideRequest f owner l ps (heard f l tag ps s) = owner l ps (heard f l tag ps s) := by
    unfold decideRequest
    rw [ha, if_neg, if_neg, if_neg]
    · rw [h.role]; exact nofun
    · rw [h.form]; exact nofun
    · rcases h.attends with h | h <;> rw [h] <;> simp
  rw [hd]

/-- A request whose owner leaves the links alone: the owner's state with the response in the slot. -/
theorem serve_done {f : Form} {l : Station} {ps : List Byte} {s : State} (h : Sent f l ps s) {owner : Owner}
    (tag : Byte) {st : Status} {d : Payload} {u : State} (ho : owner l ps (heard f l tag ps s) = ⟨st, d, u⟩)
    (hu : u.links = (heard f l tag ps s).links) :
    serve f owner l tag ps s = { u with links := linksAfter f l tag ps st d s } := by
  rw [serve_sent h, ho]
  unfold linksAfter place State.modLink State.modLinks
  dsimp only
  have e : (heard f l tag ps s).links = s.links.set l ((s.links.get l).heard f tag ps) := rfl
  rw [hu, e, PerStation.set_get_same, PerStation.get_set_same]

/-- The same for a request with an event's end, where nothing is left to do. -/
theorem serveEvent_done {f : Form} {l : Station} {ps : List Byte} {s : State} (h : Sent f l ps s)
    {owner : Raiser → Owner} (tag : Byte) {st : Status} {d : Payload} {u : State}
    (ho : owner raiseFactor l ps (heard f l tag ps s) = ⟨st, d, u⟩)
    (hu : u.links = (heard f l tag ps s).links) (hw : u.work = Work.clear) :
    serveEvent f owner l tag ps s = { u with links := linksAfter f l tag ps st d s } := by
  show finish (serve f (owner raiseFactor) l tag ps s) = _
  rw [serve_done h tag ho hu]
  exact finish_clear hw

/-- A request answered with nothing else changed. -/
theorem serve_replied {f : Form} {l : Station} {ps : List Byte} {s : State} (h : Sent f l ps s) {owner : Owner}
    (tag : Byte) {st : Status} {d : Payload} (ho : owner l ps (heard f l tag ps s) = ⟨st, d, heard f l tag ps s⟩) :
    serve f owner l tag ps s = replied f l tag ps st d s := by
  rw [serve_sent h, ho]
  unfold replied linksAfter place State.modLink State.modLinks
  dsimp only
  have e : (heard f l tag ps s).links = s.links.set l ((s.links.get l).heard f tag ps) := rfl
  rw [e, PerStation.set_get_same, PerStation.get_set_same]
  rfl

/-! ## A request that stops before its owner -/

/-- A request that a stage before the owner refuses (R7). -/
theorem serve_refused {f : Form} {l : Station} {ps : List Byte} {s : State} (hr : (s.links.get l).state = .receiving)
    (h40 : ps.length ≤ 40) (owner : Owner) (tag : Byte) (st : Status)
    (hd : decideRequest f owner l ps (heard f l tag ps s) = ⟨st, .none, heard f l tag ps s⟩) :
    serve f owner l tag ps s = replied f l tag ps st .none s := by
  have hc := clockBytes_requestFrame f.code tag ps h40
  have e : tell l (s.modLink l fun k => k.endFrame (requestFrame f.code tag ps)) = heard f l tag ps s := by
    unfold Link.endFrame
    dsimp only
    rw [hc.1, hc.2]
    rfl
  unfold Sys2Proof.Machine.serve Sys2Proof.Machine.atFrameEnd
  dsimp only
  rw [if_pos hr, if_neg (by omega)]
  unfold serveGood
  dsimp only
  rw [e, hd]
  unfold replied linksAfter place State.modLink State.modLinks
  dsimp only
  have e : (heard f l tag ps s).links = s.links.set l ((s.links.get l).heard f tag ps) := rfl
  rw [e, PerStation.set_get_same, PerStation.get_set_same]
  rfl

theorem heard_attends (f : Form) (l : Station) (tag : Byte) (ps : List Byte) (s : State) :
    (heard f l tag ps s).attends l = s.attends l := by
  show (((s.attendance.set l _).get l).state == .attending) = _
  rw [PerStation.get_set_same]
  rfl

theorem heard_holds (f : Form) (l : Station) (tag : Byte) (ps : List Byte) (s : State) (g : Group) :
    (heard f l tag ps s).holds l g = ((s.claims.get g).holder == some l) := rfl

/-- Stages 2 to 4 of R7, whatever the owner. -/
theorem serve_stages {f : Form} {l : Station} {ps : List Byte} {s : State} (hr : (s.links.get l).state = .receiving)
    (h40 : ps.length ≤ 40) (owner : Owner) (tag : Byte) :
    (f.exempt = false ∧ s.attends l = false → serve f owner l tag ps s = replied f l tag ps .notAttending .none s) ∧
    ((f.exempt = true ∨ s.attends l = true) → f.formOk ps = false →
      serve f owner l tag ps s = replied f l tag ps .badParam .none s) ∧
    ((f.exempt = true ∨ s.attends l = true) → f.formOk ps = true → f.roleOk l ps = false →
      serve f owner l tag ps s = replied f l tag ps .refusedRole .none s) := by
  refine ⟨fun h => ?_, fun h h1 => ?_, fun h h1 h2 => ?_⟩
  · apply serve_refused hr h40
    unfold decideRequest
    rw [heard_attends, h.1, h.2]
    rfl
  all_goals
    apply serve_refused hr h40
    unfold decideRequest
    rw [heard_attends]
    rcases h with h | h <;> simp_all [Answer.refuse]

theorem slotOf_of_ge {n : Nat} (h : 8 ≤ n) : slotOf n = none := by
  unfold slotOf
  rw [dif_neg (by omega)]

theorem slotOf_of_val {n : SlotNo} {m : Nat} (h : n.val = m) : slotOf m = some n := by
  subst h
  unfold slotOf
  rw [dif_pos n.isLt]

/-- The answer of a ZONE_OVERRIDE is put right in the sender's response alone: zone data become the zone's state now. -/
theorem answerZone_eq (l : Station) (ps : List Byte) (s : State) : ∃ d, answerZone l ps s =
    { s with links := s.links.set l { s.links.get l with slot := { (s.links.get l).slot with data := d } } } ∧
    ∀ z v, zoneOf (byteAt ps 0) = some z → (s.links.get l).slot.data = .zone v → d = .zone (s.spray.zones.get z) := by
  unfold answerZone
  split
  · rename_i z hd hz
    refine ⟨_, rfl, fun z' v hz' _ => ?_⟩
    rw [hz] at hz'
    cases hz'
    rfl
  · rename_i hno
    refine ⟨(s.links.get l).slot.data, ?_, fun z v hz hv => absurd hz (hno v z hv)⟩
    show s = { s with links := s.links.set l (s.links.get l) }
    rw [PerStation.set_get]

end Sys2Proof.Machine
end

