-- ==== Sys2Proof/Laws/Claims.lean ====
section
/-! SUPPORT. The claim table's operations keep the law of R28. -/

namespace Sys2Proof.Machine

set_option Elab.async false

theorem Claim.passOn_lawful {c : Claim} {g : Group} {at' : Station → Bool} (h : c.lawful g at') (now : Time) :
    (c.passOn now).lawful g at' := by
  obtain ⟨h1, h2, h3, h4, h5⟩ := h
  unfold Claim.passOn
  split
  · exact ⟨Nat.zero_le _, List.nodup_nil, nofun, fun _ => rfl, fun st h => by rcases h with h | h <;> cases h⟩
  · rename_i w rest hw
    have hsub : ∀ x, x ∈ c.waiting.filter (· != w) → x ∈ c.waiting := fun x hx => (List.mem_filter.mp hx).1
    refine ⟨le_trans (List.length_filter_le _ _) h1, h2.filter _, fun st hs hm => ?_, nofun, fun st hs => ?_⟩
    · cases hs
      have := (List.mem_filter.mp hm).2
      simp at this
    · rcases hs with hs | hs
      · cases hs
        exact h5 w (.inr (by rw [hw]; exact List.mem_cons_self ..))
      · exact h5 st (.inr (hsub st hs))

/-- A station that attends and is permitted takes a group from no one. -/
theorem Claim.give_lawful {c : Claim} {g : Group} {at' : Station → Bool} (h : c.lawful g at') {st : Station}
    (ha : at' st = true) (hp : permitted g st = true) (now : Time) : (c.give st now).lawful g at' := by
  obtain ⟨h1, h2, h3, h4, h5⟩ := h
  refine ⟨le_trans (List.length_filter_le _ _) h1, h2.filter _, fun x hs hm => ?_, nofun, fun x hs => ?_⟩
  · cases hs
    have := (List.mem_filter.mp hm).2
    simp at this
  · rcases hs with hs | hs
    · cases hs; exact ⟨ha, hp⟩
    · exact h5 x (.inr (List.mem_filter.mp hs).1)

/-- Three stations: a list without repeats that leaves one out has at most two. -/
theorem stations_length {l : List Station} (h : l.Nodup) {x : Station} (hx : x ∉ l) : l.length ≤ 2 := by
  have h1 : (x :: l).Nodup := List.nodup_cons.mpr ⟨hx, h⟩
  have h2 : (x :: l).length ≤ [Station.a, .b, .c].length :=
    (List.Nodup.subperm h1 fun y _ => by cases y <;> decide).length_le
  have h3 : l.length + 1 ≤ 3 := h2
  omega

theorem Claim.wait_lawful {c : Claim} {g : Group} {at' : Station → Bool} (h : c.lawful g at') {st x : Station}
    (hx : c.holder = some x) (hne : x ≠ st) (hw : st ∉ c.waiting) (ha : at' st = true) (hp : permitted g st = true) :
    Claim.lawful { c with waiting := c.waiting ++ [st] } g at' := by
  obtain ⟨h1, h2, h3, h4, h5⟩ := h
  have hn : (c.waiting ++ [st]).Nodup := by
    rw [List.nodup_append]
    exact ⟨h2, List.nodup_singleton _, fun y hy z hz => by
      rw [List.mem_singleton] at hz
      subst hz
      exact fun e => hw (e ▸ hy)⟩
  have hx' : x ∉ c.waiting ++ [st] := fun hm => by
    rcases List.mem_append.mp hm with hm | hm
    · exact h3 x hx hm
    · exact hne (List.mem_singleton.mp hm)
  refine ⟨stations_length hn hx', hn, fun y hy => ?_, fun e => absurd (hx.symm.trans e) nofun, fun y hy => ?_⟩
  · have : y = x := Option.some.inj (hy.symm.trans hx)
    subst this
    exact hx'
  · rcases hy with hy | hy
    · exact h5 y (.inl hy)
    · rcases List.mem_append.mp hy with hy | hy
      · exact h5 y (.inr hy)
      · rw [List.mem_singleton.mp hy]; exact ⟨ha, hp⟩

theorem Claim.withdraw_lawful {c : Claim} {g : Group} {at' : Station → Bool} (h : c.lawful g at') (st : Station) :
    Claim.lawful { c with waiting := c.waiting.filter (· != st) } g at' := by
  obtain ⟨h1, h2, h3, h4, h5⟩ := h
  refine ⟨le_trans (List.length_filter_le _ _) h1, h2.filter _, fun x hs hm => h3 x hs (List.mem_filter.mp hm).1,
    fun e => ?_, fun x hs => ?_⟩
  · show c.waiting.filter _ = []
    rw [h4 e]; rfl
  · rcases hs with hs | hs
    · exact h5 x (.inl hs)
    · exact h5 x (.inr (List.mem_filter.mp hs).1)

theorem Claim.yieldBy_lawful {c : Claim} {g : Group} {at' : Station → Bool} (h : c.lawful g at') {st : Station}
    (hh : c.holder = some st) (hw : c.waiting ≠ []) (now : Time) : (c.yieldBy st now).lawful g at' := by
  have h0 := Claim.passOn_lawful h now
  obtain ⟨h1, h2, h3, h4, h5⟩ := h
  cases e : c.waiting with
  | nil => exact absurd e hw
  | cons w rest =>
    have ep : c.passOn now = c.give w now := by unfold Claim.passOn; rw [e]
    have hne : w ≠ st := fun x => h3 st hh (by rw [e, x]; exact List.mem_cons_self ..)
    refine Claim.wait_lawful (c := c.passOn now) h0 (x := w) (by rw [ep]; rfl) hne ?_ (h5 st (.inl hh)).1 (h5 st (.inl hh)).2
    rw [ep]
    exact fun hm => h3 st hh (List.mem_filter.mp hm).1

theorem Claim.overrideBy_lawful {c : Claim} {g : Group} {at' : Station → Bool} (h : c.lawful g at') {st x : Station}
    (hh : c.holder = some x) (hne : x ≠ st) (ha : at' st = true) (hp : permitted g st = true) (now : Time) :
    (c.overrideBy st x now).lawful g at' := by
  have h0 := Claim.give_lawful h ha hp now
  obtain ⟨h1, h2, h3, h4, h5⟩ := h
  have hx : x ∉ c.waiting.filter (· != st) := fun hm => h3 x hh (List.mem_filter.mp hm).1
  have hn : (x :: c.waiting.filter (· != st)).Nodup := List.nodup_cons.mpr ⟨hx, h2.filter _⟩
  have hs : st ∉ x :: c.waiting.filter (· != st) := fun hm => by
    rcases List.mem_cons.mp hm with hm | hm
    · exact hne hm.symm
    · have := (List.mem_filter.mp hm).2
      simp at this
  refine ⟨stations_length hn hs, hn, fun y hy => ?_, nofun, fun y hy => ?_⟩
  · cases hy; exact hs
  · rcases hy with hy | hy
    · exact h0.2.2.2.2 y (.inl hy)
    · rcases List.mem_cons.mp hy with hy | hy
      · rw [hy]; exact h5 x (.inl hh)
      · exact h0.2.2.2.2 y (.inr hy)

theorem PerGroup.get_set_eq {α : Type} (p : PerGroup α) (g k : Group) (x : α) :
    (p.set g x).get k = if k = g then x else p.get k := by
  cases g <;> cases k <;> rfl

/-- One group's entry changed within its law. -/
theorem Inside.modClaim {s : State} (h : Inside s) (g : Group) (f : Claim → Claim)
    (hf : (f (s.claims.get g)).lawful g s.attends) : Inside (s.modClaim g f) where
  claims := fun k => by
    show ((s.claims.set g (f (s.claims.get g))).get k).lawful k s.attends
    rw [PerGroup.get_set_eq]
    split
    · rename_i e
      subst e; exact hf
    · exact h.claims k
  draft := h.draft
  store := h.store
  setpoint := h.setpoint
  outputs := h.outputs
  copies := fun x a => match x with
    | .travel => h.copies .travel a
    | .spray => h.copies .spray a
    | .water => h.copies .water a
    | .supervision => h.copies .supervision a
  waterCopy := h.waterCopy
  frostCopy := h.frostCopy
  valves := h.valves
  estimate := h.estimate
  flow := h.flow
  queues := h.queues
  safeStop := h.safeStop
  idle := h.idle
  commission := h.commission
  starting := h.starting

/-- The slots, the draft or a record of the slots changed with the uses as they were. -/
theorem Inside.modProfile {s : State} (h : Inside s) (f : Profiles → Profiles)
    (hd : ∀ d, (f s.profile).draft = some d → s.attends d.owner = true)
    (hc : (f s.profile).changeover = s.profile.changeover) (hs : (f s.profile).storeOk)
    (hi : s.profile.idle → (f s.profile).idle) : Inside (s.modProfile f) where
  claims := h.claims
  draft := hd
  store := hs
  setpoint := h.setpoint
  outputs := h.outputs
  copies := fun x a => match x with
    | .travel => h.copies .travel a
    | .spray => h.copies .spray a
    | .water => h.copies .water a
    | .supervision => h.copies .supervision a
  waterCopy := h.waterCopy
  frostCopy := h.frostCopy
  valves := h.valves
  estimate := h.estimate
  flow := h.flow
  queues := h.queues
  safeStop := ⟨fun e => ⟨hc.trans (h.safeStop.1 e).1, (h.safeStop.1 e).2⟩, h.safeStop.2⟩
  idle := fun hm => ⟨(h.idle hm).1, hc.trans (h.idle hm).2.1, hi (h.idle hm).2.2.1, (h.idle hm).2.2.2⟩
  commission := h.commission
  starting := h.starting

theorem Inside.closeDraft {s : State} (h : Inside s) : Inside (closeDraft s) := by
  have h1 : Profiles.storeOk { s.profile with draft := none } := h.store
  have h2 : s.profile.idle → Profiles.idle { s.profile with draft := none } := fun e => e
  exact h.modProfile (fun p => { p with draft := none }) (fun _ hd => nomatch hd) rfl h1 h2

theorem Inside.discardDraftOf {raise : Raiser} (hr : ∀ r u, Cascade u (raise r u)) (st : Station) {s : State}
    (h : Inside s) : Inside (discardDraftOf raise st s) := by
  unfold Sys2Proof.Machine.discardDraftOf
  split
  · split
    · exact h.closeDraft.of_cascade (hr _ _)
    · exact h
  · exact h

theorem Inside.grantRaise {raise : Raiser} (hr : ∀ r u, Cascade u (raise r u)) (g : Group) (w : Handover)
    (o : Option Station) {s : State} (h : Inside s) : Inside (grantRaise raise g w o s) := by
  unfold Sys2Proof.Machine.grantRaise
  split
  · exact h.of_cascade (hr _ _)
  · exact h

theorem Inside.lostGroup {raise : Raiser} (hr : ∀ r u, Cascade u (raise r u)) (g : Group) (st : Station) {s : State}
    (h : Inside s) : Inside (lostGroup raise g st s) := by
  unfold Sys2Proof.Machine.lostGroup
  split
  · exact h.of_cascade (Cascade.travelHolderGone s)
  · exact h.discardDraftOf hr st
  · exact h

/-! ## A station leaving (R25 to R27) -/

theorem grantRaise_frame {raise : Raiser} (hr : ∀ r u, Cascade u (raise r u)) (g : Group) (w : Handover)
    (o : Option Station) (s : State) : Cascade s (Sys2Proof.Machine.grantRaise raise g w o s) := by
  unfold Sys2Proof.Machine.grantRaise
  split
  · exact hr _ _
  · exact .refl _

/-- R25 for one group: the station gone from it, the other groups as they were. -/
theorem leaveGroup_claims {raise : Raiser} (hr : ∀ r u, Cascade u (raise r u)) (st : Station) (w : Handover) (s : State)
    (g : Group) : (leaveGroup raise st w s g).claims = s.claims.set g
      (if (s.claims.get g).holder = some st then (s.claims.get g).passOn s.time
        else { s.claims.get g with waiting := (s.claims.get g).waiting.filter (· != st) }) := by
  unfold leaveGroup
  dsimp only
  split
  · split
    · exact (Cascade.travelHolderGone _).claims.trans (grantRaise_frame hr _ _ _ _).claims
    · exact (grantRaise_frame hr _ _ _ _).claims
  · rfl

theorem Inside.leaveGroup {raise : Raiser} (hr : ∀ r u, Cascade u (raise r u)) (st : Station) (w : Handover) (g : Group)
    {s : State} (h : Inside s) : Inside (leaveGroup raise st w s g) := by
  unfold Sys2Proof.Machine.leaveGroup
  dsimp only
  split
  · have h1 := h.modClaim g (fun c => c.passOn s.time) (Claim.passOn_lawful (h.claims g) s.time)
    split
    · exact (h1.grantRaise hr _ _ _).of_cascade (Cascade.travelHolderGone _)
    · exact h1.grantRaise hr _ _ _
  · exact h.modClaim g _ (Claim.withdraw_lawful (h.claims g) st)

/-- A station neither holds a group nor waits for it. -/
def Claim.without (c : Claim) (st : Station) : Prop := c.holder ≠ some st ∧ st ∉ c.waiting

theorem Claim.leave_without {c : Claim} {g : Group} {at' : Station → Bool} (h : c.lawful g at') (st : Station)
    (now : Time) :
    (if c.holder = some st then c.passOn now else { c with waiting := c.waiting.filter (· != st) }).without st := by
  split
  · rename_i hh
    have hn := h.2.2.1 st hh
    unfold Claim.passOn
    split
    · exact ⟨nofun, nofun⟩
    · rename_i w rest hw
      refine ⟨fun e => hn ?_, fun hm => hn (List.mem_filter.mp hm).1⟩
      have : w = st := Option.some.inj e
      rw [hw, this]; exact List.mem_cons_self ..
  · rename_i hh
    refine ⟨hh, fun hm => ?_⟩
    have := (List.mem_filter.mp hm).2
    simp at this

/-- After the teardown of every group the station is in none. -/
theorem leaveGroups_without {raise : Raiser} (hr : ∀ r u, Cascade u (raise r u)) (st : Station) (w : Handover)
    (l : List Group) {s : State} (h : Inside s) :
    Inside (l.foldl (Sys2Proof.Machine.leaveGroup raise st w) s) ∧
      ∀ g, g ∈ l ∨ (s.claims.get g).without st →
        ((l.foldl (Sys2Proof.Machine.leaveGroup raise st w) s).claims.get g).without st := by
  induction l generalizing s with
  | nil => exact ⟨h, fun g hg => hg.elim nofun id⟩
  | cons a l ih =>
    have h1 := h.leaveGroup hr st w a
    obtain ⟨i1, i2⟩ := ih h1
    refine ⟨i1, fun g hg => i2 g ?_⟩
    by_cases e : g = a
    · right
      rw [leaveGroup_claims hr, PerGroup.get_set_eq, if_pos e]
      exact Claim.leave_without (h.claims a) st s.time
    · rcases hg with hg | hg
      · rcases List.mem_cons.mp hg with hg | hg
        · exact absurd hg e
        · exact .inl hg
      · right
        rw [leaveGroup_claims hr, PerGroup.get_set_eq, if_neg e]; exact hg

theorem discardDraftOf_owner {raise : Raiser} (hr : ∀ r u, Cascade u (raise r u)) (st : Station) (s : State) :
    (Sys2Proof.Machine.discardDraftOf raise st s).claims = s.claims ∧
      ∀ d, (Sys2Proof.Machine.discardDraftOf raise st s).profile.draft = some d → d.owner ≠ st := by
  unfold Sys2Proof.Machine.discardDraftOf
  split
  · rename_i d hd
    split
    · refine ⟨(hr _ _).claims, fun e he => ?_⟩
      rw [(hr _ _).draft] at he
      cases he
    · rename_i hn
      refine ⟨rfl, fun e he => ?_⟩
      rw [hd] at he
      cases he
      exact hn
  · rename_i hd
    exact ⟨rfl, fun e he => by rw [hd] at he; cases he⟩

/-- A station that holds nothing departs, and its factor state is reset (R23, R24, R172). -/
theorem Inside.depart {s : State} (h : Inside s) (st : Station) (f : Attendance → Attendance)
    (hc : ∀ g, (s.claims.get g).without st) (hd : ∀ d, s.profile.draft = some d → d.owner ≠ st) :
    Inside ((s.modAttend st f).modStation st fun _ => StationNotices.reset) := by
  have e : ∀ x, x ≠ st → ((s.modAttend st f).modStation st fun _ => StationNotices.reset).attends x = s.attends x :=
    fun x hx => by
      show (((s.attendance.set st (f (s.attendance.get st))).get x).state == .attending) = _
      rw [PerStation.get_set_eq, if_neg hx]
      rfl
  exact
    { claims := fun g => by
        obtain ⟨h1, h2, h3, h4, h5⟩ := h.claims g
        refine ⟨h1, h2, h3, h4, fun x hx => ?_⟩
        have hne : x ≠ st := fun e => by
          subst e
          rcases hx with hx | hx
          · exact (hc g).1 hx
          · exact (hc g).2 hx
        rw [e x hne]
        exact h5 x hx
      draft := fun d hd' => (e _ (hd d hd')).trans (h.draft d hd')
      store := h.store, setpoint := h.setpoint, outputs := h.outputs
      copies := fun x a => match x with
        | .travel => h.copies .travel a
        | .spray => h.copies .spray a
        | .water => h.copies .water a
        | .supervision => h.copies .supervision a
      waterCopy := h.waterCopy, frostCopy := h.frostCopy, valves := h.valves, estimate := h.estimate
      flow := h.flow
      queues := fun x => by
        show ((s.notices.set st StationNotices.reset).get x).queue.length ≤ 16
        rw [PerStation.get_set_eq]
        split
        · exact Nat.zero_le _
        · exact h.queues x
      safeStop := h.safeStop, idle := h.idle, commission := h.commission
      starting := h.starting }

theorem Inside.noStationTest {raise : Raiser} (hr : ∀ r u, Cascade u (raise r u)) {s : State} (h : Inside s) :
    Inside (noStationTest raise s) := by
  unfold Sys2Proof.Machine.noStationTest
  split
  · exact h.enterSafeStop hr _
  · exact h

/-- R25 to R27: the teardown keeps the laws. -/
theorem Inside.teardown {raise : Raiser} (hr : ∀ r u, Cascade u (raise r u)) (st : Station) (why : Departure)
    {s : State} (h : Inside s) : Inside (teardown raise st why s) := by
  have key : ∀ w : Handover, Inside (Sys2Proof.Machine.discardDraftOf raise st
      (Group.list.foldl (Sys2Proof.Machine.leaveGroup raise st w) s)) ∧
      (∀ g, ((Sys2Proof.Machine.discardDraftOf raise st
        (Group.list.foldl (Sys2Proof.Machine.leaveGroup raise st w) s)).claims.get g).without st) ∧
      ∀ d, (Sys2Proof.Machine.discardDraftOf raise st
        (Group.list.foldl (Sys2Proof.Machine.leaveGroup raise st w) s)).profile.draft = some d → d.owner ≠ st :=
    fun w => by
      obtain ⟨h1, c1⟩ := leaveGroups_without hr st w Group.list h
      obtain ⟨e2, d2⟩ := discardDraftOf_owner hr st (Group.list.foldl (Sys2Proof.Machine.leaveGroup raise st w) s)
      exact ⟨h1.discardDraftOf hr st, fun g => by rw [e2]; exact c1 g (.inl (by cases g <;> decide)), d2⟩
  unfold Sys2Proof.Machine.teardown
  dsimp only
  refine Inside.noStationTest hr ?_
  obtain ⟨h2, c2, d2⟩ := key (match why with
    | .left => Handover.holderLeft
    | .expired => .holderLapsed)
  have fin := fun (t3 : State) (f3 : Cascade _ t3) =>
    (h2.of_cascade f3).depart st (fun v => v.departed why) (fun g => by rw [f3.claims]; exact c2 g)
      (fun d hd => d2 d (f3.draft ▸ hd))
  exact fin _ (hr _ _)

/-! ## Leaving STARTING (R69, R110, R148, R178) -/

theorem Cascade.startArm {raise : Raiser} (hr : ∀ r u, Cascade u (raise r u)) (a : Arm) (s : State) :
    Cascade s (startArm raise a s) := by
  have h : ∀ st : ArmState, st.lowered = false → Cascade s (announce raise a st [] none
      (s.modArm a fun u => { u with state := st })) := fun st hst =>
    Frame.announce hr ((Frame.refl _ _ s).then_modArmUp _ hst)
  have h1 : (if (s.arm a).up then ArmState.stowed else .halted).lowered = false := by split <;> rfl
  exact h _ h1

theorem Cascade.conflictTest {raise : Raiser} (hr : ∀ r u, Cascade u (raise r u)) (a : Arm) (s : State) :
    Cascade s (conflictTest raise a s) := by
  unfold Sys2Proof.Machine.conflictTest
  split
  · exact Cascade.faultArm hr _ _ _
  · exact .refl _

/-- The account at leaving STARTING: clamped, its state handed on. -/
theorem Frame.startWater (s : State) : Frame .none .water s (startWater s) := by
  set w := s.water.clampLow (s.item 23) with hw
  set m := s.modWater fun _ => { w with state := w.stateFor (s.item 23) } with hm
  have k := Water.clampLow_kept s.water (s.item 23)
  have h2 : Frame .none .water m (Sys2Proof.Machine.handWater m) := Frame.handWater m
  exact { h2 with
    waterCopy := fun _ => handWater_copies m
    waterKept := nofun
    copies := fun c a hx hc => h2.copies c a hx (match c with
      | .travel => hc
      | .spray => hc
      | .water => by
        show w.armDown.get a = _
        rw [hw, Water.clampLow_armDown]; exact hc
      | .supervision => hc)
    water := fun he => h2.water (by
      show w.estimate ≤ _
      exact (k _ he).1) }

/-- The state at leaving STARTING, before the arms and the account. -/
theorem startRunning_within (lost : Bool) {s : State} (h : Inside s) (hm : s.supervision.mode = .starting) :
    Within (startRunning lost s) := by
  have hi := h.idle (by rw [hm]; exact nofun)
  have e : ∀ a, ((startRunning lost s).arm a).state = (s.arm a).state := fun a => by cases a <;> rfl
  exact
    { claims := h.claims, draft := h.draft, store := h.store, setpoint := h.setpoint
      outputs := fun a => by
        have := h.outputs a
        cases a <;> exact this
      copies := fun c a => by
        have := h.copies c a
        cases c <;> cases a <;> exact this
      waterCopy := h.waterCopy, frostCopy := rfl, estimate := h.estimate
      flow := h.flow, queues := h.queues
      safeStop := ⟨fun hs => ⟨hi.2.1, fun a ha => by
          rw [e] at ha
          have := hi.2.2.2 a
          rw [ha] at this; cases this⟩, h.safeStop.2⟩
      idle := fun _ => ⟨hi.1, hi.2.1, hi.2.2.1, fun a => by rw [e]; exact hi.2.2.2 a⟩
      commission := ⟨fun hc => by
          have hc : (if s.supervision.committed then Mode.operational else .commissioning) = .operational := hc
          show s.supervision.committed = true
          cases hs : s.supervision.committed
          · rw [hs] at hc; cases hc
          · rfl, h.commission.2⟩
      starting := by
        have hn : (if s.supervision.committed then Mode.operational else Mode.commissioning) ≠ .starting := by
          split <;> exact nofun
        exact ⟨⟨fun hc => absurd hc hn, fun hc => absurd rfl hc⟩, fun hc => absurd hc hn⟩ }

/-- R69: leaving STARTING keeps the laws. -/
theorem Inside.leaveStarting {raise : Raiser} (hr : ∀ r u, Cascade u (raise r u)) (lost : Bool) {s : State}
    (h : Inside s) (hp : s.clock.phase ≠ .running) : Inside (leaveStarting lost raise s) := by
  have hu := startRunning_within lost h (h.starting.1.mpr hp)
  have f1 : Cascade (startRunning lost s)
      (Arm.list.foldl (fun t a => Sys2Proof.Machine.startArm raise a t) (startRunning lost s)) :=
    Cascade.foldl _ _ (fun u a => Cascade.startArm hr a u) _
  unfold Sys2Proof.Machine.leaveStarting
  dsimp only
  generalize Arm.list.foldl (fun t a => Sys2Proof.Machine.startArm raise a t) (startRunning lost s) = t1 at f1
  have f2 : Frame .none .water (startRunning lost s)
      (Sys2Proof.Machine.evaluateZones (Sys2Proof.Machine.startWater t1)) :=
    ((Cascade.to f1).trans (Frame.startWater t1)).andThen (Cascade.evaluateZones (Sys2Proof.Machine.startWater t1) id)
  have h2 : Inside (Sys2Proof.Machine.evaluateZones (Sys2Proof.Machine.startWater t1)) :=
    ⟨hu.of_frame f2 (safeStopLaw_of_calm rfl f2 hu.safeStop) (idleLaw_of_calm rfl f2 hu.idle), evaluateZones_valveLaw _⟩
  have h3 := (h2.of_cascade (Cascade.needCeiling _)).of_cascade
    (Cascade.foldl Arm.list (fun t a => Sys2Proof.Machine.conflictTest raise a t) (fun u a => Cascade.conflictTest hr a u) _)
  split
  · exact h3.clockFault hr
  · exact h3

end Sys2Proof.Machine
end

