-- ==== Sys2Proof/Laws/Field.lean ====
section
/-! SUPPORT. A published wheel speed is a cascade. -/

namespace Sys2Proof.Machine

set_option Elab.async false

theorem Water.sweep_kept (w : Water) (n m : Nat) : (w.sweep n m).estimate = w.estimate ∧
    (w.sweep n m).armDown = w.armDown ∧ (w.sweep n m).state = w.state := by
  unfold Water.sweep
  split <;> exact ⟨rfl, rfl, rfl⟩

/-- R77: the four blocks that take a published wheel speed. -/
theorem Cascade.publishWheel (v : Int) (n : Nat) (s : State) : Cascade s (publishWheel v n s) := by
  have h1 : Cascade s (travelTakesSpeed v s) :=
    ((Cascade.modTravel s (fun g => { g with wheelSpeed := v }) id).trans (Cascade.stopTest _)).trans
      (Cascade.overspeedTest _)
  have h2 : ∀ u, Cascade u (Arm.list.foldl (fun t a => Sys2Proof.Machine.armTakesSpeed v a t) u) := fun u =>
    Cascade.foldl _ _ (fun u a => Cascade.armTakesSpeed v a u) u
  have h3 : ∀ (u : State) (m : Nat), Cascade u (u.modWater fun w => w.sweep n m) := fun u m => by
    have k := Water.sweep_kept u.water n m
    exact Cascade.modWater u (fun w => w.sweep n m) (fun hw => by rw [k.1]; exact hw) k.2.1 k.2.2
  exact ((h1.trans (h2 _)).trans (Cascade.sprayTakesSpeed v _)).trans (h3 _ _)

end Sys2Proof.Machine
end

