-- ==== Sys2Proof/Laws/Plain.lean ====
section
/-! SUPPORT. With no reaction bound a raise is a delivery and no more, and the end of an event touches only ceilings,
grants and notices. -/

namespace Sys2Proof.Machine

set_option Elab.async false

theorem NoReactions.matching {s : State} (h : NoReactions s) (r : Raise) : s.matching r = none := by
  unfold State.matching
  rw [List.find?_eq_none]
  intro e _
  rw [h e]
  exact nofun

/-- A raise with no reaction bound is delivered at once (R176). -/
theorem raiseWith_plain {s : State} (h : NoReactions s) (n : Nat) (r : Raise) : raiseWith n r s = deliverPlain r s := by
  cases n with
  | zero => rfl
  | succ n =>
    show raiseOnce _ r s = _
    unfold raiseOnce
    rw [h.matching r]

theorem raiseFactor_plain {s : State} (h : NoReactions s) (r : Raise) : raiseFactor r s = deliverPlain r s :=
  raiseWith_plain h 8 r

/-- With no reaction bound nothing is in flight to complete. -/
theorem completeWith_plain {s : State} (h : NoReactions s) (e : EntryNo) (o : ActionOutcome) (z : ZoneSet) :
    completeWith e o z s = s := by
  unfold completeWith release
  rw [h e]

theorem completeAll_plain {s : State} (h : NoReactions s) (p : Action → Bool) (o : ActionOutcome) :
    completeAll p o s = s := by
  have k : ∀ l : List EntryNo, l.foldl (fun t e => complete e o t) s = s := fun l => by
    induction l with
    | nil => rfl
    | cons e l ih => exact (congrArg (fun t => l.foldl (fun t e => complete e o t) t) (completeWith_plain h e o _)).trans ih
  exact k _

theorem Ended.refl (s : State) : Ended s s := by constructor <;> first | rfl | exact fun _ => rfl | exact fun _ => ⟨rfl, rfl⟩ | exact fun _ _ _ _ => ⟨rfl, rfl⟩ | exact fun _ h => ⟨h, rfl, rfl, rfl⟩ | exact fun _ => Iff.rfl | exact fun _ _ _ h => h

theorem Ended.trans {s t u : State} (h : Ended s t) (k : Ended t u) : Ended s u where
  pending := k.pending.trans h.pending
  time := k.time.trans h.time
  clock := k.clock.trans h.clock
  links := k.links.trans h.links
  attendance := k.attendance.trans h.attendance
  claims := k.claims.trans h.claims
  profile := k.profile.trans h.profile
  capture := k.capture.trans h.capture
  switches := k.switches.trans h.switches
  water := k.water.trans h.water
  supervision := k.supervision.trans h.supervision
  reactions := k.reactions.trans h.reactions
  travel := by
    have a := k.travel; rw [h.travel] at a; exact a
  arms x := by
    have a := k.arms x; rw [h.arms x] at a; exact a
  spray := by
    have a := k.spray; rw [h.spray] at a; exact a
  flow := by
    have a := k.flow; rw [h.flow] at a; exact a
  still a ha := by
    obtain ⟨h1, h2, h3, h4⟩ := h.still a ha
    obtain ⟨k1, k2, k3, k4⟩ := k.still a h1
    exact ⟨k1, k2.trans h2, k3.trans h3, k4.trans h4⟩
  waits a := (k.waits a).trans (h.waits a)
  raised a hw hd hr := by
    have e : (t.arm a).state = (s.arm a).state := by rw [h.arms a]
    exact k.raised a (e ▸ hw) (e ▸ hd) (h.raised a hw hd hr)
  masks st := ⟨(k.masks st).1.trans (h.masks st).1, (k.masks st).2.trans (h.masks st).2⟩
  held st f h12 h13 := ⟨(k.held st f h12 h13).1.trans (h.held st f h12 h13).1,
    (k.held st f h12 h13).2.trans (h.held st f h12 h13).2⟩

theorem Ended.unbound {s t : State} (h : Ended s t) (hn : NoReactions s) : NoReactions t := fun e => by
  rw [h.reactions]; exact hn e

theorem Ended.modWork (s : State) (f : Work → Work) : Ended s (s.modWork f) := by
  constructor <;> first | rfl | exact fun _ => rfl | exact fun _ => ⟨rfl, rfl⟩ | exact fun _ _ _ _ => ⟨rfl, rfl⟩ | exact fun _ h => ⟨h, rfl, rfl, rfl⟩ | exact fun _ => Iff.rfl | exact fun _ _ _ h => h

/-- A delivery sets its own factor alone (R167). -/
theorem StationNotices.take_other (v : StationNotices) (h : HeldRecord) (k : Fin 24) (hk : k ≠ h.detail.factor) :
    (v.take h).held[k] = v.held[k] ∧ (v.take h).flags.getLsbD k = v.flags.getLsbD k := by
  have e1 : (v.take h).held = v.held.set h.detail.factor (some h) := by
    unfold StationNotices.take StationNotices.append
    dsimp only
    split
    · rfl
    · split <;> rfl
  have e2 : (v.take h).flags = v.flags ||| BitVec.twoPow 24 h.detail.factor := by
    unfold StationNotices.take StationNotices.append
    dsimp only
    split
    · rfl
    · split <;> rfl
  have hne : (h.detail.factor : Nat) ≠ (k : Nat) := fun e => hk (Fin.ext e.symm)
  rw [e1, e2]
  constructor
  · show (v.held.set h.detail.factor (some h))[(k : Nat)] = v.held[(k : Nat)]
    exact Vector.getElem_set_ne _ _ hne
  · rw [BitVec.getLsbD_or, BitVec.getLsbD_twoPow]
    simp [hne]

theorem deliver_get (r : Raise) (c : Option Completion) (s : State) (st : Station) :
    (deliver r c s).notices.get st =
      if s.reaches r.audience st then (s.notices.get st).take (r.record c) else s.notices.get st := by cases st <;> rfl

theorem Ended.deliver {r : Raise} (hr : r.detail.factor = 12 ∨ r.detail.factor = 13) (c : Option Completion) (s : State) :
    Ended s (deliver r c s) := by
  constructor
  case masks =>
    intro st
    rw [deliver_get]
    split
    · have h := StationNotices.take_kept (s.notices.get st) (r.record c)
      exact ⟨h.masks, h.master⟩
    · exact ⟨rfl, rfl⟩
  case held =>
    intro st k h12 h13
    rw [deliver_get]
    split
    · refine StationNotices.take_other _ (r.record c) k fun e => ?_
      rcases hr with h | h
      · exact h12 (e.trans h)
      · exact h13 (e.trans h)
    · exact ⟨rfl, rfl⟩
  all_goals first | rfl | exact fun _ => rfl | exact fun _ => ⟨rfl, rfl⟩ | exact fun _ _ _ _ => ⟨rfl, rfl⟩ | exact fun _ h => ⟨h, rfl, rfl, rfl⟩ | exact fun _ => Iff.rfl | exact fun _ _ _ h => h

/-- A raise that is a delivery wherever nothing is bound. -/
def Plainly (raise : Raiser) : Prop := ∀ r s, NoReactions s → raise r s = deliverPlain r s

theorem Plainly.ended {raise : Raiser} (hr : Plainly raise) {r : Raise}
    (hk : r.detail.factor = 12 ∨ r.detail.factor = 13) {s : State} (hn : NoReactions s) : Ended s (raise r s) := by
  rw [hr r s hn]; exact .deliver hk _ _

theorem Ended.raiseAll {raise : Raiser} (hr : Plainly raise) (l : List Raise)
    (hl : ∀ r ∈ l, r.detail.factor = 12 ∨ r.detail.factor = 13) {s : State} (hn : NoReactions s) :
    Ended s (raiseAll raise l s) := by
  induction l generalizing s with
  | nil => exact .refl s
  | cons r l ih =>
    have h1 := hr.ended (hl r List.mem_cons_self) hn
    exact h1.trans (ih (fun x hx => hl x (List.mem_cons_of_mem _ hx)) (h1.unbound hn))

/-- What a reallocation raises is FLOW_SHORT (R162). -/
theorem shortRaises_factor (before : Flow) (s : State) : ∀ r ∈ shortRaises before s, r.detail.factor = 12 ∨ r.detail.factor = 13 := by
  intro r hr
  unfold shortRaises at hr
  simp only [List.mem_append] at hr
  rcases hr with (hr | hr) | hr
  all_goals
    split at hr
    · rw [List.mem_singleton] at hr; subst hr; exact .inr rfl
    · cases hr

/-- With nothing bound no entry is put in flight or freed. -/
theorem holdReached_plain {s : State} (h : NoReactions s) : holdReached s = s := by
  unfold holdReached
  generalize s.work.reached = l
  induction l with
  | nil => rfl
  | cons p l ih =>
    rw [List.foldl_cons]
    simp only [h p.1]
    exact ih

theorem freeReached_plain {s : State} (h : NoReactions s) : freeReached s = s := by
  unfold freeReached
  generalize s.work.reached = l
  induction l with
  | nil => rfl
  | cons p l ih =>
    rw [List.foldl_cons, h p.1]
    exact ih

/-- The raise of CEILING_CHANGED with nothing bound. -/
theorem ceilingCheck_raise {raise : Raiser} (hr : Plainly raise) {s : State} (hn : NoReactions s) (h : s.work.ceiling = true) :
    let t := (s.modTravel fun g => { g with ceiling := s.lowestSource.1, limiting := s.lowestSource.2 }).modWork
      fun w => { w with ceiling := false }
    ceilingCheck raise s =
      if s.lowestSource.2 = s.travel.limiting || s.work.ceilingRaised then t
      else deliverPlain (t.raiseOf (.source s.lowestSource.2) (.ceilingChanged s.travel.limiting s.lowestSource.1))
        (t.modWork fun w => { w with ceilingRaised := true }) := by
  intro t
  have hn' : NoReactions (t.modWork fun w => { w with ceilingRaised := true }) := hn
  unfold ceilingCheck
  rw [if_pos h]
  dsimp only
  split
  · rfl
  · rw [holdReached_plain hn', hr _ _ hn']

theorem Ended.ceilingCheck {raise : Raiser} (hr : Plainly raise) {s : State} (hn : NoReactions s) :
    Ended s (ceilingCheck raise s) := by
  by_cases hc : s.work.ceiling = true
  · rw [ceilingCheck_raise hr hn hc]
    have h1 : Ended s ((s.modTravel fun g => { g with ceiling := s.lowestSource.1, limiting := s.lowestSource.2 }).modWork
        fun w => { w with ceiling := false }) := by
      constructor <;> first | rfl | exact fun _ => rfl | exact fun _ => ⟨rfl, rfl⟩ | exact fun _ _ _ _ => ⟨rfl, rfl⟩ | exact fun _ h => ⟨h, rfl, rfl, rfl⟩ | exact fun _ => Iff.rfl | exact fun _ _ _ h => h
    split
    · exact h1
    · exact (h1.trans (Ended.modWork _ fun w => { w with ceilingRaised := true })).trans (.deliver (.inl rfl) _ _)
  · unfold Sys2Proof.Machine.ceilingCheck
    rw [if_neg hc]
    exact .refl s

theorem Ended.orderPosted (s : State) : Ended s (orderPosted s) := by
  unfold Sys2Proof.Machine.orderPosted
  dsimp only
  split <;> constructor <;> first | rfl | exact fun _ => rfl | exact fun _ => ⟨rfl, rfl⟩ | exact fun _ _ _ _ => ⟨rfl, rfl⟩ | exact fun _ h => ⟨h, rfl, rfl, rfl⟩ | exact fun _ => Iff.rfl | exact fun _ _ _ h => h

theorem Flow.settle_rest (f : Flow) : f.settle = { f with
    liftGrant := f.settle.liftGrant, rotGrant := f.settle.rotGrant, pumpGrant := f.settle.pumpGrant
    queue := f.settle.queue, granted := f.settle.granted } := by
  have h1 : ∀ n (g : Flow), Flow.withdrawLifts n g = { g with
      liftGrant := (Flow.withdrawLifts n g).liftGrant, queue := (Flow.withdrawLifts n g).queue
      granted := (Flow.withdrawLifts n g).granted } := by
    intro n
    induction n with
    | zero => exact fun _ => rfl
    | succ n ih =>
      intro g
      unfold Flow.withdrawLifts
      split
      · split
        · rfl
        · exact ih _
      · rfl
  have h2 : ∀ n (g : Flow), Flow.grantLifts n g = { g with
      liftGrant := (Flow.grantLifts n g).liftGrant, queue := (Flow.grantLifts n g).queue
      granted := (Flow.grantLifts n g).granted } := by
    intro n
    induction n with
    | zero => exact fun _ => rfl
    | succ n ih =>
      intro g
      unfold Flow.grantLifts
      split
      · rfl
      · split
        · exact ih _
        · rfl
  unfold Flow.settle Flow.grantPump Flow.grantRotation
  dsimp only
  rw [h2 3 (Flow.withdrawLifts 3 f), h1 3 f]

theorem ArmUnit.takeLift_rest (u : ArmUnit) (g m : Nat) : u.takeLift g m = { u with
    liftGrant := (u.takeLift g m).liftGrant, sub := (u.takeLift g m).sub
    motionTimer := (u.takeLift g m).motionTimer, liftDownOpen := (u.takeLift g m).liftDownOpen
    liftUpOpen := (u.takeLift g m).liftUpOpen } := by
  unfold ArmUnit.takeLift
  split
  · rfl
  · split <;> rfl

theorem postGrants_arm (s : State) (a : Arm) : (postGrants s).arm a =
    ((s.arm a).takeLift (s.flow.liftGrant.get a) (s.motionTimeout (s.arm a).state)).takeRotation
      (s.flow.rotGrant.get a) (s.item 12) := by cases a <;> rfl

theorem Ended.postGrants (s : State) : Ended s (postGrants s) := by
  constructor
  case masks => exact fun _ => ⟨rfl, rfl⟩
  case held => exact fun _ _ _ _ => ⟨rfl, rfl⟩
  case still =>
    intro a ha
    have e : ∀ g m, (s.arm a).takeLift g m = { s.arm a with liftGrant := g } := fun g m => by
      unfold ArmUnit.takeLift
      rw [if_neg (by rw [ha]; exact nofun), if_neg (by rw [ha]; exact nofun)]
    rw [postGrants_arm, e]
    exact ⟨ha, rfl, rfl, rfl⟩
  case waits =>
    intro a
    rw [postGrants_arm]
    show ((s.arm a).takeLift _ _).sub = _ ↔ _
    unfold ArmUnit.takeLift
    split
    · rename_i h
      simp only [Bool.and_eq_true, beq_iff_eq] at h
      rw [h.1]; exact ⟨nofun, nofun⟩
    · split
      · rename_i h
        simp only [Bool.and_eq_true, beq_iff_eq] at h
        rw [h.1]; exact ⟨nofun, nofun⟩
      · exact Iff.rfl
  case raised =>
    intro a hw hd _
    rw [postGrants_arm]
    have hst : ∀ g m, ((s.arm a).takeLift g m).state = (s.arm a).state := fun g m => by
      unfold ArmUnit.takeLift; split <;> [rfl; split <;> rfl]
    unfold ArmUnit.takeRotation ArmUnit.rotOut
    dsimp only
    rw [hst]
    cases hs : (s.arm a).state <;> simp_all
  all_goals try rfl
  intro a
  have e : (Sys2Proof.Machine.postGrants s).arm a =
      ((s.arm a).takeLift (s.flow.liftGrant.get a) (s.motionTimeout (s.arm a).state)).takeRotation
        (s.flow.rotGrant.get a) (s.item 12) := by cases a <;> rfl
  rw [e]
  have hw := ArmUnit.takeLift_rest (s.arm a) (s.flow.liftGrant.get a) (s.motionTimeout (s.arm a).state)
  generalize (s.arm a).takeLift (s.flow.liftGrant.get a) (s.motionTimeout (s.arm a).state) = w at hw ⊢
  exact congrArg (fun x : ArmUnit => { x with
    rotGrant := s.flow.rotGrant.get a, rot := (w.takeRotation (s.flow.rotGrant.get a) (s.item 12)).rot }) hw

theorem Ended.handOffer (was : Bool) (s : State) : Ended s (handOffer was s) := by
  unfold Sys2Proof.Machine.handOffer
  split
  · dsimp only
    split <;> constructor <;> first | rfl | exact fun _ => rfl | exact fun _ => ⟨rfl, rfl⟩ | exact fun _ _ _ _ => ⟨rfl, rfl⟩ | exact fun _ h => ⟨h, rfl, rfl, rfl⟩ | exact fun _ => Iff.rfl | exact fun _ _ _ h => h
  · split
    · constructor <;> first | rfl | exact fun _ => rfl | exact fun _ => ⟨rfl, rfl⟩ | exact fun _ _ _ _ => ⟨rfl, rfl⟩ | exact fun _ h => ⟨h, rfl, rfl, rfl⟩ | exact fun _ => Iff.rfl | exact fun _ _ _ h => h
    · exact .refl s

theorem Ended.reallocate (s : State) : Ended s (reallocate s).1 := by
  have h1 := (Ended.modWork s fun w => { w with realloc := false }).trans (Ended.orderPosted _)
  generalize hu : Sys2Proof.Machine.orderPosted (s.modWork fun w => { w with realloc := false }) = u at h1
  have h2 : Ended u (u.modFlow Flow.settle) := by
    constructor
    all_goals first | rfl | exact fun _ => rfl | exact fun _ => ⟨rfl, rfl⟩ | exact fun _ _ _ _ => ⟨rfl, rfl⟩ | exact fun _ h => ⟨h, rfl, rfl, rfl⟩ | exact fun _ => Iff.rfl | exact fun _ _ _ h => h | skip
    have k := Flow.settle_rest u.flow
    show u.flow.settle = { u.flow with
      liftGrant := u.flow.settle.liftGrant, rotGrant := u.flow.settle.rotGrant, pumpGrant := u.flow.settle.pumpGrant
      queue := u.flow.settle.queue, granted := u.flow.settle.granted, short3 := u.flow.settle.short3
      short2 := u.flow.settle.short2, short1 := u.flow.settle.short1, lastOffer := u.flow.settle.lastOffer }
    rw [show u.flow.settle.short3 = u.flow.short3 from (congrArg Flow.short3 k :),
      show u.flow.settle.short2 = u.flow.short2 from (congrArg Flow.short2 k :),
      show u.flow.settle.short1 = u.flow.short1 from (congrArg Flow.short1 k :),
      show u.flow.settle.lastOffer = u.flow.lastOffer from (congrArg Flow.lastOffer k :)]
    exact k
  have h3 : Ended _ _ := Ended.postGrants (u.modFlow Flow.settle)
  have h4 : ∀ v : State, Ended v (setShortFlags v) := fun v => by
    constructor <;> first | rfl | exact fun _ => rfl | exact fun _ => ⟨rfl, rfl⟩ | exact fun _ _ _ _ => ⟨rfl, rfl⟩ | exact fun _ h => ⟨h, rfl, rfl, rfl⟩ | exact fun _ => Iff.rfl | exact fun _ _ _ h => h
  have h5 := ((h1.trans h2).trans h3).trans ((h4 _).trans (Ended.handOffer s.flow.short2 _))
  unfold Sys2Proof.Machine.reallocate
  rw [hu]
  exact h5

theorem Ended.reallocPass {raise : Raiser} (hr : Plainly raise) {s : State} (hn : NoReactions s) :
    Ended s (reallocPass raise s) :=
  have h1 := Ended.reallocate s
  h1.trans (Ended.raiseAll hr _ (shortRaises_factor _ _) (h1.unbound hn))

theorem Ended.settlePass {raise : Raiser} (hr : Plainly raise) {s : State} (hn : NoReactions s) :
    Ended s (settlePass raise s) := by
  unfold Sys2Proof.Machine.settlePass
  split
  · split
    · exact Ended.reallocPass hr hn
    · have h1 := Ended.ceilingCheck hr hn
      exact h1.trans (Ended.reallocPass hr (h1.unbound hn))
  · exact Ended.ceilingCheck hr hn

theorem raiseFactor_plainly : Plainly raiseFactor := fun r _ h => raiseFactor_plain h r

theorem Ended.settle (n : Nat) {s : State} (hn : NoReactions s) : Ended s (settle n s) := by
  induction n generalizing s with
  | zero =>
    have hp : Plainly deliverPlain := fun _ _ _ => rfl
    unfold Sys2Proof.Machine.settle
    split
    · have h1 := Ended.reallocPass hp hn
      exact h1.trans (Ended.ceilingCheck hp (h1.unbound hn))
    · exact Ended.ceilingCheck hp hn
  | succ n ih =>
    unfold Sys2Proof.Machine.settle
    split
    · have h1 := Ended.settlePass raiseFactor_plainly hn
      exact h1.trans (ih (h1.unbound hn))
    · exact .refl s

/-! ## No cap is met at a hand-over -/

/-- A raise that is a delivery leaves the list of raises to deliver at the end. -/
theorem Plainly.reached {raise : Raiser} (hr : Plainly raise) {s : State} (hn : NoReactions s) (r : Raise) :
    (raise r s).work.reached = s.work.reached := by rw [hr r s hn]; rfl

theorem raiseAll_reached {raise : Raiser} (hr : Plainly raise) (l : List Raise)
    (hl : ∀ r ∈ l, r.detail.factor = 12 ∨ r.detail.factor = 13) {s : State} (hn : NoReactions s) :
    (raiseAll raise l s).work.reached = s.work.reached := by
  induction l generalizing s with
  | nil => rfl
  | cons r l ih =>
    have h1 := hr.ended (hl r List.mem_cons_self) hn
    exact (ih (fun x hx => hl x (List.mem_cons_of_mem _ hx)) (h1.unbound hn)).trans (hr.reached hn r)

theorem reallocate_reached (s : State) : (reallocate s).1.work.reached = s.work.reached := by
  have h1 : ∀ u : State, (orderPosted u).work.reached = u.work.reached := fun u => by
    unfold orderPosted
    dsimp only
    split <;> rfl
  have h2 : ∀ (w : Bool) (u : State), (handOffer w u).work.reached = u.work.reached := fun w u => by
    unfold handOffer
    split
    · dsimp only
      split <;> rfl
    · split <;> rfl
  show (handOffer s.flow.short2 (setShortFlags (postGrants ((orderPosted
    (s.modWork fun w => { w with realloc := false })).modFlow Flow.settle)))).work.reached = _
  rw [h2]
  show (orderPosted (s.modWork fun w => { w with realloc := false })).work.reached = _
  rw [h1]
  rfl

theorem reallocPass_reached {raise : Raiser} (hr : Plainly raise) {s : State} (hn : NoReactions s) :
    (reallocPass raise s).work.reached = s.work.reached :=
  (raiseAll_reached hr _ (shortRaises_factor _ _) ((Ended.reallocate s).unbound hn)).trans (reallocate_reached s)

theorem ceilingCheck_reached {raise : Raiser} (hr : Plainly raise) {s : State} (hn : NoReactions s) :
    (ceilingCheck raise s).work.reached = s.work.reached := by
  by_cases hc : s.work.ceiling = true
  · rw [ceilingCheck_raise hr hn hc]
    split <;> rfl
  · unfold ceilingCheck
    rw [if_neg hc]

theorem settle_reached (n : Nat) {s : State} (hn : NoReactions s) : (settle n s).work.reached = s.work.reached := by
  induction n generalizing s with
  | zero =>
    have hp : Plainly deliverPlain := fun _ _ _ => rfl
    unfold settle
    split
    · exact (ceilingCheck_reached hp ((Ended.reallocPass hp hn).unbound hn)).trans (reallocPass_reached hp hn)
    · exact ceilingCheck_reached hp hn
  | succ n ih =>
    unfold settle
    split
    · refine (ih ((Ended.settlePass raiseFactor_plainly hn).unbound hn)).trans ?_
      unfold settlePass
      split
      · split
        · exact reallocPass_reached raiseFactor_plainly hn
        · exact (reallocPass_reached raiseFactor_plainly ((Ended.ceilingCheck raiseFactor_plainly hn).unbound hn)).trans
            (ceilingCheck_reached raiseFactor_plainly hn)
      · exact ceilingCheck_reached raiseFactor_plainly hn
    · rfl

/-- With no reaction bound and no REVERSE_BLOCKED due, what an event leaves to its end is the passes alone. -/
theorem settleAll_plain {s : State} (hn : NoReactions s) (hb : s.work.blocked = none) (hr : s.work.reached = []) :
    settleAll s = (settle 16 s).modWork fun w => { w with reached := [] } := by
  have h0 : raiseBlocked raiseFactor s = s := by
    unfold raiseBlocked
    rw [hb]
  unfold settleAll deliverReached
  rw [h0, freeReached_plain ((Ended.settle 16 hn).unbound hn), settle_reached 16 hn, hr]
  rfl

/-- The end of an event with no reaction bound, no settled reset pending and no REVERSE_BLOCKED due. -/
theorem Ended.finish {s : State} (hn : NoReactions s) (hp : s.supervision.pendingReset = none)
    (hw : s.work.reset = none) (hb : s.work.blocked = none) (hr : s.work.reached = []) : Ended s (finish s) := by
  rw [finish_calm (settle_reset hp hw), settleAll_plain hn hb hr]
  exact ((Ended.settle 16 hn).trans (Ended.modWork _ _)).trans (Ended.modWork _ _)

end Sys2Proof.Machine
end

