-- ==== Sys2Proof/Laws/Values.lean ====
section
/-! SUPPORT. What handing on the values in force leaves in the copies of the blocks, and in what they command; the slots at
the end of a changeover. -/

namespace Sys2Proof.Machine

set_option Elab.async false

/-- An arm as it stands once it holds values: its copies, and the force and rotation target they give it (R45). -/
structure ArmUnit.HoldsValues (v : Values) (a : Arm) (u w : ArmUnit) : Prop where
  state : w.state = u.state
  speed : w.wheelSpeed = u.wheelSpeed
  inSet : w.inSet = v.arms.get a
  level : w.level = v.levels.get a
  points : w.points = v.points
  force : w.force = if u.state = .working then v.levels.get a * 100 / 15 else 0
  target : w.rotTarget = w.targetNow

theorem postRotation_rest (a : Arm) (d : Nat) (s : State) : (postRotation a d s).travel = s.travel ∧
    (postRotation a d s).spray = s.spray ∧ (postRotation a d s).profile = s.profile ∧
    (postRotation a d s).supervision = s.supervision := by
  unfold postRotation
  split <;> exact ⟨rfl, rfl, rfl, rfl⟩

/-- A stall test touches the stall timer and its mark alone (R132). -/
theorem ArmUnit.stallTest_rest (u : ArmUnit) (m n : Nat) : ∃ x y, u.stallTest m n =
    { u with stallTimer := x, stallExpired := y } := by
  unfold ArmUnit.stallTest
  split
  · split
    · exact ⟨_, _, rfl⟩
    · exact ⟨_, u.stallExpired, rfl⟩
  · exact ⟨_, _, rfl⟩

/-- An arm that takes values and is refreshed holds them (R111). -/
theorem ArmUnit.refresh_holds (v : Values) (a : Arm) (u : ArmUnit) (x y z : Nat) :
    ArmUnit.HoldsValues v a u (ArmUnit.refresh
      { u with inSet := v.arms.get a, level := v.levels.get a, points := v.points } x y z) := by
  have hf : ∀ n : Nat, (if u.state == .working then n else 0) = if u.state = .working then n else 0 := fun n => by
    simp only [beq_iff_eq]
  unfold ArmUnit.refresh
  dsimp only
  split
  · exact ⟨rfl, rfl, rfl, rfl, rfl, hf _, rfl⟩
  · obtain ⟨p, q, h⟩ := ArmUnit.stallTest_rest _ y z
    rw [h]
    exact ⟨rfl, rfl, rfl, rfl, rfl, hf _, rfl⟩

/-- One arm takes the values; the other arms and the other blocks stand. -/
theorem armTakesValues_arm (v : Values) (a : Arm) (s : State) :
    ArmUnit.HoldsValues v a (s.arm a) ((armTakesValues v a s).arm a) ∧
    (∀ b, b ≠ a → (armTakesValues v a s).arm b = s.arm b) ∧
    (armTakesValues v a s).travel = s.travel ∧ (armTakesValues v a s).spray = s.spray ∧
    (armTakesValues v a s).profile = s.profile ∧ (armTakesValues v a s).supervision = s.supervision := by
  unfold armTakesValues refreshArm
  dsimp only
  refine ⟨?_, ?_, postRotation_rest _ _ _⟩ <;> simp only [State.arm, postRotation_arms]
  · have h := ArmUnit.refresh_holds v a (s.arms.get a) (s.item 12) (s.item 10) (s.item 13)
    cases a <;> exact h
  · intro b hb
    cases a <;> cases b <;> first | rfl | exact absurd rfl hb

/-- An evaluation of the zones keeps what it is made of, and gives each zone its duty (R136, R138). -/
theorem evaluateZones_hands (s : State) : (evaluateZones s).profile = s.profile ∧
    (evaluateZones s).spray.zoneSet = s.spray.zoneSet ∧ (evaluateZones s).spray.points = s.spray.points ∧
    (evaluateZones s).spray.dwellDelay = s.spray.dwellDelay ∧ (evaluateZones s).spray.reserve = s.spray.reserve ∧
    (evaluateZones s).spray.wheelSpeed = s.spray.wheelSpeed ∧
    ∀ z, (evaluateZones s).spray.duty.get z =
      if (evaluateZones s).spray.zones.get z = .on then sprayAt s.spray.points s.spray.wheelSpeed else 0 := by
  have hd : ∀ z, s.spray.evaluate.duty.get z =
      if s.spray.evaluate.zones.get z = .on then sprayAt s.spray.points s.spray.wheelSpeed else 0 := fun z => by
    have h : s.spray.evaluate.duty.get z = if (s.spray.evaluate.zones.get z == .on) = true then
        sprayAt s.spray.points s.spray.wheelSpeed else 0 := by cases z <;> rfl
    simpa only [beq_iff_eq] using h
  unfold evaluateZones postPump
  dsimp only
  split <;> exact ⟨rfl, rfl, rfl, rfl, rfl, rfl, hd⟩

/-- The three arms take the values. -/
theorem armsTakeValues_arms (v : Values) (g : State) :
    let u := armTakesValues v .c (armTakesValues v .r (armTakesValues v .l g))
    (∀ a, ArmUnit.HoldsValues v a (g.arm a) (u.arm a)) ∧ u.travel = g.travel ∧ u.spray = g.spray ∧
    u.profile = g.profile ∧ u.supervision = g.supervision := by
  dsimp only
  obtain ⟨l1, l2, l3, l4, l5, l6⟩ := armTakesValues_arm v .l g
  generalize armTakesValues v .l g = x at *
  obtain ⟨r1, r2, r3, r4, r5, r6⟩ := armTakesValues_arm v .r x
  generalize armTakesValues v .r x = y at *
  obtain ⟨c1, c2, c3, c4, c5, c6⟩ := armTakesValues_arm v .c y
  generalize armTakesValues v .c y = u at *
  refine ⟨fun a => ?_, c3.trans (r3.trans l3), c4.trans (r4.trans l4), c5.trans (r5.trans l5), c6.trans (r6.trans l6)⟩
  cases a
  · rw [c2 .l (by decide), r2 .l (by decide)]
    exact l1
  · rw [c2 .r (by decide), ← l2 .r (by decide)]
    exact r1
  · rw [← l2 .c (by decide), ← r2 .c (by decide)]
    exact c1

/-- The Spray Unit takes the values last, and its evaluation leaves the arms and the TG. -/
theorem sprayTakesValues_hands (v : Values) (u : State) :
    let t := evaluateZones (u.modSpray fun p =>
      { p with zoneSet := v.zones, points := v.points, dwellDelay := v.dwell, reserve := v.reserve })
    t.profile = u.profile ∧ t.supervision = u.supervision ∧ t.travel = u.travel ∧ t.arms = u.arms ∧
    t.spray.zoneSet = v.zones ∧ t.spray.points = v.points ∧ t.spray.dwellDelay = v.dwell ∧ t.spray.reserve = v.reserve ∧
    ∀ z, t.spray.duty.get z = if t.spray.zones.get z = .on then sprayAt v.points u.spray.wheelSpeed else 0 := by
  dsimp only
  have e := evaluateZones_hands (u.modSpray fun p =>
    { p with zoneSet := v.zones, points := v.points, dwellDelay := v.dwell, reserve := v.reserve })
  have k := evaluateZones_rest (u.modSpray fun p =>
    { p with zoneSet := v.zones, points := v.points, dwellDelay := v.dwell, reserve := v.reserve })
  exact ⟨e.1, k.2.2.2.1, k.1, k.2.1, e.2.1, e.2.2.1, e.2.2.2.1, e.2.2.2.2.1, e.2.2.2.2.2.2⟩

/-- Handing on, whole: the TG, the Spray Unit and each arm hold the values in force, the zones have their duties, and the
profile store and the Supervision Unit stand (R44, R45). -/
theorem handValues_hands (s : State) :
    (handValues s).profile = s.profile ∧ (handValues s).supervision = s.supervision ∧
    (handValues s).travel = { s.travel with
      profileLimit := s.valuesInForce.limit, zonesEmpty := !PerZone.anySet s.valuesInForce.zones } ∧
    (handValues s).spray.zoneSet = s.valuesInForce.zones ∧ (handValues s).spray.points = s.valuesInForce.points ∧
    (handValues s).spray.dwellDelay = s.valuesInForce.dwell ∧ (handValues s).spray.reserve = s.valuesInForce.reserve ∧
    (∀ z, (handValues s).spray.duty.get z = if (handValues s).spray.zones.get z = .on then
      sprayAt s.valuesInForce.points s.spray.wheelSpeed else 0) ∧
    ∀ a, ArmUnit.HoldsValues s.valuesInForce a (s.arm a) ((handValues s).arm a) := by
  have h := armsTakeValues_arms s.valuesInForce (s.modTravel fun g =>
    { g with profileLimit := s.valuesInForce.limit, zonesEmpty := !PerZone.anySet s.valuesInForce.zones }).needCeiling
  dsimp only at h
  obtain ⟨h1, h2, h3, h4, h5⟩ := h
  have k := sprayTakesValues_hands s.valuesInForce (armTakesValues s.valuesInForce .c (armTakesValues s.valuesInForce .r
    (armTakesValues s.valuesInForce .l (s.modTravel fun g => { g with
      profileLimit := s.valuesInForce.limit
      zonesEmpty := !PerZone.anySet s.valuesInForce.zones }).needCeiling)))
  dsimp only at k
  rw [h2, h3, h4, h5] at k
  obtain ⟨k1, k2, k3, k4, k5, k6, k7, k8, k9⟩ := k
  refine ⟨k1, k2, k3, k5, k6, k7, k8, k9, fun a => ?_⟩
  have h := h1 a
  rw [State.arm, State.arm, ← k4] at h
  exact h

/-! ## The slots at the end of a changeover -/

/-- Moving slots from one use to another, slot by slot (R41). -/
theorem State.moveSlots_slot (s : State) (u v : SlotUse) (n : SlotNo) : (s.moveSlots u v).slot n = match s.slot n with
    | .held w r => .held (if w = u then v else w) r
    | .empty => .empty := by
  unfold State.slot State.moveSlots
  show (s.profile.slots.map _)[n] = _
  rw [Fin.getElem_fin, Vector.getElem_map]
  cases s.profile.slots[n.val] with
  | empty => simp [Slot.usedAs]
  | held w r => by_cases hw : w = u <;> simp [Slot.usedAs, Slot.become, hw]

/-- R60's table, slot by slot. -/
theorem endSlots_slot (k : ChangeKind) (s : State) (n : SlotNo) : (endSlots k s).slot n = match s.slot n with
    | .held u r => .held (ChangeEnding.arms.leaves k u) r
    | .empty => .empty := by
  cases k <;> simp only [endSlots, State.moveSlots_slot] <;> cases s.slot n <;> try rfl
  all_goals (rename_i u _; cases u <;> rfl)

/-- R64's table, slot by slot. -/
theorem cutSlots_slot (k : ChangeKind) (s : State) (n : SlotNo) :
    ((s.moveSlots .incoming .ready).moveSlots .outgoing .active).slot n = match s.slot n with
      | .held u r => .held (ChangeEnding.safeStop.leaves k u) r
      | .empty => .empty := by
  simp only [State.moveSlots_slot]
  cases s.slot n <;> try rfl
  rename_i u _; cases k <;> cases u <;> rfl

end Sys2Proof.Machine
end

