-- ==== Sys2Proof/Tests/Slice0.lean ====
section
/-! SUPPORT. The author's own tests: the command check, worked values of the spec, and for each statement for the
provers states and operands that meet its hypotheses. -/

namespace Sys2Proof.Machine.Tests

set_option Elab.async false

/-! ## States to test on -/

/-- A commissioning set that passes the five checks of R180. -/
def items : Vector (Option Nat) 35 :=
  #v[some 100, some 200, some 40, some 100, some 20, some 40, some 50, some 1000, some 1000, some 100, some 10, some 6,
    some 1000, some 5000, some 20, some 20, some 20, some 10, some 100, some 30, some 2000, some 1000, some 100, some 5,
    some 30, some 30, some 30, some 10, some 2000, some 100, some 100, some 100, some 100, some 100, some 100]

/-- A running, committed part, every station attending with a frame on its link, no group held. -/
def live : State := { State.reset with
  clock := { Clock.reset with phase := .running }
  links := .all { Link.reset with state := .receiving, chipSelectLow := true }
  attendance := .all ⟨.attending, some .ms500, .running 500, false⟩
  travel := { Travel.reset with committed := true, ceiling := 200 }
  supervision := { Supervision.reset with mode := .operational, committed := true, items := items } }

/-- The same with every group held by the CAB station. -/
def held : State := { live with claims := .all ⟨some .c, 0, []⟩ }

/-- The same in COMMISSIONING, nothing written. -/
def fresh : State := { held with
  supervision := { Supervision.reset with mode := .commissioning }
  travel := Travel.reset }

/-- The same with the TG in a state, at a setpoint. -/
def going (st : TravelState) (v : Int) : State := held.modTravel fun g => { g with state := st, setpoint := v }

/-- The same with arm l in a state. -/
def armIn (st : ArmState) : State := held.modArm .l fun u => { u with state := st }

/-- A profile record, and the same held in slot 0 in a use. -/
def record : Profile := ⟨7, 100, ⟨true, true, false⟩, ⟨8, 8, 0⟩, ⟨true, true, false, true⟩, 1000, 50,
  [⟨0, 40, 0⟩, ⟨30, 70, 60⟩, ⟨80, 100, 100⟩, ⟨120, 100, 80⟩]⟩
def stored (u : SlotUse) : State :=
  held.modProfile fun p => { p with slots := p.slots.set 0 (.held u record) }

/-- An open draft of slot 0 that passes validation. -/
def draft : Draft := ⟨.c, 0, some 7, some 100, some ⟨true, true, false⟩, ⟨⟨8, true⟩, ⟨8, true⟩, ⟨0, true⟩⟩,
  some ⟨true, true, false, true⟩, some 1000, some 50, some record.points, none⟩
def drafting : State := held.modProfile fun p => { p with draft := some draft }

/-- A SELECT from no slot to slot 0 in force. -/
def changing (k : ChangeKind) : State := (stored .incoming).modProfile fun p =>
  { p with changeover := some ⟨k, none, some 0, 0, .all none, false⟩ }

/-- Safe stop in force. -/
def stopped : State := { held with
  supervision := { held.supervision with safeStop := true, causes := ⟨true, false, false, false⟩ }
  travel := { held.travel with safeStop := true }
  spray := { held.spray with safeStop := true } }

/-- A settled reset pending. -/
def resetting : State := { held with supervision := { held.supervision with pendingReset := some .b } }

/-- One switch input with a raw level and a due counter. -/
def switched (i : Switch) (on : Bool) : State :=
  { held with switches := held.switches.setInput i ⟨on, !on, .running 0⟩ }

/-- An entry bound to STATION_JOINED. -/
def binding (a : Action) : Binding := ⟨0, .any, a, .b, true, none⟩
def bound (b : Binding) : State := { held with reactions := held.reactions.set 3 (some b) }

/-- STATION_JOINED for station a. -/
def joined : Raise := ⟨.station .a, .stationJoined .ms50 .absent, 5, .every none⟩

/-! ## Meeting hypotheses -/

def passes (f : Form) (l : Station) (ps : List Byte) (s : State) : Bool :=
  decide ((s.links.get l).state = .receiving) && decide (ps.length ≤ 40) && (f.exempt || s.attends l) &&
    f.formOk ps && f.roleOk l ps

theorem sent {f : Form} {l : Station} {ps : List Byte} {s : State} (h : passes f l ps s = true) : Sent f l ps s := by
  simp only [passes, Bool.and_eq_true, decide_eq_true_eq, Bool.or_eq_true] at h
  exact ⟨h.1.1.1.1, h.1.1.1.2, h.1.1.2, h.1.2, h.2⟩

theorem quiet {s : State} (h : s.work = Work.clear ∧ s.supervision.pendingReset = none) : Quiet s := ⟨h.1, h.2⟩

theorem noReactions {s : State} (h : s.reactions = Vector.replicate 8 none) : NoReactions s := by
  intro e
  simp [h]

/-- The next state of a command, for tests. -/
def after (c : Instr) (s : State) : State :=
  match exec c s with
  | .next t => t
  | _ => s

/-! ## The command check refuses each ill-formed command -/

theorem test_check_refuses_an_empty_bad_frame : Instr.wellFormed (.badFrame .a []) = false := by decide
theorem test_check_refuses_a_good_bad_frame :
    Instr.wellFormed (.badFrame .a (requestFrame 0x01 0 [])) = false := by decide +kernel
theorem test_check_refuses_a_known_unknown : Instr.wellFormed (.unknownRequest .a 0x01 0 []) = false := by decide
theorem test_check_refuses_41_parameters : Instr.wellFormed (.setPoints .c 0 (List.replicate 41 0)) = false := by decide
theorem test_check_refuses_another_arm_command :
    Instr.wellFormed (.armLower .c 0 [0, 1]) = false ∧ Instr.wellFormed (.armRaise .c 0 [0, 0]) = false ∧
    Instr.wellFormed (.armHalt .c 0 [0, 0]) = false ∧ Instr.wellFormed (.armClearFault .c 0 [0, 0]) = false := by decide
theorem test_check_refuses_another_reset :
    Instr.wellFormed (.resetPartImmediate .c 0 [1]) = false ∧
    Instr.wellFormed (.resetPartSettled .c 0 [0]) = false := by decide
theorem test_check_takes_the_rest :
    Instr.wellFormed (.badFrame .a [0, 0]) = true ∧ Instr.wellFormed (.unknownRequest .a 0xFF 0 []) = true ∧
    Instr.wellFormed (.setPoints .c 0 (List.replicate 40 0)) = true ∧ Instr.wellFormed (.armLower .c 0 [0, 0]) = true ∧
    Instr.wellFormed (.armLower .c 0 [0, 9]) = true ∧ Instr.wellFormed .timebaseTick = true := by decide

/-! ## Worked values of the spec -/

/-- R188: the NOP frame with tag 0, and the NONE response. -/
theorem test_check_bytes :
    requestFrame 0x01 0 [] = [0x01, 0x00, 0x00, 0x81] ∧ Response.none.wire = [0, 0, 0, 0, 0xA6] := by decide +kernel

/-- R43: the worked example. -/
theorem test_coupling :
    (coupling Point.rotation 0 record.points, coupling Point.spray 0 record.points) = (40, 0) ∧
    (coupling Point.rotation 20 record.points, coupling Point.spray 20 record.points) = (60, 40) ∧
    (coupling Point.rotation 40 record.points, coupling Point.spray 40 record.points) = (76, 68) ∧
    (coupling Point.rotation 50 record.points, coupling Point.spray 50 record.points) = (82, 76) ∧
    (coupling Point.rotation 101 record.points, coupling Point.spray 101 record.points) = (100, 89) ∧
    (coupling Point.rotation 150 record.points, coupling Point.spray 150 record.points) = (100, 80) := by decide

/-- R92: the worked example, with limits of 0.015 and 0.020 km/h. -/
theorem test_ramp :
    rampStep 3000 (-2000) 15 20 = 2980 ∧ rampStep 20 (-2000) 15 20 = 0 ∧ rampStep 0 (-2000) 15 20 = -15 ∧
    rampStep (-1995) (-2000) 15 20 = -2000 := by decide

/-- One command of several families, from start to end. -/
theorem test_claim : (after (.claimTry .a 9 [0]) live).claims.travel = ⟨some .a, 0, []⟩ ∧
    (after (.claimTry .a 9 [0]) live).links.a.slot = ⟨.ok, 9, 0x20, .previousHolder none⟩ := by decide +kernel
theorem test_bad_group : (after (.claimTry .a 9 [7]) live).links.a.slot = ⟨.badParam, 9, 0x20, .none⟩ := by
  decide +kernel
theorem test_tick : (after .timebaseTick live).time = 1 ∧
    (after .timebaseTick live).attendance.a.counter = .running 499 := by decide +kernel
theorem test_hold : (after (.setTravel .c 1 [0, 100]) (going .hold 0)).travel.state = .drive ∧
    (after (.setTravel .c 1 [0, 100]) (going .hold 0)).travel.demand = 100 := by decide +kernel
theorem test_commit : ((after (.commitDraft .c 1 []) drafting).slot 0).usedAs .ready = true := by decide +kernel
theorem test_starting : (after .pllLocked (after .crystalSettled State.reset)).supervision.mode = .commissioning ∧
    (after .pllLocked (after .crystalSettled State.reset)).links.a.state = .idle := by decide +kernel
theorem test_immediate_reset : (after (.resetPartImmediate .c 0 [0]) held).supervision.mode = .starting ∧
    (after (.resetPartImmediate .c 0 [0]) held).supervision.items = items := by decide +kernel

/-- The requests whose parameters select another row of the table have no effect on this one. -/
theorem test_other_row : after (.armLower .c 0 [0, 1]) held = held ∧ after (.resetPartImmediate .c 0 [1]) held = held := by
  decide

/-! ## The statements' hypotheses are met -/

theorem station_all {p : Station → Prop} (h : p .a ∧ p .b ∧ p .c) (x : Station) : p x := by
  cases x
  exacts [h.1, h.2.1, h.2.2]
theorem arm_all {p : Arm → Prop} (h : p .l ∧ p .r ∧ p .c) (x : Arm) : p x := by
  cases x
  exacts [h.1, h.2.1, h.2.2]
theorem zone_all {p : Zone → Prop} (h : p .l ∧ p .r ∧ p .c ∧ p .mouth) (x : Zone) : p x := by
  cases x
  exacts [h.1, h.2.1, h.2.2.1, h.2.2.2]
theorem group_all {p : Group → Prop} (h : ∀ g ∈ Group.list, p g) (x : Group) : p x := h x (by cases x <;> decide)
theorem use_all {p : SlotUse → Prop} (h : p .active ∧ p .incoming ∧ p .outgoing) (x : SlotUse) (hx : x ≠ .ready) :
    p x := by
  cases x
  exacts [absurd rfl hx, h.1, h.2.1, h.2.2]

/-- A Lawful state: not committed, in safe stop. -/
def waiting : State := { stopped with
  pending := [.timebaseTick]
  claims := .all Claim.free
  travel := { Travel.reset with safeStop := true }
  supervision := { Supervision.reset with mode := .commissioning, safeStop := true } }

theorem claims_waiting : claimLaw waiting := fun g => by
  cases g <;> exact ⟨by decide, by decide, nofun, fun _ => rfl, fun _ h => by rcases h with h | h <;> cases h⟩
theorem store_waiting : storeLaw waiting := ⟨use_all (p := fun u => ∀ m n : SlotNo, waiting.profile.slots[m].usedAs u = true →
    waiting.profile.slots[n].usedAs u = true → m = n) (by decide +kernel), by decide +kernel⟩
theorem outputs_waiting : outputLaw waiting := arm_all (by
  refine ⟨?_, ?_, ?_⟩ <;> exact ⟨by decide +kernel, by decide +kernel, by decide +kernel⟩)
theorem copies_waiting : copyLaw waiting := fun h => by cases h <;> exact arm_all (by simp only [copyOk]; decide +kernel)
theorem valves_waiting : valveLaw waiting := zone_all ⟨⟨nofun, nofun⟩, ⟨nofun, nofun⟩, ⟨nofun, nofun⟩, ⟨nofun, nofun⟩⟩
theorem grants_waiting : waiting.flow.grantsLawful :=
  ⟨by decide +kernel, arm_all (by decide +kernel), arm_all (by decide +kernel), by decide +kernel⟩
theorem lists_waiting : waiting.flow.listsLawful := ⟨by decide +kernel, by decide +kernel, arm_all (by decide +kernel),
  arm_all (by decide +kernel), arm_all (by decide +kernel)⟩
theorem safe_waiting : safeStopLaw waiting := ⟨fun _ => ⟨rfl, arm_all (by decide +kernel)⟩, rfl, rfl⟩
theorem idle_waiting : idleLaw waiting := fun _ =>
  ⟨rfl, rfl, fun n u hu => use_all (p := fun u => waiting.profile.slots[n].usedAs u = false) (by revert n; decide +kernel) u hu,
    arm_all (by decide +kernel)⟩
theorem commission_waiting : commissionLaw waiting := ⟨by decide +kernel, nofun⟩
theorem queues_waiting : queueLaw waiting := station_all (by decide +kernel)
theorem starting_waiting : startingLaw waiting := ⟨by decide +kernel, fun h => absurd h (by decide +kernel)⟩
theorem setpoint_waiting : setpointLaw waiting := ⟨by decide +kernel, by decide +kernel⟩
theorem lawful_waiting : Lawful waiting where
  claims := claims_waiting
  draft := fun d h => absurd (show (none : Option Draft) = some d from h) (by simp)
  store := store_waiting
  setpoint := setpoint_waiting
  outputs := outputs_waiting
  copies := copies_waiting
  waterCopy := by unfold waterCopyLaw; decide +kernel
  frostCopy := by unfold frostCopyLaw; decide +kernel
  valves := valves_waiting
  estimate := by unfold estimateLaw; decide +kernel
  grants := grants_waiting
  lists := lists_waiting
  queues := queues_waiting
  safeStop := safe_waiting
  idle := idle_waiting
  commission := commission_waiting
  starting := starting_waiting
  work := by unfold workClear; decide +kernel

/-- A Lawful state: arms stowed, reversing, the MOUTH valve open. -/
def reversing : State := { live with
  arms := .all { ArmUnit.reset with state := .stowed }
  travel := { live.travel with
    state := .drive, demand := -10, setpoint := -1000, reverseOpen := true, armStowed := .all true, waterEmpty := false }
  water := { Water.reset with estimate := 500, state := .ample }
  spray := { Spray.reset with
    armState := .all .stowed, waterState := .ample, zones := ⟨.off, .off, .off, .on⟩, valves := ⟨false, false, false, true⟩ }
  supervision := { live.supervision with armDone := .all true } }

theorem claims_reversing : claimLaw reversing := fun g => by
  cases g <;> exact ⟨by decide, by decide, nofun, fun _ => rfl, fun _ h => by rcases h with h | h <;> cases h⟩
theorem store_reversing : storeLaw reversing := ⟨use_all (p := fun u => ∀ m n : SlotNo, reversing.profile.slots[m].usedAs u = true →
    reversing.profile.slots[n].usedAs u = true → m = n) (by decide +kernel), by decide +kernel⟩
theorem outputs_reversing : outputLaw reversing := arm_all (by
  refine ⟨?_, ?_, ?_⟩ <;> exact ⟨by decide +kernel, by decide +kernel, by decide +kernel⟩)
theorem copies_reversing : copyLaw reversing := fun h => by cases h <;> exact arm_all (by simp only [copyOk]; decide +kernel)
theorem valves_reversing : valveLaw reversing := zone_all ⟨⟨nofun, nofun⟩, ⟨nofun, nofun⟩, ⟨nofun, nofun⟩, fun _ => rfl, fun _ => ⟨nofun, rfl, rfl, nofun⟩⟩
theorem grants_reversing : reversing.flow.grantsLawful :=
  ⟨by decide +kernel, arm_all (by decide +kernel), arm_all (by decide +kernel), by decide +kernel⟩
theorem lists_reversing : reversing.flow.listsLawful := ⟨by decide +kernel, by decide +kernel, arm_all (by decide +kernel),
  arm_all (by decide +kernel), arm_all (by decide +kernel)⟩
theorem safe_reversing : safeStopLaw reversing := ⟨nofun, rfl, rfl⟩
theorem idle_reversing : idleLaw reversing := fun h => absurd rfl h
theorem commission_reversing : commissionLaw reversing := ⟨by decide +kernel, fun _ k h1 h2 => by interval_cases k <;> decide +kernel⟩
theorem queues_reversing : queueLaw reversing := station_all (by decide +kernel)
theorem starting_reversing : startingLaw reversing := ⟨by decide +kernel, fun h => absurd h (by decide +kernel)⟩
theorem setpoint_reversing : setpointLaw reversing := ⟨by decide +kernel, by decide +kernel⟩
theorem lawful_reversing : Lawful reversing where
  claims := claims_reversing
  draft := fun d h => absurd (show (none : Option Draft) = some d from h) (by simp)
  store := store_reversing
  setpoint := setpoint_reversing
  outputs := outputs_reversing
  copies := copies_reversing
  waterCopy := by unfold waterCopyLaw; decide +kernel
  frostCopy := by unfold frostCopyLaw; decide +kernel
  valves := valves_reversing
  estimate := by unfold estimateLaw; decide +kernel
  grants := grants_reversing
  lists := lists_reversing
  queues := queues_reversing
  safeStop := safe_reversing
  idle := idle_reversing
  commission := commission_reversing
  starting := starting_reversing
  work := by unfold workClear; decide +kernel

theorem test_witness_step : live.pending = [] ∧ (live.withCommand .timebaseTick).pending = [.timebaseTick] := by decide

/-- EveryStepKeepsTheLaws, EveryStepKeepsTheClaimLaw, LawsGiveTheSpecsSentences. -/
theorem test_witness_laws :
    Lawful waiting ∧ claimLaw waiting ∧ step waiting = .next (after .timebaseTick { waiting with pending := [] }) ∧
    Lawful reversing ∧ reversing.travel.setpoint < 0 ∧ reversing.spray.valves.get .mouth = true ∧
    waiting.supervision.safeStop = true ∧ waiting.supervision.committed = false :=
  ⟨lawful_waiting, lawful_waiting.claims, rfl, lawful_reversing, by decide, rfl, rfl, rfl⟩

/-- FramesAreWholeAndGood, RequestsPassTheStagesInOrder, OwnersTestTheClaimFirst: at the 40th parameter, and at each
    stage. -/
theorem test_witness_frames :
    ((List.replicate 40 (0 : Byte)).length ≤ 40) ∧
    (live.links.a.state = .receiving) ∧
    ({ live.links.a with outgoing := some Response.none } : Link).outgoing = some Response.none ∧
    requestOf (.release .a 0 [0]) = some (Form.release, .a, 0, [0]) ∧
    requestOf (.release .a 0 [7]) = some (Form.release, .a, 0, [7]) ∧
    requestOf (.release .b 0 [0]) = some (Form.release, .b, 0, [0]) ∧
    (Instr.wellFormed (.release .a 0 [7]) = true) ∧
    workClear live ∧
    (Form.release.exempt = false ∧ (live.modAttend .a fun _ => Attendance.reset).attends .a = false) ∧
    (live.attends .a = true ∧ Form.release.formOk [7] = false) ∧
    (Form.release.formOk [0] = true ∧ Form.release.roleOk .b [0] = false) ∧
    Sent Form.releasePark .c [] live ∧
    groupHeldFor (.releasePark .c 0 []) = some .travel ∧
    (live.claims.travel.holder ≠ some .c) ∧
    Sent Form.releasePark .c [] fresh ∧
    (fresh.claims.travel.holder = some .c ∧ fresh.supervision.mode = .commissioning) ∧
    Sent Form.armCommand .c [0, 0] fresh ∧
    (byteAt [0, 0] 1 = 0) :=
  ⟨by decide +kernel, by decide +kernel, rfl, rfl, rfl, rfl, by decide +kernel, rfl, by decide +kernel, by
    decide +kernel, by decide +kernel, sent (by decide +kernel), rfl, by decide +kernel, sent (by decide +kernel), by
    decide +kernel, sent (by decide +kernel), by decide +kernel⟩

/-- TransactionsBeginAndEnd. -/
theorem test_witness_transactions :
    (State.reset.links.a.state = .offline) ∧
    ((live.modLink .a fun k => { k with state := .idle }).links.a.state = .idle) ∧
    ((live.modLink .a fun k => { k with state := .disregard }).links.a.state = .disregard) ∧
    (live.links.a.state = .receiving ∧ ([0, 0] : List Byte) ≠ [] ∧ goodFrame [0, 0] = false) ∧
    (knownCode 0xFF = false) :=
  ⟨by decide +kernel, by decide +kernel, by decide +kernel, by decide +kernel, by decide +kernel⟩

/-- StartingFollowsTheClockTree, ClockMonitorInterval at the ends of its range, TickAdvancesTheTimebase,
    PowerAndLineResets. -/
theorem test_witness_clock :
    ((after .lineReset live).clock.resetLineAsserted = true ∧ (after .lineReset live).clock.phase = .held) ∧
    (State.reset.clock.phase = .settling ∧ State.reset.clock.phase ≠ .running) ∧
    Quiet (after .crystalSettled State.reset) ∧
    ((after .crystalSettled State.reset).clock.phase = .locking) ∧
    NoReactions (after .crystalSettled State.reset) ∧
    (live.clock.phase = .running ∧ live.clock.verdict = .sound ∧ live.clock.resetLineAsserted = false) ∧
    (12000 ≤ 12000 ∧ 20000 ≤ 20000 ∧ ¬(12000 ≤ 11999 ∧ 11999 ≤ 20000) ∧ ¬(12000 ≤ 20001 ∧ 20001 ≤ 20000)) ∧
    Quiet live ∧
    (live.supervision.safeStop = false) :=
  ⟨by decide +kernel, by decide +kernel, quiet (by decide +kernel), by decide +kernel, noReactions rfl, by
    decide +kernel, by decide +kernel, quiet (by decide +kernel), by decide +kernel⟩

/-- Station a gone; its renewal prepared; a waiting for TRAVEL; the last station at the end of its window. -/
def gone : State := live.modAttend .a fun _ => Attendance.reset
def ready : State := live.modAttend .a fun v => { v with prepared := true }
def waited : State := held.modClaim .travel fun c => { c with waiting := [.a] }
def lapsing : State := (going .drive 1000).modAttendance fun _ =>
  ⟨Attendance.reset, Attendance.reset, ⟨.attending, some .ms500, .running 0, false⟩⟩

/-- ReportInMakesAttending, RenewalPair, TeardownClearsTheStation. -/
theorem test_witness_attendance :
    Sent Form.reportIn .a [0, 51] live ∧
    (windowMs .ms50 ≠ wordAt [0, 51] 0 ∧ windowMs .ms100 ≠ wordAt [0, 51] 0 ∧ windowMs .ms200 ≠ wordAt [0, 51] 0 ∧
      windowMs .ms500 ≠ wordAt [0, 51] 0) ∧
    Sent Form.reportIn .a [0, 50] live ∧
    (windowMs .ms50 = wordAt [0, 50] 0 ∧ live.attends .a = true) ∧
    Sent Form.reportIn .a [1, 244] gone ∧
    (windowMs .ms500 = wordAt [1, 244] 0 ∧ gone.attends .a = false) ∧
    Quiet gone ∧
    NoReactions gone ∧
    Sent Form.keepPrepare .a [] live ∧
    Sent Form.keepCommit .a [] live ∧
    (live.attendance.a.prepared = false) ∧
    Sent Form.keepCommit .a [] ready ∧
    (ready.attendance.a.prepared = true ∧ ready.attendance.a.window = some .ms500) ∧
    Sent Form.reportOut .c [] drafting ∧
    Quiet drafting ∧
    drafting.profile.draft = some draft ∧
    (draft.owner = .c) ∧
    (drafting.claims.travel.holder = some .c ∧ drafting.claims.travel.waiting = []) ∧
    (waited.claims.travel.holder = some .c ∧ waited.claims.travel.waiting = [.a] ∧ Station.a ∉ ([] : List Station)) ∧
    Sent Form.reportOut .a [] waited ∧
    (waited.claims.travel.holder ≠ some .a) ∧
    Sent Form.reportOut .a [] drafting ∧
    (draft.owner ≠ .a) ∧
    (lapsing.attendance.c.counter = .running 0) ∧
    Quiet lapsing ∧
    NoReactions lapsing ∧
    (lapsing.supervision.mode = .operational ∧ lapsing.travel.state ≠ .parked ∧ lapsing.travel.safeStop = false ∧
      lapsing.travel.resetPending = false ∧ lapsing.attends .a = false ∧ lapsing.attends .b = false) ∧
    (drafting.attends .a = true) :=
  ⟨sent (by decide +kernel), by decide +kernel, sent (by decide +kernel), by decide +kernel, sent (by
    decide +kernel), by decide +kernel, quiet (by decide +kernel), noReactions rfl, sent (by decide +kernel), sent
    (by decide +kernel), by decide +kernel, sent (by decide +kernel), by decide +kernel, sent (by decide +kernel),
    quiet (by decide +kernel), rfl, by decide +kernel, by decide +kernel, by decide +kernel, sent (by
    decide +kernel), by decide +kernel, sent (by decide +kernel), by decide +kernel, by decide +kernel, quiet (by
    decide +kernel), noReactions rfl, by decide +kernel, by decide +kernel⟩

def theirs : State := live.modClaim .armL fun _ => ⟨some .b, 0, []⟩

/-- ClaimTryTakesAFreeGroup, ClaimWaitQueuesTheSender, ReleaseAndYieldHandOn, OverrideTakesTheGroup,
    WithdrawWaitLeavesTheList. -/
theorem test_witness_claims :
    Sent Form.claimTry .a [0] live ∧
    groupOf (byteAt [0] 0) = some .travel ∧
    groupOf (byteAt [6] 0) = some .account ∧
    (live.claims.travel.holder = none) ∧
    Sent Form.claimTry .c [6] held ∧
    (held.claims.account.holder = some .c) ∧
    Sent Form.claimTry .a [0] held ∧
    (held.claims.travel.holder = some .c ∧ Station.c ≠ .a) ∧
    Sent Form.claimWait .a [0] live ∧
    Sent Form.claimWait .c [0] held ∧
    Sent Form.claimWait .a [0] held ∧
    (Station.a ∉ held.claims.travel.waiting) ∧
    Sent Form.claimWait .a [0] waited ∧
    (waited.claims.travel.holder ≠ none ∧ Station.a ∈ waited.claims.travel.waiting) ∧
    Sent Form.release .a [0] held ∧
    Quiet held ∧
    (held.claims.travel.holder ≠ some .a) ∧
    Sent Form.release .c [0] held ∧
    (held.claims.travel.waiting = []) ∧
    Sent Form.yieldGroup .c [0] held ∧
    Sent Form.yieldGroup .c [0] waited ∧
    Quiet waited ∧
    (waited.claims.travel.waiting = .a :: []) ∧
    NoReactions waited ∧
    (waited.attends .a = true) ∧
    Sent Form.release .c [5] drafting ∧
    Sent Form.override .c [1] live ∧
    (live.claims.armL.holder = none) ∧
    Sent Form.override .c [4] held ∧
    (held.claims.spray.holder = some .c) ∧
    Sent Form.override .c [1] theirs ∧
    Quiet theirs ∧
    NoReactions theirs ∧
    (theirs.claims.armL.holder = some .b ∧ Station.b ≠ .c) ∧
    Sent Form.withdrawWait .a [0] waited ∧
    Sent Form.withdrawWait .a [0] held :=
  ⟨sent (by decide +kernel), rfl, rfl, by decide +kernel, sent (by decide +kernel), by decide +kernel, sent (by
    decide +kernel), by decide +kernel, sent (by decide +kernel), sent (by decide +kernel), sent (by decide +kernel),
    by decide +kernel, sent (by decide +kernel), by decide +kernel, sent (by decide +kernel), quiet (by
    decide +kernel), by decide +kernel, sent (by decide +kernel), by decide +kernel, sent (by decide +kernel), sent
    (by decide +kernel), quiet (by decide +kernel), by decide +kernel, noReactions rfl, by decide +kernel, sent (by
    decide +kernel), sent (by decide +kernel), by decide +kernel, sent (by decide +kernel), by decide +kernel, sent
    (by decide +kernel), quiet (by decide +kernel), noReactions rfl, by decide +kernel, sent (by decide +kernel),
    sent (by decide +kernel)⟩

def editing : State := (stored .ready).modProfile fun p => { p with draft := some draft }

/-- OpenDraftCopiesTheSlot, DraftFieldsAreWritten, ValidationPassesValidDrafts, CommitDraftFillsTheSlot,
    EraseProfileEmptiesAReadySlot. -/
theorem test_witness_drafts :
    Sent Form.openDraft .c [8] held ∧
    (held.claims.profile.holder = some .c ∧ 8 ≤ byteAt [8] 0) ∧
    Sent Form.openDraft .c [7] held ∧
    ((7 : SlotNo).val = byteAt [7] 0 ∧ held.slot 7 = .empty) ∧
    Sent Form.openDraft .c [0] (stored .ready) ∧
    ((0 : SlotNo).val = byteAt [0] 0 ∧ (stored .ready).slot 0 = .held .ready record) ∧
    Sent Form.openDraft .c [0] (stored .active) ∧
    ((stored .active).slot 0 = .held .active record ∧ SlotUse.active ≠ .ready) ∧
    Sent Form.writeDraft .c [0, 0, 0] drafting ∧
    Sent Form.writeDraft .c [10, 0, 0] drafting ∧
    Sent Form.writeDraft .c [3, 0, 8] drafting ∧
    Sent Form.writeDraft .c [7, 0, 16] drafting ∧
    (9 < byteAt [10, 0, 0] 0 ∧ 8 ≤ wordAt [3, 0, 8] 1 ∧ 16 ≤ wordAt [7, 0, 16] 1) ∧
    Sent Form.writeDraft .c [1, 0, 8] held ∧
    (held.profile.draft = none) ∧
    Sent Form.writeDraft .c [3, 0, 7] drafting ∧
    (wordAt [3, 0, 7] 1 < 8 ∧ wordAt [7, 0, 15] 1 < 16) ∧
    Sent Form.writeDraft .c [7, 0, 15] drafting ∧
    Sent Form.writeDraft .c [9, 255, 255] drafting ∧
    Sent Form.setPoints .c [0, 0, 1, 2, 0, 9, 3, 4] held ∧
    Sent Form.setPoints .c (List.replicate 32 0) drafting ∧
    draft.validate = none ∧
    Sent Form.commitDraft .c [] held ∧
    Sent Form.commitDraft .c [] drafting ∧
    (drafting.slot 0 = .empty) ∧
    (({ draft with name := none } : Draft).validate = some ⟨.name, 0⟩) ∧
    Sent Form.discardDraft .c [] held ∧
    Sent Form.discardDraft .c [] drafting ∧
    (drafting.profile.draft ≠ none) ∧
    Sent Form.eraseProfile .c [8] held ∧
    Sent Form.eraseProfile .c [7] held ∧
    Sent Form.eraseProfile .c [0] (stored .ready) ∧
    Sent Form.eraseProfile .c [0] editing ∧
    (editing.profile.draft = some draft ∧ draft.origin = 0 ∧ editing.slot 0 = .held .ready record) ∧
    Sent Form.commitDraft .c [] ({ held with profile := (after (.eraseProfile .c 0 [0]) editing).profile } : State) :=
  ⟨sent (by decide +kernel), by decide +kernel, sent (by decide +kernel), by decide +kernel, sent (by
    decide +kernel), by decide +kernel, sent (by decide +kernel), by decide +kernel, sent (by decide +kernel), sent
    (by decide +kernel), sent (by decide +kernel), sent (by decide +kernel), by decide +kernel, sent (by
    decide +kernel), by decide +kernel, sent (by decide +kernel), by decide +kernel, sent (by decide +kernel), sent
    (by decide +kernel), sent (by decide +kernel), sent (by decide +kernel), rfl, sent (by decide +kernel), sent (by
    decide +kernel), by decide +kernel, by decide +kernel, sent (by decide +kernel), sent (by decide +kernel), by
    decide +kernel, sent (by decide +kernel), sent (by decide +kernel), sent (by decide +kernel), sent (by
    decide +kernel), by decide +kernel, sent (by decide +kernel)⟩

def home : State := held.modArms fun p => p.map fun u => { u with state := .stowed }

/-- SelectProfileStartsAChangeover, AbortChangeoverTurnsBack. -/
theorem test_witness_changeover :
    Sent Form.selectProfile .c [8] held ∧
    (held.claims.profile.holder = some .c ∧ held.supervision.mode ≠ .commissioning) ∧
    workClear held ∧
    (8 ≤ byteAt [8] 0 ∧ byteAt [8] 0 ≠ 0xFF) ∧
    Sent Form.selectProfile .c [0] stopped ∧
    (stopped.supervision.safeStop = true) ∧
    Sent Form.selectProfile .c [0] resetting ∧
    (resetting.supervision.pendingReset ≠ none) ∧
    Sent Form.selectProfile .c [0] (changing .select) ∧
    ((changing .select).profile.changeover ≠ none) ∧
    Sent Form.selectProfile .c [7] held ∧
    ((held.slot 7).usedAs .ready = false) ∧
    Sent Form.selectProfile .c [0] (stored .ready) ∧
    (((stored .ready).slot 0).usedAs .ready = true ∧ 0 ≤ (stored .ready).travel.setpoint) ∧
    Sent Form.selectProfile .c [255] (going .drive (-1000)) ∧
    ((going .drive (-1000)).travel.setpoint < 0) ∧
    Sent Form.selectProfile .c [255] home ∧
    (∀ a ∈ Arm.list, (home.arm a).state = .stowed) ∧
    (none : Option SlotNo).map (fun n => n.val) = none ∧
    Sent Form.abortChangeover .c [] held ∧
    (held.profile.changeover = none) ∧
    Sent Form.abortChangeover .c [] (changing .abortReturn) ∧
    workClear (changing .select) ∧
    Sent Form.abortChangeover .c [] (changing .select) ∧
    (((changing .select).profile.changeover.map Changeover.kind) = some .select ∧ (changing
    .select).supervision.pendingReset = none) :=
  ⟨sent (by decide +kernel), by decide +kernel, rfl, by decide +kernel, sent (by decide +kernel), by decide +kernel,
    sent (by decide +kernel), by decide +kernel, sent (by decide +kernel), by decide +kernel, sent (by
    decide +kernel), by decide +kernel, sent (by decide +kernel), by decide +kernel, sent (by decide +kernel), by
    decide +kernel, sent (by decide +kernel), by decide +kernel, rfl, sent (by decide +kernel), by decide +kernel,
    sent (by decide +kernel), rfl, sent (by decide +kernel), by decide +kernel⟩

/-- A part whose gates are due, with n counts. -/
def gate (n : Nat) : State := live.modCapture fun c => { c with
  wheel := { c.wheel with counter := n, timer := .running 0 }
  brush := c.brush.map fun k => { k with counter := n, timer := .running 0 }
  flow := { c.flow with counter := n, timer := .running 0 } }

/-- CapturePulsesAreCounted, GateExpiryPublishesTheMeasure, RawLevelsLoadTheDebounceCounter,
    DebouncedLevelsReachTheirOwners. -/
theorem test_witness_field :
    (State.reset.clock.phase ≠ .running) ∧
    (live.clock.phase = .running ∧ Channel.wheel ≠ .flow) ∧
    Quiet live ∧
    (fresh.item? 24 = none ∧ live.item? 24 = some 5) ∧
    NoReactions live ∧
    Quiet fresh ∧
    (fresh.clock.phase = .running) ∧
    (live.water.pulses + 1 < 5) ∧
    (5 ≤ (live.modWater fun v => { v with pulses := 4 }).water.pulses + 1) ∧
    ((gate 3).capture.wheel.timer = .running 0 ∧ (gate 3).item? 31 = some 100 ∧ (gate 3).item? 1 = some 100) ∧
    Quiet (gate 3) ∧
    NoReactions (gate 3) ∧
    ((gate 3).capture.brush.l.timer = .running 0 ∧ (gate 3).capture.flow.timer = .running 0 ∧ (gate
    0).capture.wheel.counter = 0) ∧
    ((switched .seat true).switches.seat.raw = true ∧ (switched .seat true).switches.seat.level = false) ∧
    ((switched .seat false).switches.seat.counter = .running 0) ∧
    Quiet (switched .seat false) ∧
    (((switched .seat false).modTravel fun g => { g with wheelSpeed := 1 }).travel.wheelSpeed ≠ 0) ∧
    (held.supervision.mode = .operational) ∧
    NoReactions (switched (.up .l) true) ∧
    ((switched (.up .l) true).arms.l.down = false ∧ ((switched (.up .l) true).modArm .l fun u => { u with state :=
    .raising }).arms.l.state = .raising) ∧
    (((switched (.up .l) true).modArm .l fun u => { u with down := true }).arms.l.down = true ∧ (switched (.up .l)
    true).arms.l.state ≠ .fault) ∧
    (((switched (.down .l) true).modArm .l fun u => { u with state := .lowering }).arms.l.state = .lowering) ∧
    (((switched (.contact .l) true).modArm .l fun u => { u with state := .working }).arms.l.state = .working) ∧
    (((switched (.contact .l) false).modArm .l fun u => { u with state := .deflected }).arms.l.state = .deflected) ∧
    ((switched .full true).item? 22 = some 1000 ∧ (switched .frost true).switches.frost.raw = true ∧ (switched .low
    true).switches.low.raw = true) :=
  ⟨by decide +kernel, by decide +kernel, quiet (by decide +kernel), by decide +kernel, noReactions rfl, quiet (by
    decide +kernel), by decide +kernel, by decide +kernel, by decide +kernel, by decide +kernel, quiet (by
    decide +kernel), noReactions rfl, by decide +kernel, by decide +kernel, by decide +kernel, quiet (by
    decide +kernel), by decide +kernel, by decide +kernel, noReactions rfl, by decide +kernel, by decide +kernel, by
    decide +kernel, by decide +kernel, by decide +kernel, by decide +kernel⟩

def seated (v : Int) : State := held.modTravel fun g => { g with seat := true, wheelSpeed := v }
def ramping (st : TravelState) (v : Int) : State := (going st v).modTravel fun g => { g with rampTimer := .running 0 }

/-- ParkingRequests, SetTravelSetsTheDemand, RampStepMovesTowardTheTarget, RampExpiryMovesTheSetpoint. -/
theorem test_witness_travel :
    Sent Form.releasePark .c [] held ∧
    (held.claims.travel.holder = some .c ∧ held.travel.state = .parked ∧ held.travel.seat = false ∧
    held.travel.safeStop = false ∧
      held.travel.resetPending = false) ∧
    Sent Form.releasePark .c [] (going .hold 0) ∧
    ((going .hold 0).travel.state ≠ .parked) ∧
    Sent Form.releasePark .c [] stopped ∧
    (stopped.travel.safeStop = true) ∧
    Sent Form.releasePark .c [] (seated 0) ∧
    ((seated 0).travel.seat = true ∧ (seated 0).travel.wheelSpeed = 0 ∧ (seated 1).travel.wheelSpeed ≠ 0) ∧
    Sent Form.releasePark .c [] (seated 1) ∧
    ((seated 0 |>.modTravel fun g => { g with resetPending := true }).travel.resetPending = true) ∧
    Sent Form.applyPark .c [] (going .hold 0) ∧
    Sent Form.applyPark .c [] (going .drive 100) ∧
    Sent Form.applyPark .c [] held ∧
    Sent Form.setTravel .c [0, 251] held ∧
    Quiet held ∧
    (250 < signedAt [0, 251] 0 ∧ signedAt [255, 5] 0 < -250 ∧ signedAt [0, 250] 0 = 250 ∧ signedAt [255, 6] 0 = -250)
    ∧
    Sent Form.setTravel .c [255, 5] held ∧
    Sent Form.setTravel .c [0, 250] (going .hold 0) ∧
    Sent Form.setTravel .c [255, 6] (going .drive 100) ∧
    Quiet (going .drive 100) ∧
    NoReactions (going .drive 100) ∧
    ((going .drive 100).travel.reverseOpen = false) ∧
    Sent Form.setTravel .c [0, 0] (going .drive 0) ∧
    Sent Form.setTravel .c [0, 0] (going .stopping 0) ∧
    Sent Form.setTravel .c [0, 0] held ∧
    ((0 : Int) < 15 ∧ (0 : Int) < 20) ∧
    Quiet (ramping .drive 1000) ∧
    ((ramping .drive 1000).travel.rampTimer = .running 0 ∧ (ramping .drive 1000).travel.state = .drive) ∧
    ((ramping .drive 1000).item? 4 = some 100) ∧
    Quiet (ramping .stopping 0) ∧
    ((ramping .stopping 0).travel.state = .stopping ∧ (ramping .stopping 0).travel.wheelSpeed = 0 ∧ (ramping .hold
    0).travel.state = .hold) :=
  ⟨sent (by decide +kernel), by decide +kernel, sent (by decide +kernel), by decide +kernel, sent (by
    decide +kernel), by decide +kernel, sent (by decide +kernel), by decide +kernel, sent (by decide +kernel), by
    decide +kernel, sent (by decide +kernel), sent (by decide +kernel), sent (by decide +kernel), sent (by
    decide +kernel), quiet (by decide +kernel), by decide +kernel, sent (by decide +kernel), sent (by
    decide +kernel), sent (by decide +kernel), quiet (by decide +kernel), noReactions rfl, by decide +kernel, sent
    (by decide +kernel), sent (by decide +kernel), sent (by decide +kernel), by decide +kernel, quiet (by
    decide +kernel), by decide +kernel, by decide +kernel, quiet (by decide +kernel), by decide +kernel⟩

def offered : State := { live with
  travel := { live.travel with
    flowCeiling := some 10, limiting := .flow, releaseTimer := .running 0, overspeedTimer := .running 0 }
  flow := { live.flow with timer := .running 0 } }
def capped : State := bound { binding (.capSpeed 5) with held := some joined }

/-- CeilingAndOverspeedTimers, EngineReportsSetTheCapacity, ClearCapRemovesTheCaps. -/
theorem test_witness_ceilings :
    Quiet offered ∧
    NoReactions offered ∧
    (offered.travel.releaseTimer = .running 0 ∧ offered.travel.overspeedTimer = .running 0 ∧ offered.flow.timer =
    .running 0) ∧
    (({ offered with travel := { offered.travel with flowCeiling := none, releaseTimer := .stopped } } :
    State).lowestSource.2 = .maximum ∧ offered.travel.limiting = .flow) ∧
    (offered.travel.flowCeiling = some 10) ∧
    Sent Form.engineReport .a [0x17, 0x71] live ∧
    (6000 < wordAt [0x17, 0x71] 0 ∧ wordAt [0x17, 0x70] 0 ≤ 6000) ∧
    Sent Form.engineReport .a [0x17, 0x70] live ∧
    NoReactions live ∧
    Quiet live ∧
    Sent Form.clearCap .c [] held ∧
    (held.claims.travel.holder = some .c) ∧
    Quiet held ∧
    NoReactions held ∧
    Sent Form.clearCap .c [] capped ∧
    Quiet capped ∧
    (capped.reactions[3] = some { binding (.capSpeed 5) with held := some joined } ∧ ∀ k : EntryNo, k ≠ 3 →
    capped.reactions[k] = none) :=
  ⟨quiet (by decide +kernel), noReactions rfl, by decide +kernel, by decide +kernel, by decide +kernel, sent (by
    decide +kernel), by decide +kernel, sent (by decide +kernel), noReactions rfl, quiet (by decide +kernel), sent
    (by decide +kernel), by decide +kernel, quiet (by decide +kernel), noReactions rfl, sent (by decide +kernel),
    quiet (by decide +kernel), by decide +kernel⟩

/-- Arm l pending in a changeover; arm l in a state above the lowering speed. -/
def moved : State := (changing .select).modProfile fun p =>
  { p with changeover := p.changeover.map fun c => { c with pending := c.pending.set .l (some ⟨.down, false⟩) } }
def fast (st : ArmState) : State := (armIn st).modArm .l fun u => { u with wheelSpeed := 51 }

/-- ArmCommandRefusals, ArmLowerLowersTheArm, ArmRaiseRaisesTheArm, ArmHaltAndClearFault. -/
theorem test_witness_arms :
    Sent Form.armCommand .c [0, 4] held ∧
    workClear held ∧
    armOf (byteAt [0, 4] 0) = some .l ∧
    (held.claims.armL.holder = some .c ∧ 3 < byteAt [0, 4] 1 ∧ byteAt [0, 3] 1 ≤ 3) ∧
    (Instr.wellFormed (.armLower .c 0 [0, 4]) = true) ∧
    Sent Form.armCommand .c [0, 1] (held.modArm .l fun u => { u with reaction := some 3 }) ∧
    Sent Form.armCommand .c [0, 0] moved ∧
    (moved.involved .l = true ∧ (moved.arm .l).reaction = none) ∧
    Sent Form.armCommand .c [0, 0] (armIn .fault) ∧
    Sent Form.armCommand .c [0, 0] stopped ∧
    Sent Form.armCommand .c [0, 0] resetting ∧
    Sent Form.armCommand .c [0, 0] (going .drive (-1000)) ∧
    Sent Form.armCommand .c [0, 0] (armIn .stowed) ∧
    (((armIn .stowed).arm .l).down = false ∧ (armIn .stowed).involved .l = false ∧ ((armIn .stowed).arm
    .l).wheelSpeed.natAbs ≤ (armIn .stowed).item 7) ∧
    NoReactions (armIn .stowed) ∧
    ((fast .raising).item 7 < ((fast .raising).arm .l).wheelSpeed.natAbs) ∧
    Sent Form.armCommand .c [0, 0] (fast .raising) ∧
    NoReactions (fast .raising) ∧
    Sent Form.armCommand .c [0, 0] (armIn .working) ∧
    (((armIn .stowed).modArm .l fun u => { u with down := true }).arms.l.down = true) ∧
    Sent Form.armCommand .c [0, 1] (armIn .working) ∧
    Quiet (armIn .working) ∧
    NoReactions (armIn .working) ∧
    (byteAt [0, 1] 1 = 1 ∧ (armIn .working).liftItem? .l ≠ none ∧ (armIn .working).item? 9 ≠ none) ∧
    (((armIn .working).arm .l).up = false) ∧
    Sent Form.armCommand .c [0, 1] fresh ∧
    ((fresh.arm .l).state ≠ .fault ∧ fresh.liftItem? .l = none) ∧
    Sent Form.armCommand .c [0, 1] (armIn .stowed) ∧
    Sent Form.armCommand .c [0, 1] (armIn .fault) ∧
    Quiet (armIn .fault) ∧
    NoReactions (armIn .fault) ∧
    (((armIn .halted).modArm .l fun u => { u with up := true }).arms.l.up = true) ∧
    Sent Form.armCommand .c [0, 2] (armIn .working) ∧
    (byteAt [0, 2] 1 = 2 ∧ byteAt [0, 3] 1 = 3) ∧
    Sent Form.armCommand .c [0, 2] (armIn .stowed) ∧
    Sent Form.armCommand .c [0, 2] (armIn .fault) ∧
    Sent Form.armCommand .c [0, 3] (armIn .stowed) ∧
    Sent Form.armCommand .c [0, 3] (armIn .fault) ∧
    ((armIn .fault).travel.setpoint = 0 ∧ ((armIn .fault).arm .l).up = false) ∧
    Sent Form.armCommand .c [0, 3] ((armIn .fault).modTravel fun g => { g with state := .drive, setpoint := 1 }) ∧
    Sent Form.armCommand .c [0, 3] ((armIn .fault).modArm .l fun u => { u with up := true, down := true }) :=
  ⟨sent (by decide +kernel), rfl, rfl, by decide +kernel, by decide +kernel, sent (by decide +kernel), sent (by
    decide +kernel), by decide +kernel, sent (by decide +kernel), sent (by decide +kernel), sent (by decide +kernel),
    sent (by decide +kernel), sent (by decide +kernel), by decide +kernel, noReactions rfl, by decide +kernel, sent
    (by decide +kernel), noReactions rfl, sent (by decide +kernel), by decide +kernel, sent (by decide +kernel),
    quiet (by decide +kernel), noReactions rfl, by decide +kernel, by decide +kernel, sent (by decide +kernel), by
    decide +kernel, sent (by decide +kernel), sent (by decide +kernel), quiet (by decide +kernel), noReactions rfl,
    by decide +kernel, sent (by decide +kernel), by decide +kernel, sent (by decide +kernel), sent (by
    decide +kernel), sent (by decide +kernel), sent (by decide +kernel), by decide +kernel, sent (by decide +kernel),
    sent (by decide +kernel)⟩

def expired : State := (armIn .deflected).modArm .l fun u => { u with
  motionTimer := .running 0, settleTimer := .running 0, pinnedTimer := .running 0, stallTimer := .running 0 }

/-- ArmTimersExpire. -/
theorem test_witness_arm_timers :
    Quiet expired ∧
    NoReactions expired ∧
    ((expired.arm .l).motionTimer = .running 0 ∧ (expired.arm .l).settleTimer = .running 0 ∧ (expired.arm .l).state =
    .deflected ∧
      (expired.arm .l).pinnedTimer = .running 0 ∧ (expired.arm .l).stallTimer = .running 0 ∧ (expired.arm .l).up =
    false ∧ expired.attends .a = true) :=
  ⟨quiet (by decide +kernel), noReactions rfl, by decide +kernel⟩

def wet : State := { held with
  water := { Water.reset with estimate := 500, state := .ample }
  spray := { Spray.reset with waterState := .ample, dwellTimer := .running 0, dryRunTimer := .running 0 } }

/-- CouplingMeetsItsPoints, ZonesFollowTheTable (no hypotheses), OverrideAndSprayTimers, RefillSetsTheEstimate. -/
theorem test_witness_spray :
    ((record.points.map Point.speed).Pairwise (· < ·) ∧ record.points.head?.map Point.speed = some 0 ∧ ∀ p ∈
    record.points, p.rotation ≤ 100) ∧
    record.points = [] ++ ⟨0, 40, 0⟩ :: ⟨30, 70, 60⟩ :: [⟨80, 100, 100⟩, ⟨120, 100, 80⟩] ∧
    Sent Form.zoneOverride .c [3, 2] held ∧
    (held.claims.spray.holder = some .c ∧ 1 < byteAt [3, 2] 1 ∧ byteAt [3, 1] 1 ≤ 1) ∧
    zoneOf (byteAt [3, 2] 0) = some .mouth ∧
    Sent Form.zoneOverride .c [3, 1] wet ∧
    Sent Form.zoneOverride .c [3, 0] wet ∧
    Quiet wet ∧
    NoReactions wet ∧
    (wet.spray.frost = false ∧ wet.spray.waterState ≠ .empty ∧ wet.spray.safeStop = false) ∧
    (wet.spray.dwellTimer = .running 0 ∧ wet.spray.dryRunTimer = .running 0 ∧ wet.spray.waterState = wet.water.state
    ∧ wet.water.state ≠ .empty ∧ wet.attends .a = true) ∧
    Sent Form.refill .c [0x0F, 0xA1] held ∧
    (4000 < wordAt [0x0F, 0xA1] 0 ∧ wordAt [0x0F, 0xA0] 0 ≤ 4000 ∧ held.claims.account.holder = some .c) ∧
    Sent Form.refill .c [0x0F, 0xA0] fresh ∧
    (fresh.item? 22 = none) ∧
    Quiet fresh ∧
    Quiet held ∧
    Sent Form.refill .c [0x0F, 0xA0] held ∧
    (held.item? 22 = some 1000) ∧
    NoReactions held :=
  ⟨by decide +kernel, rfl, sent (by decide +kernel), by decide +kernel, rfl, sent (by decide +kernel), sent (by
    decide +kernel), quiet (by decide +kernel), noReactions rfl, by decide +kernel, by decide +kernel, sent (by
    decide +kernel), by decide +kernel, sent (by decide +kernel), by decide +kernel, quiet (by decide +kernel), quiet
    (by decide +kernel), sent (by decide +kernel), by decide +kernel, noReactions rfl⟩

/-- Station b with nothing masked and n notices. -/
def heard16 (n : Nat) : State := live.modStation .b fun v => { v with
  masks := 0, queue := List.replicate n ⟨⟨.none, .draftDiscarded, 0, none⟩, false⟩ }

/-- RaisesAreMatchedAndDelivered, StationsReadAndMaskTheirNotices. -/
theorem test_witness_notices :
    (live.attends .b = true ∧ live.notices.b.masks.getLsbD 0 = true ∧ (heard16 16).notices.b.masks.getLsbD 0 = false
    ∧ (heard16 16).notices.b.queue.length = 16 ∧
      (heard16 15).notices.b.queue.length = 15 ∧ live.notices.b.master = false) ∧
    (∀ e : EntryNo, live.reactions[e] = none) ∧
    ((bound (binding .stopTravel)).reactions[3] = some (binding .stopTravel) ∧ (binding .stopTravel).fits joined =
    true ∧ (binding .stopTravel).held = none) ∧
    (∀ k : EntryNo, k < 3 → (bound (binding .stopTravel)).reactions[k] = none) ∧
    ((bound (binding .stopTravel)).travel.state = .parked) ∧
    (capped.reactions[3] ≠ none) ∧
    (((bound (binding .stopTravel)).modTravel fun g => { g with state := .drive, setpoint := 1 }).travel.setpoint ≠
    0) ∧
    (binding (.forceZoneOff (some .l))).action = .forceZoneOff (some .l) ∧
    Sent Form.readNotices .b [] (heard16 16) ∧
    Sent Form.ackFactors .b [255, 255, 255] live ∧
    Sent Form.setNoticeMask .b [0, 0, 0] (heard16 16) ∧
    Sent Form.setMasterMask .b [2] live ∧
    Sent Form.setMasterMask .b [1] live ∧
    Sent Form.setMasterMask .b [0] live ∧
    (live.notices.b.queue.length ≤ 16) ∧
    Sent Form.setMasterMask .b [0] (live.modStation .b fun v => { v with master := true }) :=
  ⟨by decide +kernel, by decide +kernel, by decide +kernel, by decide +kernel, by decide +kernel, by decide +kernel,
    by decide +kernel, rfl, sent (by decide +kernel), sent (by decide +kernel), sent (by decide +kernel), sent (by
    decide +kernel), sent (by decide +kernel), sent (by decide +kernel), by decide +kernel, sent (by decide +kernel)⟩

/-- ReactionsAreBoundAndUnbound, at the ends of the ranges of filter and operand. -/
theorem test_witness_reactions :
    bindingOf .b [7, 13, 3, 3, 0, 250] = some (7, ⟨13, .level 3, .capSpeed 250, .b, true, none⟩) ∧
    bindingOf .b [0, 9, 3, 0, 0, 2] = some (0, ⟨9, .arm .c, .raiseArm .c, .b, true, none⟩) ∧
    bindingOf .b [0, 18, 4, 2, 0, 4] = some (0, ⟨18, .zone .mouth, .forceZoneOff none, .b, true, none⟩) ∧
    (bindingOf .b [8, 0, 0, 4, 0, 0] = none ∧ bindingOf .b [0, 13, 4, 4, 0, 0] = none ∧ bindingOf .b [0, 0, 0, 3, 0,
    251] = none) ∧
    Sent Form.bindReaction .b [8, 0, 0, 4, 0, 0] live ∧
    Sent Form.bindReaction .b [3, 0, 0, 4, 0, 0] (bound (binding .stopTravel)) ∧
    Sent Form.bindReaction .b [3, 0, 0, 4, 0, 0] (changing .select) ∧
    Sent Form.bindReaction .b [3, 0, 0, 4, 0, 0] live ∧
    (live.profile.changeover = none) ∧
    Sent Form.unbindReaction .b [8] live ∧
    Quiet live ∧
    Sent Form.unbindReaction .b [3] live ∧
    Sent Form.unbindReaction .a [3] (bound (binding .stopTravel)) ∧
    ((binding .stopTravel).installer ≠ .a ∧ Station.a ≠ .c ∧ (binding .stopTravel).enabled = true) ∧
    Sent Form.unbindReaction .b [3] (bound (binding .stopTravel)) ∧
    Quiet (bound (binding .stopTravel)) ∧
    Sent Form.unbindReaction .c [3] capped ∧
    Quiet capped ∧
    ((bound { binding .stopTravel with enabled := false }).reactions[3] = some { binding .stopTravel with enabled :=
    false }) :=
  ⟨rfl, rfl, rfl, by decide +kernel, sent (by decide +kernel), sent (by decide +kernel), sent (by decide +kernel),
    sent (by decide +kernel), by decide +kernel, sent (by decide +kernel), quiet (by decide +kernel), sent (by
    decide +kernel), sent (by decide +kernel), by decide +kernel, sent (by decide +kernel), quiet (by
    decide +kernel), sent (by decide +kernel), quiet (by decide +kernel), by decide +kernel⟩

/-- Every item written, in COMMISSIONING; one item with another value. -/
def written : State := { fresh with supervision := { fresh.supervision with items := items } }
def rewritten (k v : Nat) : State := { written with
  supervision := { written.supervision with items := items.setIfInBounds (k - 1) (some v) } }

/-- CommissionSetWritesOneItem, CommissionCommitCloses. -/
theorem test_witness_commissioning :
    (itemRange 1 0 = false ∧ itemRange 1 1 = true ∧ itemRange 1 1000 = true ∧ itemRange 1 1001 = false ∧ itemRange 36
    50 = false ∧ itemRange 8 550 = false ∧ itemRange 35 50 = true) ∧
    Sent Form.commissionSet .a [1, 0, 0] fresh ∧
    Quiet fresh ∧
    NoReactions fresh ∧
    Sent Form.commissionSet .a [1, 3, 232] fresh ∧
    (fresh.item? 1 = none) ∧
    Sent Form.commissionSet .a [1, 3, 232] held ∧
    Quiet held ∧
    (held.item? 1 ≠ none) ∧
    Sent Form.commissionSet .a [19, 0, 127] fresh ∧
    (itemRange 19 127 = true ∧ itemRange 22 4000 = true) ∧
    Sent Form.commissionSet .a [22, 15, 160] fresh ∧
    Sent Form.commissionCommit .a [] held ∧
    (held.supervision.mode ≠ .commissioning) ∧
    Sent Form.commissionCommit .a [] fresh ∧
    (fresh.supervision.mode = .commissioning ∧ fresh.item? 1 = none) ∧
    Sent Form.commissionCommit .a [] written ∧
    Quiet written ∧
    NoReactions written ∧
    (∀ k, 1 ≤ k → k ≤ 35 → written.item? k ≠ none) ∧
    (written.item 20 ≤ written.item 19 ∧ written.item 23 < written.item 22 ∧ written.item 7 ≤ written.item 2 ∧
    written.item 30 ≤ written.item 2) ∧
    ((rewritten 19 29).item 19 < (rewritten 19 29).item 20 ∧ (rewritten 23 1000).item 22 ≤ (rewritten 23 1000).item
    23 ∧
      (rewritten 2 49).item 2 < (rewritten 2 49).item 7 ∧ (rewritten 30 201).item 2 < (rewritten 30 201).item 30) :=
  ⟨by decide +kernel, sent (by decide +kernel), quiet (by decide +kernel), noReactions rfl, sent (by decide +kernel),
    by decide +kernel, sent (by decide +kernel), quiet (by decide +kernel), by decide +kernel, sent (by
    decide +kernel), by decide +kernel, sent (by decide +kernel), sent (by decide +kernel), by decide +kernel, sent
    (by decide +kernel), by decide +kernel, sent (by decide +kernel), quiet (by decide +kernel), noReactions rfl, by
    intro k h1 h2; interval_cases k <;> decide, by decide +kernel, by decide +kernel⟩

def sitting : State := stopped.modSwitches fun w => { w with seat := ⟨true, true, .stopped⟩ }
def settled : State := home.modSupervision fun v => { v with armDone := .all true }

/-- SafeStopTakesHold, ResumeEndsSafeStop, RequestedResets. -/
theorem test_witness_safe_stop :
    Sent Form.safeStop .b [] held ∧
    Quiet held ∧
    (held.supervision.safeStop = false ∧ held.travel.state = .parked) ∧
    Sent Form.safeStop .b [] (going .drive 1000) ∧
    Quiet (going .drive 1000) ∧
    NoReactions (going .drive 1000) ∧
    Sent Form.safeStop .b [] stopped ∧
    Quiet stopped ∧
    ((going .hold 0).travel.setpoint = 0 ∧ (going .hold 0).travel.wheelSpeed = 0) ∧
    ((armIn .lowering).liftItem? .l ≠ none ∧ (armIn .lowering).item? 9 ≠ none) ∧
    Sent Form.resume .a [] held ∧
    workClear held ∧
    Sent Form.resume .a [] (stopped.modClock fun c => { c with verdict := .lost }) ∧
    Sent Form.resume .a [] ({ stopped with supervision := { stopped.supervision with pendingReset := some .a } } :
    State) ∧
    Sent Form.resume .a [] stopped ∧
    (stopped.switches.seat.level = false ∧ stopped.clock.verdict = .sound) ∧
    Sent Form.resume .a [] sitting ∧
    (sitting.switches.seat.level = true ∧ sitting.travel.state = .parked ∧ sitting.supervision.pendingReset = none) ∧
    workClear sitting ∧
    Sent Form.resume .a [] (sitting.modTravel fun g => { g with state := .stopping }) ∧
    ((sitting.modProfile fun p => { p with slots := p.slots.set 0 (.held .active record) }).slotUsed .active = some
    0) ∧
    Sent Form.resetPart .c [0] held ∧
    Sent Form.resetPart .c [1] resetting ∧
    workClear resetting ∧
    Sent Form.resetPart .c [1] home ∧
    workClear home ∧
    ((home.supervision.armDone.get .l) = false) ∧
    Sent Form.resetPart .c [1] settled ∧
    (settled.travel.state = .parked ∧ ∀ a ∈ Arm.list, settled.supervision.armDone.get a = true ∧ (settled.arm
    a).state = .stowed) ∧
    Sent Form.resetPart .c [1] (going .drive 1000) ∧
    Sent Form.resetPart .c [2] held ∧
    (2 ≤ byteAt [2] 0) ∧
    (({ held with supervision := { held.supervision with settledTimer := .running 0 } } :
    State).supervision.settledTimer = .running 0) :=
  ⟨sent (by decide +kernel), quiet (by decide +kernel), by decide +kernel, sent (by decide +kernel), quiet (by
    decide +kernel), noReactions rfl, sent (by decide +kernel), quiet (by decide +kernel), by decide +kernel, by
    decide +kernel, sent (by decide +kernel), rfl, sent (by decide +kernel), sent (by decide +kernel), sent (by
    decide +kernel), by decide +kernel, sent (by decide +kernel), by decide +kernel, rfl, sent (by decide +kernel),
    by decide +kernel, sent (by decide +kernel), sent (by decide +kernel), rfl, sent (by decide +kernel), rfl, by
    decide +kernel, sent (by decide +kernel), by decide +kernel, sent (by decide +kernel), sent (by decide +kernel),
    by decide +kernel, by decide +kernel⟩

/-- ReadsAnswerTheState. -/
theorem test_witness_reads :
    Sent Form.readClaim .a [6] live ∧
    Sent Form.readProfile .a [7] live ∧
    Sent Form.readProfile .a [254] live ∧
    Sent Form.readProfile .a [8] live ∧
    Sent Form.readChangeover .a [] live ∧
    (live.profile.changeover = none ∧ (changing .select).profile.changeover ≠ none) ∧
    Sent Form.readChangeover .a [] (changing .select) ∧
    Sent Form.readTravel .a [] live ∧
    Sent Form.readArm .a [2] live ∧
    armOf (byteAt [2] 0) = some .c ∧
    Sent Form.readSpray .a [] live ∧
    Sent Form.readWater .a [] live ∧
    Sent Form.readFlow .a [] live ∧
    Sent Form.readReactions .a [] live ∧
    Sent Form.readCommission .a [0] live ∧
    Sent Form.readCommission .a [35] live ∧
    Sent Form.readResetCause .a [] live :=
  ⟨sent (by decide +kernel), sent (by decide +kernel), sent (by decide +kernel), sent (by decide +kernel), sent (by
    decide +kernel), by decide +kernel, sent (by decide +kernel), sent (by decide +kernel), sent (by decide +kernel),
    rfl, sent (by decide +kernel), sent (by decide +kernel), sent (by decide +kernel), sent (by decide +kernel), sent
    (by decide +kernel), sent (by decide +kernel), sent (by decide +kernel)⟩

/-- FramesAreWholeAndGood, TransactionsBeginAndEnd, ValidationPassesValidDrafts: the clauses on what is stored, on
    the data output, and on the verdict of a failing field and of a failing point. -/
theorem test_witness_second_links :
    (live.links.a.state = .receiving ∧ State.reset.links.a.state ≠ .receiving) ∧
    (draft.name ≠ none ∧ ({ draft with ceiling := some 9 } : Draft).validate = some ⟨.ceiling, 0⟩) ∧
    (({ draft with points := some [⟨0, 40, 0⟩, ⟨0, 70, 60⟩] } : Draft).validate = some ⟨.points, 2⟩) ∧
    (({ draft with points := none } : Draft).validate = some ⟨.points, 0⟩) :=
  ⟨by decide +kernel, by decide +kernel, by decide +kernel, by decide +kernel⟩

/-- Slot 0 READY, the vehicle above the lowering speed. -/
def far : State := (stored .ready).modArms fun p => p.map fun u => { u with wheelSpeed := 51 }
/-- A SELECT to turn back, with every arm STOWED already, and with arm l still HALTED. -/
def turning : State := (changing .select).modArms fun p => p.map fun u => { u with state := .stowed }
def oneAway : State := turning.modArm .l fun u => { u with state := .halted }

/-- SelectProfileStartsAChangeover, AbortChangeoverTurnsBack: an arm away from its target, a record that stands, and
    every arm there. -/
theorem test_witness_targets :
    NoReactions far ∧
    far.slot 0 = .held .ready record ∧
    Sent Form.selectProfile .c [0] far ∧
    ((far.arm .l).state = .halted ∧ (far.arm .l).down = false ∧ (far.arm .l).reaction = none) ∧
    ((after (.selectProfile .c 1 [0]) far).profile.changeover.isSome = true ∧ ((after (.selectProfile .c 1 [0])
    far).arm .l).state = .lowering) ∧
    NoReactions home ∧
    ((home.arm .l).state.meets .stowed = true) ∧
    ((after (.selectProfile .c 1 [255]) home).profile.changeover = none) ∧
    NoReactions oneAway ∧
    Sent Form.abortChangeover .c [] oneAway ∧
    ((after (.abortChangeover .c 1 []) oneAway).profile.changeover.isSome = true ∧ ((after (.abortChangeover .c 1 [])
    oneAway).arm .l).state = .raising) ∧
    NoReactions turning ∧
    Sent Form.abortChangeover .c [] turning ∧
    ((after (.abortChangeover .c 1 []) turning).profile.changeover = none) ∧
    NoReactions (changing .reapply) :=
  ⟨noReactions rfl, rfl, sent (by decide +kernel), by decide +kernel, by decide +kernel, noReactions rfl, by
    decide +kernel, by decide +kernel, noReactions rfl, sent (by decide +kernel), by decide +kernel, noReactions rfl,
    sent (by decide +kernel), by decide +kernel, noReactions rfl⟩

/-- The pump with a grant, n pulses into a litre, the tank with an estimate. -/
def pumping (n estimate : Nat) : State := { live with
  water := { Water.reset with pulses := n, estimate := estimate, state := .ample }
  spray := { live.spray with waterState := .ample, pumpGrant := 5, dryRunTimer := .running 7 }
  travel := { live.travel with waterEmpty := false } }

/-- CapturePulsesAreCounted: with item 24 written and a pump grant, short of a litre, at a litre that leaves the
    water state, and at one that empties the tank. -/
theorem test_witness_pulses :
    workClear (pumping 0 500) ∧
    ((pumping 0 500).clock.phase = .running ∧ (pumping 0 500).item? 24 = some 5 ∧ (pumping 0 500).water.pulses + 1 <
    5 ∧ 0 < (pumping 0 500).spray.pumpGrant) ∧
    ((after (.capturePulse .flow false) (pumping 0 500)).spray.dryRunTimer = .running 2000) ∧
    (5 ≤ (pumping 4 500).water.pulses + 1 ∧ (after (.capturePulse .flow false) (pumping 4 500)).water.state = .ample)
    ∧
    ((after (.capturePulse .flow false) (pumping 4 500)).water.estimate = 499 ∧ (after (.capturePulse .flow false)
    (pumping 4 500)).spray.dryRunTimer = .running 2000) ∧
    NoReactions (pumping 4 1) ∧
    ((pumping 4 1).supervision.pendingReset = none ∧ (after (.capturePulse .flow false) (pumping 4 1)).water.state =
    .empty ∧ (pumping 4 1).attends .a = true) ∧
    ((after (.capturePulse .flow false) (pumping 4 101)).water.state = .reserve) :=
  ⟨rfl, by decide +kernel, by decide +kernel, by decide +kernel, by decide +kernel, noReactions rfl, by
    decide +kernel, by decide +kernel⟩

/-- Every gate due with n counts, the TG STOPPING at setpoint 0, arm l awaiting speed, arm r WORKING, a dwell delay.
    -/
def rolling (n : Nat) : State := { gate n with
  travel := { live.travel with state := .stopping }
  arms := ((gate n).arms.set .l { ArmUnit.reset with state := .lowering, sub := .awaitingSpeed, target := .down
    }).set .r
    { ArmUnit.reset with state := .working, rotTarget := 40, points := record.points }
  spray := { live.spray with dwell := .moving, dwellDelay := 1000 }
  water := { live.water with armDown := ⟨false, true, false⟩ } }

/-- GateExpiryPublishesTheMeasure: the end of STOPPING, overspeed, an arm that awaits speed, dwell, swept distance, a
    stalled brush. -/
theorem test_witness_gate_effects :
    Quiet (rolling 0) ∧
    NoReactions (rolling 0) ∧
    ((rolling 0).capture.wheel.timer = .running 0 ∧ (rolling 0).travel.state = .stopping ∧ (rolling
    0).travel.setpoint = 0) ∧
    ((after (.gateExpiry .wheel) (rolling 0)).travel.state = .hold) ∧
    ((after (.gateExpiry .wheel) (rolling 60)).travel.overspeedTimer = .running 1000) ∧
    (((rolling 0).arm .l).sub = .awaitingSpeed ∧ (after (.gateExpiry .wheel) (rolling 0)).capture.wheelSpeed.natAbs ≤
    (rolling 0).item 7 ∧ ((after (.gateExpiry .wheel) (rolling 0)).arm .l).sub ≠ .awaitingSpeed) ∧
    ((rolling 60).item 7 < (after (.gateExpiry .wheel) (rolling 60)).capture.wheelSpeed.natAbs ∧ ((after (.gateExpiry
    .wheel) (rolling 60)).arm .l).sub = .awaitingSpeed) ∧
    ((rolling 0).spray.dwell = .moving ∧ (rolling 0).spray.dwellDelay ≠ 0 ∧ (after (.gateExpiry .wheel) (rolling
    0)).spray.dwell = .dwelling) ∧
    (live.spray.dwell ≠ .dwelling ∧ live.spray.dwellDelay = 0) ∧
    ((rolling 60).water.armDown.get .r = true ∧ (rolling 60).item? 1 = some 100 ∧ (after (.gateExpiry .wheel)
    (rolling 60)).water.sweptPulses = 60) ∧
    (0 < ((rolling 0).arm .r).rotTarget ∧ (rolling 0).capture.brush.r.timer = .running 0 ∧ ((after (.gateExpiry
    (.brush .r)) (rolling 0)).arm .r).stallTimer = .running 1000) :=
  ⟨quiet (by decide +kernel), noReactions rfl, by decide +kernel, by decide +kernel, by decide +kernel, by
    decide +kernel, by decide +kernel, by decide +kernel, by decide +kernel, by decide +kernel, by decide +kernel⟩

theorem lists_live : live.flow.listsLawful := ⟨by decide +kernel, by decide +kernel, arm_all (by decide +kernel),
  arm_all (by decide +kernel), arm_all (by decide +kernel)⟩
/-- The MOUTH zone in force with arm l WORKING at speed, the pump with its demand posted and no capacity. -/
def spraying : State := evaluateZones { held with
  water := { Water.reset with estimate := 500, state := .ample }
  spray := { Spray.reset with
    waterState := .ample, dwell := .moving, zoneSet := ⟨false, false, false, true⟩, points := record.points,
    wheelSpeed := 50
    armState := ⟨.working, .stowed, .stowed⟩ } } |>.modWork fun _ => Work.clear

/-- EngineReportsSetTheCapacity, OverrideAndSprayTimers: lawful lift lists, a capacity and a pump demand that change.
    -/
theorem test_witness_reallocation :
    live.flow.listsLawful ∧
    ((after (.engineReport .a 0 [0x07, 0xD0]) live).flow.capacity = 100 ∧ live.flow.capacity = 0) ∧
    (live.flow.timer ≠ .running 0 ∧ live.item 20 ≠ live.flow.capacity ∧ offered.flow.timer = .running 0) ∧
    offered.flow.listsLawful ∧
    spraying.flow.listsLawful ∧
    Sent Form.zoneOverride .c [3, 1] spraying ∧
    Quiet spraying ∧
    NoReactions spraying ∧
    ((after (.zoneOverride .c 1 [3, 1]) spraying).flow.pumpDemand ≠ spraying.flow.pumpDemand) :=
  ⟨lists_live, by decide +kernel, by decide +kernel, lists_live, lists_live, sent (by decide +kernel), quiet (by
    decide +kernel), noReactions rfl, by decide +kernel⟩

/-- Every arm STOWED in DRIVE with a negative demand, at setpoint 0. -/
def backing : State := { reversing with
  claims := .all ⟨some .c, 0, []⟩, travel := { reversing.travel with setpoint := 0 } }
/-- A settled reset pending with the TG PARKED, arm l HALTED with its UP level, the other arms STOWED. -/
def lastArm (up : Bool) : State := { resetting with
  arms := ⟨{ ArmUnit.reset with up := up }, { ArmUnit.reset with state := .stowed }, { ArmUnit.reset with state :=
    .stowed }⟩
  travel := { resetting.travel with resetPending := true }
  supervision := { resetting.supervision with armDone := ⟨false, true, true⟩ } }
/-- The same with arm l RAISING, its UP switch and its motion timer due. -/
def raisingLast : State := { lastArm false with
  arms := (lastArm false).arms.set .l { ArmUnit.reset with
    state := .raising, sub := .moving, motionTimer := .running 0, liftUpOpen := true }
  switches := held.switches.setInput (.up .l) ⟨true, false, .running 0⟩ }
/-- The same with every arm done and the TG STOPPING, its ramp and gate timers due. -/
def stoppingLast : State := { lastArm true with
  arms := .all { ArmUnit.reset with state := .stowed }
  travel := { (lastArm true).travel with state := .stopping, rampTimer := .running 0 }
  capture := (gate 0).capture
  supervision := { (lastArm true).supervision with armDone := .all true } }

/-- ArmLowerLowersTheArm, ArmRaiseRaisesTheArm, ArmHaltAndClearFault: REVERSE_BLOCKED, and the commands while a
    settled reset is pending. -/
theorem test_witness_arms_and_resets :
    Sent Form.armCommand .c [0, 0] backing ∧
    workClear backing ∧
    NoReactions backing ∧
    ((backing.arm .l).state = .stowed ∧ backing.travel.reverseOpen = true ∧ backing.travel.state = .drive ∧
    backing.travel.demand < 0 ∧ 0 ≤ backing.travel.setpoint ∧ backing.attends .a = true) ∧
    Sent Form.armCommand .c [0, 1] (lastArm true) ∧
    workClear (lastArm true) ∧
    NoReactions (lastArm true) ∧
    Sent Form.armCommand .c [0, 1] (lastArm false) ∧
    NoReactions (lastArm false) ∧
    ((lastArm true).supervision.pendingReset ≠ none ∧ (lastArm true).travel.state = .parked ∧ ((lastArm true).arm
    .l).up = true ∧ ((lastArm true).arm .l).state = .halted ∧ (lastArm true).supervision.armDone = ⟨false, true,
    true⟩) ∧
    (((lastArm false).arm .l).up = false ∧ (lastArm true).liftItem? .l ≠ none ∧ (lastArm true).item? 9 ≠ none) ∧
    ((after (.armRaise .c 1 [0, 1]) (lastArm true)).supervision.mode = .starting ∧ ((after (.armRaise .c 1 [0, 1])
    (lastArm false)).arm .l).state = .raising) ∧
    Sent Form.armCommand .c [0, 2] raisingLast ∧
    workClear raisingLast ∧
    NoReactions raisingLast ∧
    (raisingLast.supervision.pendingReset ≠ none ∧ (raisingLast.arm .l).state = .raising) :=
  ⟨sent (by decide +kernel), rfl, noReactions rfl, by decide +kernel, sent (by decide +kernel), rfl, noReactions rfl,
    sent (by decide +kernel), noReactions rfl, by decide +kernel, by decide +kernel, by decide +kernel, sent (by
    decide +kernel), rfl, noReactions rfl, by decide +kernel⟩

/-- No reset pending, the TG PARKED, arm l HALTED, the others STOWED. -/
def oneHalted : State := { lastArm false with
  travel := { (lastArm false).travel with resetPending := false }
  supervision := { (lastArm false).supervision with pendingReset := none } }
theorem copies_oneHalted (a : Arm) : copyOk .supervision a oneHalted :=
  arm_all (p := fun a => copyOk .supervision a oneHalted) (by simp only [copyOk]; decide +kernel) a
/-- In HOLD at rest with every arm HALTED at UP. -/
def atUp : State := (going .hold 0).modArms fun p => p.map fun u => { u with up := true }
theorem copies_atUp : copyLaw atUp := fun h => by cases h <;> exact arm_all (by simp only [copyOk]; decide +kernel)
/-- Safe stop ready to end, with slot 0 ACTIVE. -/
def reapplied : State := sitting.modProfile fun p => { p with slots := p.slots.set 0 (.held .active record) }

/-- RequestedResets, ResumeEndsSafeStop, SafeStopTakesHold: SETTLED by the state it meets, the reports that complete
    it, and an ACTIVE slot at RESUME. -/
theorem test_witness_reset_reports :
    Sent Form.resetPart .c [1] oneHalted ∧
    (∀ a, copyOk .supervision a oneHalted) ∧
    NoReactions oneHalted ∧
    (oneHalted.supervision.pendingReset = none ∧ oneHalted.travel.state = .parked ∧ (oneHalted.arm .l).state =
    .halted ∧ (oneHalted.arm .l).up = false) ∧
    Sent Form.resetPart .c [1] atUp ∧
    NoReactions atUp ∧
    (∀ a, copyOk .supervision a atUp) ∧
    (atUp.travel.state = .hold ∧ atUp.travel.setpoint = 0 ∧ (atUp.arm .l).up = true ∧ (atUp.arm .l).state = .halted) ∧
    ((after (.resetPartSettled .c 1 [1]) atUp).supervision.mode = .starting ∧ (after (.resetPartSettled .c 1 [1])
    oneHalted).supervision.pendingReset = some .c) ∧
    (((after (.resetPartSettled .c 1 [1]) oneHalted).arm .l).state = .raising ∧ ((after (.resetPartSettled .c 1 [1])
    oneHalted).arm .l).origin = .stowOrder) ∧
    ((raisingLast.switches.input (.up .l)).counter = .running 0 ∧ (raisingLast.switches.input (.up .l)).raw = true ∧
    (raisingLast.arm .l).motionTimer = .running 0 ∧ raisingLast.supervision.armDone = ⟨false, true, true⟩) ∧
    ((after (.debounceExpiry (.up .l)) raisingLast).supervision.mode = .starting ∧ (after (.motionTimerExpiry .l)
    raisingLast).supervision.mode = .starting) ∧
    NoReactions stoppingLast ∧
    workClear stoppingLast ∧
    (stoppingLast.travel.state = .stopping ∧ stoppingLast.travel.resetPending = true ∧
    stoppingLast.supervision.armDone = .all true ∧ stoppingLast.travel.rampTimer = .running 0 ∧
    stoppingLast.capture.wheel.timer = .running 0 ∧ stoppingLast.water.armDown = .all false) ∧
    (stoppingLast.travel.setpoint = 0 ∧ stoppingLast.travel.wheelSpeed = 0 ∧ rampStep 0 0 (stoppingLast.item 5)
    (stoppingLast.item 6) = 0) ∧
    ((after .rampTimerExpiry stoppingLast).supervision.mode = .starting ∧ (after (.gateExpiry .wheel)
    stoppingLast).supervision.mode = .starting) ∧
    Sent Form.resume .a [] reapplied ∧
    workClear reapplied ∧
    NoReactions reapplied ∧
    reapplied.slot 0 = .held .active record ∧
    (reapplied.slotUsed .active = some 0 ∧ reapplied.profile.changeover = none ∧ reapplied.supervision.causes.request
    = true ∧ reapplied.attends .a = true) ∧
    Sent Form.safeStop .b [] (going .stopping 0) ∧
    NoReactions (going .stopping 0) ∧
    NoReactions stopped ∧
    ((going .stopping 0).travel.state = .stopping ∧ stopped.supervision.safeStop = true) :=
  ⟨sent (by decide +kernel), fun a => (copies_oneHalted a), noReactions rfl, by decide +kernel, sent (by
    decide +kernel), noReactions rfl, fun a => (copies_atUp .supervision a), by decide +kernel, by decide +kernel, by
    decide +kernel, by decide +kernel, by decide +kernel, noReactions rfl, rfl, by decide +kernel, by decide +kernel,
    by decide +kernel, sent (by decide +kernel), rfl, noReactions rfl, rfl, by decide +kernel, sent (by
    decide +kernel), noReactions rfl, noReactions rfl, by decide +kernel⟩

/-- An entry in flight. -/
def flying (a : Action) : Binding := { binding a with held := some joined }
/-- Entry 2's RAISE_ARM in flight on arm l, entry 3 bound to another factor. -/
def superseding : State := { held with
  arms := held.arms.set .l { ArmUnit.reset with state := .raising, reaction := some 2 }
  reactions := (held.reactions.set 2 (some { binding (.raiseArm .l) with factor := 1, held := some joined })).set 3
    (some (binding (.haltArm .l))) }
/-- Entry 3's RAISE_ARM in flight on arm l, its UP switch and its motion timer due. -/
def acting : State := { bound (flying (.raiseArm .l)) with
  arms := held.arms.set .l { ArmUnit.reset with
    state := .raising, sub := .moving, motionTimer := .running 0, liftUpOpen := true, reaction := some 3 }
  switches := held.switches.setInput (.up .l) ⟨true, false, .running 0⟩ }
/-- Entry 3's action on the TG in flight, at a ramp expiry. -/
def ending (a : Action) : State := { bound (flying a) with
  travel := { held.travel with state := .stopping, rampTimer := .running 0, caps := held.travel.caps.set 3 (some 5) }
    }

/-- RaisesAreMatchedAndDelivered: each action by the state it meets, and the completion of a held raise. -/
theorem test_witness_actions :
    ((bound (binding .stopTravel)).reactions[3] = some (binding .stopTravel) ∧ ∀ k : EntryNo, k ≠ 3 → (bound (binding
    .stopTravel)).reactions[k] = none) ∧
    (((bound (binding .stopTravel)).modTravel fun g => { g with state := .hold }).travel.wheelSpeed = 0 ∧ ((bound
    (binding .stopTravel)).modTravel fun g => { g with state := .stopping }).travel.state = .stopping) ∧
    (binding (.forceZoneOff none)).action = .forceZoneOff none ∧
    workClear (bound (binding (.capSpeed 5))) ∧
    ((binding (.capSpeed 5)).fits joined = true ∧ (binding (.capSpeed 5)).factor ≠ 12 ∧ (bound (binding (.capSpeed
    5))).travel.setpoint ≤ ((5 * 100 : Nat) : Int) ∧ ((5 * 100 : Nat) : Int) < (going .drive 501).travel.setpoint) ∧
    ((raiseFactor joined (bound (binding (.raiseArm .l)))).reactions[3] = some (flying (.raiseArm .l)) ∧
    ((raiseFactor joined (bound (binding (.raiseArm .l)))).arm .l).state = .raising) ∧
    (((bound (binding (.raiseArm .l))).arm .l).reaction = none ∧ (bound (binding (.raiseArm .l))).involved .l = false
    ∧ ((bound (binding (.raiseArm .l))).arm .l).up = false ∧ (bound (binding (.raiseArm .l))).liftItem? .l ≠ none ∧
    (bound (binding (.raiseArm .l))).item? 9 ≠ none ∧ fresh.liftItem? .l = none) ∧
    ((raiseFactor joined ((bound (binding (.raiseArm .l))).modArm .l fun u => { u with up := true })).reactions[3] =
    some (binding (.raiseArm .l))) ∧
    (((bound (binding (.haltArm .l))).modArm .l fun u => { u with state := .working }).arms.l.state = .working ∧
    (raiseFactor joined ((bound (binding (.haltArm .l))).modArm .l fun u => { u with state := .working
    })).arms.l.state = .halted) ∧
    (superseding.reactions[2].isSome = true ∧ (superseding.arm .l).reaction = some 2 ∧ (2 : EntryNo) ≠ 3 ∧ (binding
    (.haltArm .l)).fits joined = true) ∧
    (moved.profile.changeover ≠ none ∧ moved.involved .l = true) ∧
    Quiet acting ∧
    (acting.reactions[3] = some (flying (.raiseArm .l)) ∧ (acting.arm .l).reaction = some 3 ∧ (acting.arm .l).state =
    .raising ∧ (acting.arm .l).down = false ∧ joined.detail.factor = 0 ∧ (binding (.raiseArm .l)).factor = 0 ∧
    (acting.arm .l).motionTimer = .running 0 ∧ acting.reaches joined.audience .a = true) ∧
    ((after (.debounceExpiry (.up .l)) acting).reactions[3] = some (binding (.raiseArm .l)) ∧ (after
    (.motionTimerExpiry .l) acting).reactions[3] = some (binding (.raiseArm .l))) ∧
    Quiet (ending .stopTravel) ∧
    Quiet (ending (.capSpeed 5)) ∧
    ((ending .stopTravel).travel.rampTimer = .running 0 ∧ (ending .stopTravel).travel.state = .stopping ∧ (ending
    (.capSpeed 5)).travel.caps[(3 : EntryNo)] = some 5) ∧
    ((after .rampTimerExpiry (ending .stopTravel)).reactions[3] = some (binding .stopTravel) ∧ (after
    .rampTimerExpiry (ending (.capSpeed 5))).reactions[3] = some (binding (.capSpeed 5))) ∧
    (((500 : Nat) : Int) < (after .rampTimerExpiry ((ending (.capSpeed 5)).modTravel fun g => { g with setpoint :=
    2000 })).travel.setpoint) :=
  ⟨by decide +kernel, by decide +kernel, rfl, rfl, by decide +kernel, by decide +kernel, by decide +kernel, by
    decide +kernel, by decide +kernel, by decide +kernel, by decide +kernel, quiet (by decide +kernel), by
    decide +kernel, by decide +kernel, quiet (by decide +kernel), quiet (by decide +kernel), by decide +kernel, by
    decide +kernel, by decide +kernel⟩

/-! ## Orders inside one event -/

/-- R106, log entry 37: a SELECT that moves arms L and R raises REVERSE_BLOCKED once, with both. -/
def selecting : State := { backing with
  arms := backing.arms.map fun u => { u with wheelSpeed := 51 }
  profile := { backing.profile with slots := backing.profile.slots.set 0 (.held .ready record) } }
theorem test_reverse_blocked_once : (after (.selectProfile .c 1 [0]) selecting).notices.a.held[(11 : Fin 24)] =
    some ⟨.none, .reverseBlocked (-10) ⟨true, true, false⟩, 0, none⟩ := by decide +kernel

/-- R104: CLEAR_CAP with no cap installed leaves the ceiling as it was. -/
theorem test_clear_cap_with_no_cap : (after (.clearCap .c 1 []) { written with
    travel := { written.travel with ceiling := 7 } }).travel.ceiling = 7 := by decide +kernel

/-- R103, log entry 19: the raise of a cap met at its hand-over follows CEILING_CHANGED, and its entry ends out of
flight. -/
theorem test_cap_met : (after (.reportOut .a 1 []) { bound { binding (.capSpeed 5) with factor := 1 } with
      notices := held.notices.set .b { StationNotices.reset with masks := 0 } }).notices.b.queue.map
      (fun n => n.record.detail.factor.val) = [12, 1] ∧
    (after (.reportOut .a 1 []) (bound { binding (.capSpeed 5) with factor := 1 })).reactions[3] =
      some { binding (.capSpeed 5) with factor := 1 } := by decide +kernel

/-- R5, R3: the bytes after a frame are not stored, and the data output of an OFFLINE link is high-impedance. -/
theorem test_stored_bytes : (after (.badFrame .a [1, 2, 0, 9, 9, 9]) live).links.a.rxCount = 4 ∧
    (after (.badFrame .a [1, 2, 41, 9, 9]) live).links.a.rxCount = 3 ∧ State.reset.links.a.dataOut 0 = none := by
  decide +kernel

/-- Every arm STOWED. -/
def allStowed : State := { live with arms := .all { ArmUnit.reset with state := .stowed } }
/-- Arm l in a state at 3.0 km/h, a switch of it due to assert. -/
def moving (i : Switch) (st : ArmState) : State := (switched i true).modArm .l fun u => { u with
  state := st, origin := .command, wheelSpeed := 30, points := record.points }
/-- The seat lost at 1.2 km/h. -/
def offSeat : State := { (switched .seat false).modTravel fun g => { g with wheelSpeed := 12 } with arms :=
    allStowed.arms }

/-- ClockMonitorInterval, TeardownClearsTheStation, ReleaseAndYieldHandOn, DebouncedLevelsReachTheirOwners: the
    clauses on what the stations are told, with stations that attend. -/
theorem test_witness_told :
    (∀ st, live.attends st = true) ∧
    NoReactions allStowed ∧
    Quiet allStowed ∧
    (allStowed.clock.phase = .running ∧ allStowed.clock.verdict = .sound ∧ allStowed.attends .b = true) ∧
    ((after (.clockMonitorInterval 11999) allStowed).notices.b.held[(21 : Fin 24)] = some ⟨.none, .clockFault 11999,
    0, none⟩) ∧
    Sent Form.reportOut .c [] waited ∧
    Quiet waited ∧
    NoReactions waited ∧
    (waited.claims.travel = ⟨some .c, 0, [.a]⟩ ∧ waited.attends .a = true ∧ ∀ k ∈ Group.list, k ≠ .travel →
    (waited.claims.get k).waiting.head? ≠ some .a) ∧
    ((after (.reportOut .c 1 []) waited).notices.a.held[(1 : Fin 24)] = some ⟨.station .c, .stationLapsed .left (some
    .ms500), 0, none⟩) ∧
    ((after (.reportOut .c 1 []) waited).notices.a.held[(2 : Fin 24)] = some ⟨.group .travel, .claimGranted
    .holderLeft, 0, none⟩) ∧
    Sent Form.release .c [5] drafting ∧
    Quiet drafting ∧
    NoReactions drafting ∧
    drafting.profile.draft = some draft ∧
    (groupOf (byteAt [5] 0) = some .profile ∧ draft.owner = .c ∧ drafting.claims.profile.holder = some .c) ∧
    ((after (.release .c 1 [5]) drafting).notices.c.held[(22 : Fin 24)] = some ⟨.slot 0, .draftDiscarded, 0, none⟩) ∧
    Quiet (moving (.down .l) .lowering) ∧
    NoReactions (moving (.down .l) .lowering) ∧
    (((moving (.down .l) .lowering).switches.input (.down .l)).counter = .running 0 ∧ ((moving (.down .l)
    .lowering).arm .l).up = false) ∧
    ((after (.debounceExpiry (.down .l)) (moving (.down .l) .lowering)).notices.a.held[(5 : Fin 24)] = some ⟨.arm .l,
    .armSettled .working .command, 0, none⟩) ∧
    ((after (.debounceExpiry (.up .l)) (moving (.up .l) .raising)).notices.a.held[(5 : Fin 24)] = some ⟨.arm .l,
    .armSettled .stowed .command, 0, none⟩) ∧
    ((after (.debounceExpiry (.contact .l)) (moving (.contact .l) .working)).notices.a.held[(7 : Fin 24)] = some
    ⟨.arm .l, .armDeflected 30 35, 0, none⟩) ∧
    NoReactions (switched .frost true) ∧
    ((after (.debounceExpiry .frost) (switched .frost true)).notices.a.held[(18 : Fin 24)] = some ⟨.none, .frost
    (.all false), 0, none⟩) ∧
    NoReactions offSeat ∧
    (offSeat.supervision.mode = .operational ∧ offSeat.travel.wheelSpeed ≠ 0) ∧
    ((after (.debounceExpiry .seat) offSeat).notices.a.held[(23 : Fin 24)] = some ⟨.none, .operatorAbsent 12 .parked,
    0, none⟩) :=
  ⟨station_all (by decide +kernel), noReactions rfl, quiet (by decide +kernel), by decide +kernel, by decide +kernel,
    sent (by decide +kernel), quiet (by decide +kernel), noReactions rfl, by decide +kernel, by decide +kernel, by
    decide +kernel, sent (by decide +kernel), quiet (by decide +kernel), noReactions rfl, rfl, by decide +kernel, by
    decide +kernel, quiet (by decide +kernel), noReactions rfl, by decide +kernel, by decide +kernel, by
    decide +kernel, by decide +kernel, noReactions rfl, by decide +kernel, noReactions rfl, by decide +kernel, by
    decide +kernel⟩

/-- Entry 1's cap met, entry 3's action in flight, entry 6 draining; the caps limit the governor. -/
def manyCaps : State := { going .drive 1000 with
  travel := { (going .drive 1000).travel with
    caps := (Vector.replicate 8 none).set 1 (some 5) |>.set 3 (some 9), ceiling := 5, limiting := .cap }
  reactions := (held.reactions.set 1 (some (binding (.capSpeed 5))) |>.set 3
    (some { binding (.capSpeed 9) with held := some joined })).set 6
    (some { binding (.capSpeed 2) with enabled := false, held := some joined })
  notices := held.notices.set .b { StationNotices.reset with masks := 0 } }
theorem unbound_12 {s : State} (h : ∀ e : EntryNo, s.reactions[e].map Binding.factor ≠ some 12) (e : EntryNo) (b :
    Binding)
    (hb : s.reactions[e] = some b) (_ : b.enabled = true) : b.factor ≠ 12 := fun hf =>
  h e (by rw [hb]; exact congrArg some hf)

/-- ClearCapRemovesTheCaps: with a cap met, one in flight and a draining one, and no BOUND entry on CEILING_CHANGED.
    -/
theorem test_witness_clear_cap :
    Sent Form.clearCap .c [] manyCaps ∧
    Quiet manyCaps ∧
    (manyCaps.claims.travel.holder = some .c) ∧
    (∀ (e : EntryNo) b, manyCaps.reactions[e] = some b → b.enabled = true → b.factor ≠ 12) ∧
    (manyCaps.travel.caps[(1 : EntryNo)] = some 5 ∧ manyCaps.travel.caps[(3 : EntryNo)] = some 9) ∧
    (manyCaps.capRaises = [(3, joined), (6, joined)]) ∧
    ((after (.clearCap .c 1 []) manyCaps).travel.caps = Vector.replicate 8 none ∧ (after (.clearCap .c 1 [])
    manyCaps).travel.limiting = .maximum) ∧
    ((after (.clearCap .c 1 []) manyCaps).reactions = (manyCaps.reactions.set 3 (some (binding (.capSpeed 9)))).set 6
    none) ∧
    ((after (.clearCap .c 1 []) manyCaps).notices.b.queue.map (fun n => (n.record.detail.factor.val,
    n.record.reacted)) = [(0, some ⟨3, .cleared, .all false⟩), (0, some ⟨6, .cleared, .all false⟩), (12, none)]) ∧
    (∀ (e : EntryNo) b, capped.reactions[e] = some b → b.enabled = true → b.factor ≠ 12) ∧
    (∀ e : EntryNo, capped.travel.caps[e] = none) :=
  ⟨sent (by decide +kernel), quiet (by decide +kernel), by decide +kernel, unbound_12 (by decide +kernel), by
    decide +kernel, by decide +kernel, by decide +kernel, by decide +kernel, by decide +kernel, unbound_12 (by
    decide +kernel), by decide +kernel⟩

/-- R112, R129: a pinned expiry with UP asserted raises ARM_SETTLED and ARM_PINNED in front of the CHANGEOVER_DONE
that its report brings. -/
def pinnedAtUp : State := { changing .select with
  arms := held.arms.set .l { ArmUnit.reset with state := .deflected, up := true, pinnedTimer := .running 0 }
  profile := { (changing .select).profile with
    changeover := some ⟨.toTransport, none, none, 0, ⟨some ⟨.stowed, false⟩, none, none⟩, false⟩ }
  notices := held.notices.set .b { StationNotices.reset with masks := 0 } }
theorem test_pinned_at_up : (after (.pinnedTimerExpiry .l) pinnedAtUp).notices.b.queue.map
    (fun n => n.record.detail.factor.val) = [5, 8, 4] := by decide +kernel

/-- Log entry 43: a RAISE_ARM that stows its arm at once has its raise delivered behind the CHANGEOVER_DONE of the
    report. -/
theorem test_raise_at_up : (raiseFactor joined { pinnedAtUp with
      reactions := held.reactions.set 3 (some (binding (.raiseArm .l))) }).notices.b.queue.map
    (fun n => (n.record.detail.factor.val, n.record.reacted)) =
      [(5, none), (4, none), (0, some ⟨3, .stowed, .all false⟩)] := by decide +kernel

/-- Log entry 47: ENGINE_REPORT_STALE stands in front of the FLOW_SHORT of its expiry, a pump demand of 40 at an idle
capacity of 30. -/
def stale : State := { offered with
  flow := { offered.flow with capacity := 60, pumpDemand := 40, pumpGrant := 40 }
  notices := held.notices.set .b { StationNotices.reset with masks := 0 } }
theorem test_stale_before_short : (after .stalenessTimerExpiry stale).notices.b.queue.map
    (fun n => n.record.detail.factor.val) = [14, 13] := by decide +kernel

/-- R176, log entry 19: a cap met at its hand-over is not started again by the chain of its CEILING_CHANGED: arm
l's end starts entry 3, whose cap brings CEILING_CHANGED, which raises arm r, whose ARM_SETTLED finds entry 3 in
flight. -/
def chained : State := { moving (.up .l) .raising with
  arms := (moving (.up .l) .raising).arms.set .r { ArmUnit.reset with up := true }
  reactions := (held.reactions.set 3 (some { binding (.capSpeed 5) with factor := 5 })).set 4
    (some { binding (.raiseArm .r) with factor := 12 })
  notices := held.notices.set .b { StationNotices.reset with masks := 0 } }
theorem test_cap_started_once : (after (.debounceExpiry (.up .l)) chained).notices.b.queue.map
    (fun n => (n.record.detail.factor.val, n.record.subject, n.record.reacted)) =
      [(5, .arm .r, none), (12, .source .cap, some ⟨4, .stowed, .all false⟩),
        (5, .arm .l, some ⟨3, .reached, .all false⟩)] ∧
    (after (.debounceExpiry (.up .l)) chained).reactions = chained.reactions := by decide +kernel

/-! ### Changeovers from start to end -/

/-- A profile that works no arm; two slots with every arm STOWED; a changeover between them with arm l pending. -/
def wash : Profile := { record with name := 9, ceiling := 60, arms := .all false, levels := .all 0, dwell := 500 }
def twoSlots (u v : SlotUse) : State := home.modProfile fun p =>
  { p with slots := (p.slots.set 0 (.held u record)).set 1 (.held v wash) }
def midway (k : ChangeKind) (degraded : Bool) : State := (twoSlots .outgoing .incoming).modProfile fun p =>
  { p with changeover := some ⟨k, some 0, some 1, 0, ⟨some ⟨.stowed, false⟩, none, none⟩, degraded⟩ }
/-- Every arm above the lowering speed, so that an arm told to lower waits for the speed. -/
def stowed (s : State) : State := { s with arms := home.arms }
def quick (s : State) : State := s.modArms fun p => p.map fun u => { u with wheelSpeed := 51 }

/-- Profile ceiling, zone set, dwell delay, reserve, arm l in the set, its level, and its points those of the spray.
    -/
abbrev Values : Type := Nat × PerZone Bool × Nat × Nat × Bool × Nat × Bool
/-- The values in force as the TG, the Spray Unit and arm l hold them; what CHANGEOVER_DONE told station b. -/
def values (s : State) : Values :=
  (s.profileSource.value, s.spray.zoneSet, s.spray.dwellDelay, s.spray.reserve, (s.arm .l).inSet, (s.arm .l).level,
    decide (s.spray.points = (s.arm .l).points))
def done (s : State) : Option (Subject × Detail) :=
  ((s.notices.get .b).held[(4 : Fin 24)]).map fun r => (r.subject, r.detail)
def uses (s : State) (u v : SlotUse) : Bool := (s.slot 0).usedAs u && (s.slot 1).usedAs v
def recordValues (ceiling : Nat) : Values :=
  (ceiling, record.zones, 1000, 50, true, 8, true)
def transportValues (ceiling : Nat) : Values := (ceiling, .all false, 0, 100, false, 0, true)
def washValues (ceiling : Nat) : Values :=
  (ceiling, record.zones, 500, 50, false, 0, true)

/-- A changeover that has ended, with the uses of the two slots, the values and what b was told; and one that stands.
    -/
def ended (t : State) (u v : SlotUse) (x : Values) (d : Subject × Detail) : Bool :=
  t.profile.changeover.isNone && uses t u v && decide (values t = x) && decide (done t = some d)
def stands (t : State) (u v : SlotUse) (x : Values) : Bool :=
  t.profile.changeover.isSome && uses t u v && decide (values t = x) && decide (done t = none)

/-- R44, R57, R60: a SELECT that completes at once, and one that stands. -/
theorem test_select_goes :
    ended (after (.selectProfile .c 1 [1]) (twoSlots .active .ready)) .ready .active (washValues 60)
      (.slot 1, .changeoverDone .completed .select .arms false 9) = true ∧
    stands (after (.selectProfile .c 1 [0]) (quick (twoSlots .ready .active))) .incoming .outgoing
      (recordValues 60) = true := by decide +kernel

/-- R44, R57, R60: a return to transport that completes at once, and one that stands. -/
theorem test_transport_goes :
    ended (after (.selectProfile .c 1 [255]) (twoSlots .active .ready)) .ready .ready (transportValues 200)
      (.none, .changeoverDone .completed .toTransport .arms false 0) = true ∧
    stands (after (.selectProfile .c 1 [255]) ((twoSlots .active .ready).modArm .c fun u => { u with state :=
    .raising }))
      .outgoing .ready (transportValues 100) = true := by decide +kernel

/-- R44, R60, R62: a changeover turned back that stands, and one that completes at once. -/
def turned : State := (twoSlots .incoming .outgoing).modProfile fun p =>
  { p with changeover := some ⟨.select, some 1, some 0, 0, .all (some ⟨.down, false⟩), false⟩ }
theorem test_abort_goes :
    stands (after (.abortChangeover .c 1 []) (quick (midway .select false))) .outgoing .incoming
      (recordValues 60) = true ∧
    ended (after (.abortChangeover .c 1 []) turned) .ready .active (washValues 60)
      (.slot 1, .changeoverDone .aborted .abortReturn .arms false 9) = true := by decide +kernel

/-- R44, R63: a REAPPLY that completes at once, and one that stands. -/
def reapplying : State := { sitting with arms := home.arms, profile := (twoSlots .ready .active).profile }
def reapplyingRecord : State := quick { reapplying with profile := (twoSlots .active .ready).profile }
theorem test_resume_goes :
    ended (after (.resume .a 1 []) reapplying) .ready .active (washValues 60)
      (.slot 1, .changeoverDone .completed .reapply .arms false 9) = true ∧
    stands (after (.resume .a 1 []) reapplyingRecord) .active .ready (recordValues 100) = true := by decide +kernel

/-- R44, R64, R67: safe stop by a request, by a lost crystal and by a lost seat. -/
def cut (t : State) : Bool := ended t .active .ready (recordValues 100)
  (.slot 0, .changeoverDone .aborted .select .safeStop false 7)
def midwayOffSeat : State := { midway .select false with
  travel := { held.travel with wheelSpeed := 12 }
  switches := (switched .seat false).switches }
theorem test_safe_stop_cuts : cut (after (.safeStop .b 1 []) (midway .select false)) = true ∧
    cut (after (.clockMonitorInterval 3) (midway .select false)) = true ∧
    cut (after (.debounceExpiry .seat) midwayOffSeat) = true := by decide +kernel

/-- R59, R60, R67: the last arm's report of STOWED by its switch, with the changeover's flag clear and set and in a
return; of FAULT by its motion timer. -/
def lifting (s : State) : State := { s with
  arms := s.arms.set .l { ArmUnit.reset with state := .raising, motionTimer := .running 0 }
  switches := (switched (.up .l) true).switches }
theorem test_reports_end :
    ended (after (.debounceExpiry (.up .l)) (lifting (midway .select false))) .ready .active (washValues 60)
      (.slot 1, .changeoverDone .completed .select .arms false 9) = true ∧
    ended (after (.debounceExpiry (.up .l)) (lifting (midway .select true))) .ready .active (washValues 60)
      (.slot 1, .changeoverDone .degraded .select .arms true 9) = true ∧
    ended (after (.debounceExpiry (.up .l)) (lifting (midway .abortReturn true))) .active .ready (recordValues 100)
      (.slot 0, .changeoverDone .aborted .abortReturn .arms true 7) = true ∧
    ended (after (.motionTimerExpiry .l) (lifting (midway .select false))) .ready .active (washValues 60)
      (.slot 1, .changeoverDone .degraded .select .arms true 9) = true := by decide +kernel

/-- R59: one of two pending arms reports. -/
def both : State := (lifting (midway .select false)).modProfile fun p => { p with
  changeover := p.changeover.map fun c => { c with pending := c.pending.set .c (some ⟨.stowed, false⟩) } }
theorem test_reports_progress :
    (after (.debounceExpiry (.up .l)) both).profile.changeover.map (fun c => (c.pending, c.degraded)) =
      some (⟨none, none, some ⟨.stowed, false⟩⟩, false) ∧
    (after (.motionTimerExpiry .l) both).profile.changeover.map (fun c => (c.pending, c.degraded)) =
      some (⟨none, none, some ⟨.stowed, false⟩⟩, true) := by decide +kernel

/-- R59, R60: the reports of DEFLECTED by CONTACT and of WORKING by DOWN and by the settle timer, at the target down.
    -/
def downward (i : Switch) (st : ArmState) : State := { moving i st with
  profile := { (stored .incoming).profile with
    changeover := some ⟨.select, none, some 0, 0, ⟨some ⟨.down, false⟩, none, none⟩, false⟩ } }
theorem test_reports_down :
    (after (.debounceExpiry (.down .l)) (downward (.down .l) .lowering)).profile.changeover = none ∧
    uses (after (.debounceExpiry (.contact .l)) (downward (.contact .l) .working)) .active .ready = false ∧
    ((after (.debounceExpiry (.contact .l)) (downward (.contact .l) .working)).slot 0).usedAs .active = true ∧
    (after (.settleTimerExpiry .l) ((downward (.contact .l) .deflected).modArm .l fun u =>
      { u with settleTimer := .running 0 })).profile.changeover = none := by decide +kernel

/-- SelectProfileStartsAChangeover, AbortChangeoverTurnsBack, ResumeEndsSafeStop, SafeStopTakesHold,
    ClockMonitorInterval, DebouncedLevelsReachTheirOwners, ArmTimersExpire: changeovers that stand and that end. -/
theorem test_witness_values :
    Sent Form.selectProfile .c [1] (twoSlots .active .ready) ∧
    NoReactions (twoSlots .active .ready) ∧
    (twoSlots .active .ready).slot 1 = .held .ready wash ∧
    Sent Form.selectProfile .c [0] (quick (twoSlots .ready .active)) ∧
    NoReactions (quick (twoSlots .ready .active)) ∧
    Sent Form.abortChangeover .c [] (quick (midway .select false)) ∧
    NoReactions (quick (midway .select false)) ∧
    (midway .select false).recordAt (some 0) = some record ∧
    Sent Form.resume .a [] reapplying ∧
    NoReactions reapplying ∧
    reapplying.slot 1 = .held .active wash ∧
    (reapplying.slotUsed .active = some 1 ∧ reapplying.profile.changeover = none) ∧
    Sent Form.safeStop .b [] (midway .select false) ∧
    Quiet (midway .select false) ∧
    NoReactions (midway .select false) ∧
    ((midway .select false).supervision.safeStop = false ∧ (midway .select false).attends .b = true ∧ (midway .select
    false).clock.phase = .running) ∧
    Quiet midwayOffSeat ∧
    NoReactions midwayOffSeat ∧
    ((midwayOffSeat.switches.input .seat).counter = .running 0 ∧ midwayOffSeat.travel.wheelSpeed ≠ 0) ∧
    Quiet (lifting (midway .select false)) ∧
    NoReactions (lifting (midway .select false)) ∧
    (((lifting (midway .select false)).arm .l).state = .raising ∧ ((lifting (midway .select false)).arm .l).down =
    false) ∧
    Quiet both ∧
    NoReactions both ∧
    Quiet (downward (.contact .l) .working) ∧
    NoReactions (downward (.contact .l) .working) ∧
    (stored .ready).profile.changeover = none ∧
    Quiet (switched (.up .l) true) :=
  ⟨sent (by decide +kernel), noReactions rfl, rfl, sent (by decide +kernel), noReactions rfl, sent (by
    decide +kernel), noReactions rfl, rfl, sent (by decide +kernel), noReactions rfl, rfl, by decide +kernel, sent
    (by decide +kernel), quiet (by decide +kernel), noReactions rfl, by decide +kernel, quiet (by decide +kernel),
    noReactions rfl, by decide +kernel, quiet (by decide +kernel), noReactions rfl, by decide +kernel, quiet (by
    decide +kernel), noReactions rfl, quiet (by decide +kernel), noReactions rfl, rfl, quiet (by decide +kernel)⟩

/-- TeardownClearsTheStation: the TRAVEL holder that leaves in DRIVE, with another station attending and as the last
    one; at rest; another station. -/
theorem test_witness_holder_gone :
    Sent Form.reportOut .c [] (going .drive 1000) ∧
    Quiet (going .drive 1000) ∧
    NoReactions (going .drive 1000) ∧
    ((going .drive 1000).claims.travel.holder = some .c ∧ (going .drive 1000).attends .a = true) ∧
    ((after (.reportOut .c 1 []) (going .drive 1000)).travel.state = .stopping ∧ (after (.reportOut .c 1 []) (going
    .drive 1000)).travel.causes = { StopCauses.empty with holderGone := true }) ∧
    Quiet (stowed lapsing) ∧
    ((stowed lapsing).claims.travel.holder = some .c ∧ (stowed lapsing).attends .a = false ∧ lapsing.travel.state =
    .drive ∧ lapsing.travel.setpoint ≠ 0) ∧
    ((after (.windowCounterExpiry .c) (stowed lapsing)).travel.state = .stopping ∧ (after (.windowCounterExpiry .c)
    (stowed lapsing)).travel.causes = { StopCauses.empty with holderGone := true, safeStop := true }) ∧
    ((after (.reportOut .c 1 []) (going .drive 0)).travel.state = .hold) ∧
    Sent Form.reportOut .a [] (going .drive 1000) ∧
    ((after (.reportOut .a 1 []) (going .drive 1000)).travel.state = .drive) :=
  ⟨sent (by decide +kernel), quiet (by decide +kernel), noReactions rfl, by decide +kernel, by decide +kernel, quiet
    (by decide +kernel), by decide +kernel, by decide +kernel, by decide +kernel, sent (by decide +kernel), by
    decide +kernel⟩

end Sys2Proof.Machine.Tests
end

section
/-! PROOFS. What a POWER_ON reset leaves. -/

namespace Sys2Proof.Machine

set_option Elab.async false

/-! ## After a POWER_ON reset (R186) -/

theorem reset_link (l : Station) : State.reset.links.get l = Link.reset := PerStation.get_all _ l
theorem reset_arm (a : Arm) : State.reset.arm a = ArmUnit.reset := PerArm.get_all _ a
theorem reset_notices (l : Station) : State.reset.notices.get l = StationNotices.reset := PerStation.get_all _ l
theorem reset_slot (n : SlotNo) : State.reset.slot n = .empty := Vector.getElem_replicate _
theorem reset_reaction (n : EntryNo) : State.reset.reactions[n] = none := Vector.getElem_replicate _
theorem reset_cap (n : EntryNo) : State.reset.travel.caps[n] = none := Vector.getElem_replicate _

/-- R179: after POWER_ON every commissioned item is unwritten. -/
theorem reset_item (k : Nat) : State.reset.item? k = none := by
  cases k with
  | zero => rfl
  | succ k =>
    show ((Vector.replicate 35 none)[k]?).getD none = (none : Option Nat)
    rw [Vector.getElem?_replicate]
    split <;> rfl

/-- Settles O2: the reset state's records, block by block. -/
theorem resetLeavesTheSpecsValues : Obligations.ResetLeavesTheSpecsValues := by
  unfold Obligations.ResetLeavesTheSpecsValues
  refine ⟨fun l => ?_, fun g => PerGroup.get_all _ g, fun n => ⟨reset_slot n, reset_reaction n, reset_cap n⟩, rfl, rfl,
    rfl, rfl, rfl, ?_, fun a => ?_, fun z => ?_, ⟨rfl, rfl⟩, ?_, ?_, ?_⟩
  · rw [reset_link, reset_notices]
    exact ⟨⟨rfl, rfl, rfl, rfl, rfl⟩, PerStation.get_all _ l, rfl, rfl, rfl, rfl, rfl, PerStation.get_all _ l⟩
  · exact ⟨rfl, rfl, rfl, rfl, rfl, rfl, rfl, rfl, rfl, rfl, rfl, rfl⟩
  · rw [reset_arm]
    exact ⟨rfl, rfl, rfl, rfl, rfl, rfl, rfl, rfl, rfl, rfl, rfl⟩
  · exact ⟨PerZone.get_all _ z, PerZone.get_all _ z, PerZone.get_all _ z, PerZone.get_all _ z⟩
  · exact ⟨rfl, rfl, rfl, rfl, rfl, rfl, rfl⟩
  · exact ⟨rfl, rfl, rfl, rfl, rfl, rfl, rfl, rfl, rfl, rfl⟩
  · exact ⟨rfl, rfl, rfl, rfl, rfl, rfl, reset_item⟩

end Sys2Proof.Machine
end

section
/-! PROOFS. Bytes clocked in, frames and transactions without a request. -/

namespace Sys2Proof.Machine

set_option Elab.async false

/-! ## Bytes clocked in (R5) -/

theorem byteAt_append_left {frame : List Byte} {i : Nat} (h : i < frame.length) (rest : List Byte) :
    byteAt (frame ++ rest) i = byteAt frame i := by
  unfold byteAt
  rw [List.getD_append _ _ _ _ h]

/-- Once the length byte is in, a byte is stored while the frame is not over-long and not whole; whatever is clocked in
later is not stored. -/
theorem clockBytesFrom_take (count : Nat) (frame rest : List Byte) (h3 : 3 ≤ frame.length) (hc : frame.length ≤ count)
    (hs : frame.length < count → 40 < byteAt frame 2 ∨ 4 + byteAt frame 2 ≤ frame.length) :
    clockBytesFrom count frame rest =
      frame ++ rest.take (if 40 < byteAt frame 2 then 0 else 4 + byteAt frame 2 - frame.length) := by
  induction rest generalizing count frame with
  | nil => simp [clockBytesFrom]
  | cons b rest ih =>
    show clockBytesFrom (count + 1) (clockByte frame count b) rest = _
    by_cases hfull : 40 < byteAt frame 2 ∨ 4 + byteAt frame 2 ≤ frame.length
    · have hb : clockByte frame count b = frame := by
        unfold clockByte
        rw [if_neg (by omega), if_pos (by simp only [Bool.or_eq_true, decide_eq_true_eq]; omega)]
      have hz : (if 40 < byteAt frame 2 then 0 else 4 + byteAt frame 2 - frame.length) = 0 := by
        split <;> omega
      rw [hb, ih (count + 1) frame h3 (by omega) fun _ => hfull, hz]
      rfl
    · have he : count = frame.length := by
        by_contra hne
        exact hfull (hs (by omega))
      have hb : clockByte frame count b = frame ++ [b] := by
        unfold clockByte
        rw [if_neg (by omega), if_neg (by simp only [Bool.or_eq_true, decide_eq_true_eq]; omega)]
      have hl : (frame ++ [b]).length = frame.length + 1 := by simp
      rw [hb, ih (count + 1) (frame ++ [b]) (by omega) (by omega) (by omega), byteAt_append_left (by omega), hl,
        if_neg (by omega), if_neg (by omega)]
      rw [show 4 + byteAt frame 2 - frame.length = (4 + byteAt frame 2 - (frame.length + 1)) + 1 by omega,
        List.take_succ_cons]
      simp

/-- R5: the receive frame is the first 4 + n bytes, or the first three of an over-long frame. -/
theorem clockBytes_take (bytes : List Byte) :
    clockBytes bytes = bytes.take (if 40 < byteAt bytes 2 then 3 else 4 + byteAt bytes 2) := by
  match bytes with
  | [] => simp [clockBytes, clockBytesFrom]
  | [a] => simp [clockBytes, clockBytesFrom, clockByte, byteAt]
  | [a, b] => simp [clockBytes, clockBytesFrom, clockByte, byteAt]
  | a :: b :: c :: rest =>
    have h : clockBytes (a :: b :: c :: rest) = clockBytesFrom 3 [a, b, c] rest := rfl
    rw [h, clockBytesFrom_take 3 [a, b, c] rest (by simp) (by simp) (by simp)]
    show [a, b, c] ++ rest.take (if 40 < c.toNat then 0 else 4 + c.toNat - 3) =
      (a :: b :: c :: rest).take (if 40 < c.toNat then 3 else 4 + c.toNat)
    split
    · simp
    · rw [show 4 + c.toNat = (4 + c.toNat - 3) + 3 by omega]
      simp

/-- R6: a whole request frame of at most 40 parameters is good. -/
theorem goodFrame_requestFrame (code tag : Byte) (ps : List Byte) (h : ps.length ≤ 40) :
    goodFrame (requestFrame code tag ps) = true := by
  obtain ⟨body, hf, hb⟩ : ∃ body : List Byte, requestFrame code tag ps = body ++ [crc8 body] ∧ body.length = 3 + ps.length :=
    ⟨code :: tag :: BitVec.ofNat 8 ps.length :: ps, rfl, by simp; omega⟩
  have hn : byteAt (requestFrame code tag ps) 2 = ps.length := by
    show (BitVec.ofNat 8 ps.length).toNat = ps.length
    rw [BitVec.toNat_ofNat]
    omega
  have hlen : (requestFrame code tag ps).length = 4 + ps.length := by rw [hf]; simp; omega
  have hcrc : byteAt (requestFrame code tag ps) (3 + ps.length) = (crc8 body).toNat := by
    unfold byteAt
    rw [hf, List.getD_append_right _ _ _ _ (by omega)]
    simp [hb]
  have htake : (requestFrame code tag ps).take (3 + ps.length) = body := by rw [hf, List.take_left' hb]
  unfold goodFrame
  simp only [hn, hlen, hcrc, htake, beq_self_eq_true, Bool.and_true, Bool.and_eq_true, decide_eq_true_eq]
  omega

/-! ## A response frame (R4, R13, R188) -/

/-- The bytes of a response before its check byte. -/
def Response.body (r : Response) : List Byte :=
  [r.status.code, r.tag, r.code, BitVec.ofNat 8 r.data.bytes.length] ++ r.data.bytes

theorem Response.wire_eq (r : Response) : r.wire = r.body ++ [crc8 r.body] := rfl

theorem Response.body_length (r : Response) : r.body.length = 4 + r.data.bytes.length := by
  simp [Response.body]; omega

theorem Response.wire_length (r : Response) : r.wire.length = 5 + r.data.bytes.length := by
  rw [r.wire_eq, List.length_append, r.body_length, List.length_singleton]; omega

theorem Response.wire_head (r : Response) :
    r.wire.take 4 = [r.status.code, r.tag, r.code, BitVec.ofNat 8 r.data.bytes.length] := by
  simp [Response.wire]

theorem Response.wire_data (r : Response) : (r.wire.drop 4).take r.data.bytes.length = r.data.bytes := by
  simp [Response.wire]

theorem Response.wire_check (r : Response) : r.wire.drop (4 + r.data.bytes.length) =
    [crc8 (r.wire.take (4 + r.data.bytes.length))] := by
  rw [r.wire_eq, List.drop_left' r.body_length, List.take_left' r.body_length]

/-- R4: the outgoing frame byte by byte, and zeros behind it. -/
theorem Link.outByte_eq {k : Link} {r : Response} (h : k.outgoing = some r) (i : Nat) : k.outByte i = r.wire.getD i 0 := by
  unfold Link.outByte
  rw [h]

/-- Settles O7: the receive frame by induction on the bytes clocked in, the response frame by its parts. -/
theorem framesAreWholeAndGood : Obligations.FramesAreWholeAndGood := by
  refine ⟨clockBytes_take, fun code tag ps h => ⟨(clockBytes_requestFrame code tag ps h).1, goodFrame_requestFrame code tag ps h⟩,
    fun k i => ⟨fun h => if_pos h, fun h => if_neg h⟩, fun r k h => ⟨r.wire_head, r.wire_data, r.wire_length, r.wire_check,
    fun i hi => ?_, fun i hi => ?_⟩⟩
  · rw [Link.outByte_eq h, List.getD_eq_default _ _ (by rw [r.wire_length]; exact hi)]
  · rw [Link.outByte_eq h, List.getD_eq_getElem _ _ hi]

/-! ## Transactions without a request (R3 to R7, R21) -/

theorem modLink_eq (s : State) (l : Station) (f : Link → Link) :
    s.modLink l f = { s with links := s.links.set l (f (s.links.get l)) } := rfl

/-- R4: chip select falls on an IDLE link, and on an OFFLINE one. -/
theorem Link.fall_idle {k : Link} (h : k.state = .idle) : k.fall = { k with
    state := .receiving, chipSelectLow := true, rxFrame := [], rxCount := 0, outgoing := some k.slot } := by
  unfold Link.fall
  rw [h]

theorem Link.fall_offline {k : Link} (h : k.state = .offline) : k.fall = { k with chipSelectLow := true } := by
  unfold Link.fall
  rw [h]

/-- R3: the rise of chip select that ends DISREGARD, and on an OFFLINE link. -/
theorem riseUntaken_disregard {l : Station} {s : State} (h : (s.links.get l).state = .disregard) :
    riseUntaken l s = { s with links := s.links.set l { s.links.get l with state := .idle, chipSelectLow := false } } := by
  unfold riseUntaken
  rw [modLink_eq, h]

theorem riseUntaken_offline {l : Station} {s : State} (h : (s.links.get l).state = .offline) :
    riseUntaken l s = { s with links := s.links.set l { s.links.get l with chipSelectLow := false } } := by
  unfold riseUntaken
  rw [modLink_eq]
  simp only [h]

/-- R6: a frame end on a RECEIVING link. -/
theorem atFrameEnd_receiving {l : Station} {s : State} (h : (s.links.get l).state = .receiving) (bytes : List Byte)
    (k : State → State) : atFrameEnd l bytes k s = k (s.modLink l fun x => x.endFrame bytes) := if_pos h

/-- R5: a link at the end of a whole request frame. -/
theorem Link.endFrame_request (k : Link) (code tag : Byte) {ps : List Byte} (h : ps.length ≤ 40) :
    k.endFrame (requestFrame code tag ps) = { k with
      state := .idle, chipSelectLow := false, rxFrame := requestFrame code tag ps, rxCount := ps.length + 4 } := by
  obtain ⟨hc, hl⟩ := clockBytes_requestFrame code tag ps h
  unfold Link.endFrame
  rw [hc]
  simp only [hl]

/-- A response placed after a change of the same link (R11). -/
theorem place_modLink (l : Station) (r : Response) (s : State) (f : Link → Link) :
    place l r (s.modLink l f) = { s with links := s.links.set l { f (s.links.get l) with slot := r } } := by
  unfold place
  simp only [modLink_eq, PerStation.set_get_same, PerStation.get_set_same]

/-- R21: the Attendance Unit's part of a good frame, beside the link's. -/
theorem tell_modLink (l : Station) (s : State) (f : Link → Link) :
    tell l (s.modLink l f) = State.modLink { s with attendance := unprepared l s } l f := rfl

/-- Settles O8: each event's rule, from what it does to its link. -/
theorem transactionsBeginAndEnd : Obligations.TransactionsBeginAndEnd := by
  refine ⟨fun l s => ⟨fun h => ?_, fun h => ?_⟩, fun l s => ⟨fun h => ?_, fun h => ?_, fun h => ?_, fun bytes h hne hbad => ?_⟩,
    fun l code tag ps s h h40 hk => ?_⟩
  · show Host.Outcome.next (s.modLink l Link.fall) = _
    rw [modLink_eq, Link.fall_idle h]
  · show Host.Outcome.next (s.modLink l Link.fall) = _
    rw [modLink_eq, Link.fall_offline h]
  · exact congrArg Host.Outcome.next (riseUntaken_disregard h)
  · exact congrArg Host.Outcome.next (riseUntaken_offline h)
  · exact congrArg Host.Outcome.next (atFrameEnd_receiving h [] fun t => t)
  · show Host.Outcome.next (if bytes.isEmpty || goodFrame bytes then s else atFrameEnd l bytes (placeBadFrame l bytes) s) = _
    rw [if_neg (by simp [hne, hbad]), atFrameEnd_receiving h]
    exact congrArg Host.Outcome.next (place_modLink l _ s _)
  · have hfull : ¬ 40 < ps.length := by omega
    show Host.Outcome.next (if knownCode code then s else _) = _
    rw [hk, if_neg nofun, atFrameEnd_receiving h, if_neg hfull]
    rw [tell_modLink, place_modLink, Link.endFrame_request _ code tag h40]

end Sys2Proof.Machine
end

section
/-! PROOFS. Every request: the stages before its owner, the claim test, and the short requests. -/

namespace Sys2Proof.Machine

set_option Elab.async false

/-! ## A request that its link answers (R7, R11) -/

/-- R141: an answer that holds no zone is left as it is. -/
theorem answerZone_replied (f : Form) (l : Station) (tag : Byte) (ps ps' : List Byte) (st : Status) (s : State) :
    answerZone l ps' (replied f l tag ps st .none s) = replied f l tag ps st .none s := by
  have h : ((replied f l tag ps st .none s).links.get l).slot.data = .none := by
    show ((s.links.set l _).get l).slot.data = _
    rw [PerStation.get_set_same]
  unfold answerZone
  rw [h]

/-- How a command that is a request is run: served with the owner's decision, with an event's end behind it, or with the
zone of a ZONE_OVERRIDE put right behind that. -/
inductive ServedBy (c : Instr) (f : Form) (l : Station) (tag : Byte) (ps : List Byte) (s : State) (owner : Owner) : Prop
  | plain (h : exec c s = .next (serve f owner l tag ps s))
  | event (h : exec c s = .next (finish (serve f owner l tag ps s)))
  | zone (h : exec c s = .next (if (s.links.get l).state = .receiving then answerZone l ps (finish (serve f owner l tag ps s))
      else finish (serve f owner l tag ps s)))

/-- A request answered with a status alone, nothing left to do, is answered so by its command. -/
theorem ServedBy.replied {c : Instr} {f : Form} {l : Station} {tag : Byte} {ps : List Byte} {s : State} {owner : Owner}
    (h : ServedBy c f l tag ps s owner) (hw : workClear s) {st : Status}
    (hs : serve f owner l tag ps s = replied f l tag ps st .none s) :
    exec c s = .next (Machine.replied f l tag ps st .none s) := by
  have hf : finish (Machine.replied f l tag ps st .none s) = Machine.replied f l tag ps st .none s := finish_clear hw
  cases h with
  | plain h => rw [h, hs]
  | event h => rw [h, hs, hf]
  | zone h => rw [h, hs, hf, answerZone_replied, ite_self]

/-- The requests that R10 tests for commissioning behind the claim: RELEASE_PARK, SELECT_PROFILE and LOWER. -/
def testsCommissioning (c : Instr) (l : Station) (tag : Byte) (ps : List Byte) : Prop :=
  c = .releasePark l tag ps ∨ c = .selectProfile l tag ps ∨ (c = .armLower l tag ps ∧ byteAt ps 1 = 0)

/-- An owner of group g that tests the claim first, and then, for the requests that R10 names, the commissioning. -/
def ClaimFirst (g : Group) (commissioned : Prop) (owner : Owner) (l : Station) (ps : List Byte) : Prop :=
  ∃ k : Owner, (∀ t, owner l ps t = claimTest g k l ps t) ∧
    (commissioned → ∃ k' : Owner, ∀ t, k l ps t = commissionTest k' l ps t)

/-- An arm's owner tests the claim of the arm's group first. -/
theorem armOwner_claimFirst {cmd : Nat} {before : Owner → Owner} {k : Arm → Owner} {ps : List Byte} {g : Group}
    (hg : (armOf (byteAt ps 0)).map Arm.group = some g) (l : Station) {p : Prop}
    (hp : p → byteAt ps 1 = cmd ∧ before = commissionTest) : ClaimFirst g p (armOwner cmd before k) l ps := by
  obtain ⟨a, ha, rfl⟩ := Option.map_eq_some_iff.1 hg
  refine ⟨_, fun t => by unfold armOwner forArm; rw [ha], fun h => ?_⟩
  obtain ⟨h1, h2⟩ := hp h
  exact ⟨_, fun t => by rw [if_neg (not_not.2 h1), h2]⟩

theorem serveArm_event {cmd : Nat} {ps : List Byte} (h : otherCommand cmd ps = false) (before : Owner → Owner)
    (k : Raiser → Arm → Owner) (l : Station) (tag : Byte) (s : State) : serveArm cmd before k l tag ps s =
      finish (serve Form.armCommand (armOwner cmd before (k raiseFactor)) l tag ps s) := by
  unfold serveArm
  rw [h]
  rfl

/-- RESET_PART's owner: the kind of the row, else BAD_PARAM (R184). -/
def kindOwner (kind : Nat) (k : Owner) : Owner := fun st ps t =>
  if byteAt ps 0 ≠ kind then .refuse .badParam t else k st ps t

theorem serveReset_event {kind : Nat} {ps : List Byte} (h : otherReset kind ps = false) (k : Raiser → Owner) (l : Station)
    (tag : Byte) (s : State) : serveReset kind k l tag ps s =
      finish (serve Form.resetPart (kindOwner kind (k raiseFactor)) l tag ps s) := by
  unfold serveReset
  rw [h]
  rfl

/-- A command whose check asks for its own row's parameters and for the room of the receive frame. -/
theorem own_and_fits {own : Bool} {ps : List Byte} (h : (!own && paramsOk ps) = true) : own = false := by
  simp only [Bool.and_eq_true, Bool.not_eq_true'] at h
  exact h.1

/-- Every request command is served, by an owner that tests the claim of its group first where it has one (R7, R9, R10). -/
theorem request_served {c : Instr} {f : Form} {l : Station} {tag : Byte} {ps : List Byte}
    (h : requestOf c = some (f, l, tag, ps)) (hc : c.wellFormed = true) (s : State) :
    ∃ owner : Owner, ServedBy c f l tag ps s owner ∧
      ∀ g, groupHeldFor c = some g → ClaimFirst g (testsCommissioning c l tag ps) owner l ps := by
  cases c
  case nop | identify | keepPrepare | keepCommit | claimTry | claimWait | withdrawWait | readClaim | readProfile |
      readChangeover | readTravel | readArm | readSpray | readWater | readFlow | readNotices | ackFactors | setNoticeMask |
      setMasterMask | bindReaction | readReactions | readCommission | readResetCause =>
    cases h; exact ⟨_, .plain rfl, nofun⟩
  case reportIn | reportOut | release | yield | override | engineReport | unbindReaction | commissionSet |
      commissionCommit | safeStop | resume =>
    cases h; exact ⟨_, .event rfl, nofun⟩
  case openDraft | writeDraft | setPoints | commitDraft | discardDraft | eraseProfile | applyPark =>
    cases h; exact ⟨_, .plain rfl, fun g hg => by cases hg; exact ⟨_, fun _ => rfl, by simp [testsCommissioning]⟩⟩
  case abortChangeover | setTravel | clearCap | refill =>
    cases h; exact ⟨_, .event rfl, fun g hg => by cases hg; exact ⟨_, fun _ => rfl, by simp [testsCommissioning]⟩⟩
  case zoneOverride =>
    cases h; exact ⟨_, .zone rfl, fun g hg => by cases hg; exact ⟨_, fun _ => rfl, by simp [testsCommissioning]⟩⟩
  case selectProfile =>
    cases h; exact ⟨_, .event rfl, fun g hg => by cases hg; exact ⟨_, fun _ => rfl, fun _ => ⟨_, fun _ => rfl⟩⟩⟩
  case releasePark =>
    cases h; exact ⟨_, .plain rfl, fun g hg => by cases hg; exact ⟨_, fun _ => rfl, fun _ => ⟨_, fun _ => rfl⟩⟩⟩
  case armLower =>
    cases h
    exact ⟨_, .event (congrArg Host.Outcome.next (serveArm_event (own_and_fits hc) ..)),
      fun g hg => armOwner_claimFirst hg l fun hp => by
      simp only [testsCommissioning, reduceCtorEq, true_and, false_or] at hp
      exact ⟨hp, rfl⟩⟩
  case armRaise | armHalt | armClearFault =>
    cases h
    exact ⟨_, .event (congrArg Host.Outcome.next (serveArm_event (own_and_fits hc) ..)),
      fun g hg => armOwner_claimFirst hg l fun hp => by
      simp [testsCommissioning] at hp⟩
  case resetPartImmediate | resetPartSettled =>
    cases h
    exact ⟨_, .event (congrArg Host.Outcome.next (serveReset_event (own_and_fits hc) ..)), nofun⟩
  all_goals cases h

/-- A well-formed request fits in the receive frame (R5). -/
theorem request_room {c : Instr} {f : Form} {l : Station} {tag : Byte} {ps : List Byte}
    (h : requestOf c = some (f, l, tag, ps)) (hc : c.wellFormed = true) : ps.length ≤ 40 := by
  have hp : paramsOk ps = true := by
    cases c
    case armLower | armRaise | armHalt | armClearFault | resetPartImmediate | resetPartSettled =>
      cases h
      exact (Bool.and_eq_true_iff.1 hc).2
    all_goals cases h
    all_goals exact hc
  exact of_decide_eq_true hp

/-- Settles O9: every request is served, and the stages decide before its owner. -/
theorem requestsPassTheStagesInOrder : Obligations.RequestsPassTheStagesInOrder := by
  intro c f l tag ps s h hc hw hr
  obtain ⟨owner, hs, -⟩ := request_served h hc s
  obtain ⟨away, form, role⟩ := serve_stages hr (request_room h hc) owner tag
  exact ⟨fun ha => hs.replied hw (away ha), fun ha hf => hs.replied hw (form ha hf),
    fun ha hf hro => hs.replied hw (role ha hf hro)⟩

/-- R10: the claim test against the state the request finds. -/
theorem claimTest_heard {g : Group} {k : Owner} {f : Form} {l : Station} {tag : Byte} {ps : List Byte} {s : State} :
    claimTest g k l ps (heard f l tag ps s) = if (s.claims.get g).holder = some l then k l ps (heard f l tag ps s)
      else ⟨.refusedClaim, .none, heard f l tag ps s⟩ := by
  unfold claimTest
  rw [heard_holds]
  simp only [beq_iff_eq]
  rfl

/-- Settles O10: the owner of a request on a group tests the claim first, then the commissioning. -/
theorem ownersTestTheClaimFirst : Obligations.OwnersTestTheClaimFirst := by
  intro c f l tag ps s g h hc hw hsent hg
  obtain ⟨owner, hs, hclaim⟩ := request_served h hc s
  obtain ⟨k, hk, hcom⟩ := hclaim g hg
  refine ⟨fun hne => hs.replied hw (serve_replied hsent tag ?_), fun hh hm hp => hs.replied hw (serve_replied hsent tag ?_)⟩
  · rw [hk, claimTest_heard, if_neg hne]
  · obtain ⟨k', hk'⟩ := hcom hp
    rw [hk, claimTest_heard, if_pos hh, hk']
    exact if_pos hm

/-! ## NOP and IDENTIFY (R15, R16) -/

/-- A request without parameters that R8 exempts and that any station may send, answered with nothing else changed: with
parameters it is BAD_PARAM. -/
theorem serve_bare {f : Form} (he : f.exempt = true) (hf : f.formOk = lengthIs 0) (hro : f.roleOk = anyRole) {l : Station}
    {ps : List Byte} {s : State} (hr : (s.links.get l).state = .receiving) (h40 : ps.length ≤ 40) (d : Payload) (tag : Byte) :
    (ps = [] → serve f (fun _ _ t => ⟨.ok, d, t⟩) l tag ps s = replied f l tag ps .ok d s) ∧
    (ps ≠ [] → serve f (fun _ _ t => ⟨.ok, d, t⟩) l tag ps s = replied f l tag ps .badParam .none s) := by
  have hok : f.formOk ps = decide (ps = []) := by rw [hf]; cases ps <;> rfl
  refine ⟨fun hp => serve_replied ⟨hr, h40, .inl he, by rw [hok, decide_eq_true hp], by rw [hro]; rfl⟩ tag rfl, fun hp => ?_⟩
  exact (serve_stages hr h40 _ tag).2.1 (.inl he) (by rw [hok, decide_eq_false hp])

/-- Settles O11. -/
theorem nopIsAnsweredOk : Obligations.NopIsAnsweredOk := by
  intro l tag ps s hr h40
  obtain ⟨bare, params⟩ := serve_bare (f := Form.nop) rfl rfl rfl hr h40 .none tag
  exact ⟨fun h => congrArg Host.Outcome.next (bare h), fun h => congrArg Host.Outcome.next (params h)⟩

/-- R16: eight bytes that are all zero spell the number 0. -/
theorem eq_zero_of_bytes8 {n : Nat} (hn : n < 18446744073709551616) (h : bytes8 n = List.replicate 8 0) : n = 0 := by
  have key : ∀ m, BitVec.ofNat 8 m = 0 → m % 256 = 0 := fun m hm => by
    simpa using congrArg BitVec.toNat hm
  simp only [bytes8, bytes4, bytes3, bytes2, List.cons_append, List.nil_append, List.replicate, List.cons.injEq,
    and_true] at h
  obtain ⟨h1, h2, h3, h4, h5, h6, h7, h8⟩ := h
  have := key _ h1; have := key _ h2; have := key _ h3; have := key _ h4
  have := key _ h5; have := key _ h6; have := key _ h7; have := key _ h8
  omega

theorem unitNumber_ne_zero : Config.unitNumber ≠ 0 := by
  unfold Config.unitNumber
  split
  · decide
  · assumption

/-- Settles O12: the request as NOP, and the bytes of the identity. -/
theorem identifyGivesThePart : Obligations.IdentifyGivesThePart := by
  have hb : Payload.identity.bytes = [0x1D, 0x63, 0x1E, 0x01] ++ bytes8 Config.unitNumber.toNat := rfl
  refine ⟨fun l tag ps s hr h40 => ?_, by rw [hb]; rfl, by rw [hb]; rfl, fun h => ?_⟩
  · obtain ⟨bare, params⟩ := serve_bare (f := Form.identify) rfl rfl rfl hr h40 .identity tag
    exact ⟨fun h => congrArg Host.Outcome.next (bare h), fun h => congrArg Host.Outcome.next (params h)⟩
  · rw [hb] at h
    exact unitNumber_ne_zero (BitVec.eq_of_toNat_eq (eq_zero_of_bytes8 Config.unitNumber.isLt h))

/-! ## RELEASE_PARK and APPLY_PARK (R88, R89) -/

/-- R88: with the test passed the TG is in HOLD, else the reason stands in the answer. -/
theorem exec_releasePark {l : Station} {tag : Byte} {s : State} (h : Sent Form.releasePark l [] s)
    (hh : (s.claims.get .travel).holder = some l) (hm : s.supervision.mode ≠ .commissioning) :
    exec (.releasePark l tag []) s = .next (match releaseTest s with
      | some r => replied Form.releasePark l tag [] .refusedState (.reason r) s
      | none => { replied Form.releasePark l tag [] .ok .none s with travel := s.travel.releasePark }) := by
  have ho : claimTest .travel (commissionTest releaseParkOwner) l [] (heard Form.releasePark l tag [] s) =
      releaseParkOwner l [] (heard Form.releasePark l tag [] s) := by
    rw [claimTest_heard, if_pos hh]
    exact if_neg hm
  have ht : releaseTest (heard Form.releasePark l tag [] s) = releaseTest s := rfl
  refine congrArg Host.Outcome.next ?_
  cases hr : releaseTest s with
  | some r =>
    refine serve_replied h tag (ho.trans ?_)
    unfold releaseParkOwner
    rw [ht, hr]
    rfl
  | none =>
    have hd : releaseParkOwner l [] (heard Form.releasePark l tag [] s) =
        .ok ((heard Form.releasePark l tag [] s).modTravel Travel.releasePark) := by
      unfold releaseParkOwner
      rw [ht, hr]
    exact serve_done h tag (ho.trans hd) rfl

/-- R89: what APPLY_PARK's owner decides where the claim test has passed. -/
theorem applyPark_owner {l : Station} {tag : Byte} {s : State} (hh : (s.claims.get .travel).holder = some l) :
    claimTest .travel applyParkOwner l [] (heard Form.applyPark l tag [] s) =
      match s.travel.state with
      | .hold => if s.travel.wheelSpeed = 0 then .ok ((heard Form.applyPark l tag [] s).modTravel Travel.park)
          else .refuse .refusedState (heard Form.applyPark l tag [] s)
      | .parked => .ok (heard Form.applyPark l tag [] s)
      | _ => .refuse .refusedState (heard Form.applyPark l tag [] s) := by
  rw [claimTest_heard, if_pos hh]
  unfold applyParkOwner
  rfl

/-- Settles O36: the tests in the order of their rules, on the request as it reaches its owner. -/
theorem parkingRequests : Obligations.ParkingRequests := by
  refine ⟨fun l tag s h hh hm => ?_, fun l tag s h hh => ?_⟩
  · intro refused g
    have hx := exec_releasePark (tag := tag) h hh hm
    have hrefused : ∀ r, releaseTest s = some r → refused r := fun r hr => hx.trans (by rw [hr])
    refine ⟨fun (h1 : s.travel.state ≠ .parked) => hrefused _ ?_,
      fun (h1 : s.travel.state = .parked) (h2 : s.travel.safeStop = true) => hrefused _ ?_,
      fun (h1 : s.travel.state = .parked) (h2 : s.travel.safeStop = false) (h3 : s.travel.resetPending = true) =>
        hrefused _ ?_,
      fun (h1 : s.travel.state = .parked) (h2 : s.travel.safeStop = false) (h3 : s.travel.resetPending = false)
        (h4 : s.travel.seat = false) => hrefused _ ?_,
      fun (h1 : s.travel.state = .parked) (h2 : s.travel.safeStop = false) (h3 : s.travel.resetPending = false)
        (h4 : s.travel.seat = true) (h5 : s.travel.wheelSpeed ≠ 0) => hrefused _ ?_,
      fun (h1 : s.travel.state = .parked) (h2 : s.travel.safeStop = false) (h3 : s.travel.resetPending = false)
        (h4 : s.travel.seat = true) (h5 : s.travel.wheelSpeed = 0) => hx.trans ?_⟩
    · simp [releaseTest, h1]
    · simp [releaseTest, h1, h2]
    · simp [releaseTest, h1, h2, h3]
    · simp [releaseTest, h1, h2, h3, h4]
    · simp [releaseTest, h1, h2, h3, h4, h5]
    · rw [show releaseTest s = none by simp [releaseTest, h1, h2, h3, h4, h5]]
      rfl
  · have ho := applyPark_owner (tag := tag) hh
    refine ⟨fun h1 h2 => ?_, fun h1 h2 => ?_, fun h1 => ?_, fun h1 => ?_⟩
    · rw [h1, if_pos h2] at ho
      exact congrArg Host.Outcome.next (serve_done h tag ho rfl)
    · rw [h1, if_neg h2] at ho
      exact congrArg Host.Outcome.next (serve_replied h tag ho)
    · rw [h1] at ho
      exact congrArg Host.Outcome.next (serve_replied h tag ho)
    · rcases h1 with h1 | h1 <;> rw [h1] at ho <;> exact congrArg Host.Outcome.next (serve_replied h tag ho)

end Sys2Proof.Machine
end

section
/-! PROOFS. What an operation leaves of the arms, of the TG and of the stores, with no reaction bound. -/

namespace Sys2Proof.Machine

set_option Elab.async false

/-! ## What an operation leaves of the arms' motions, the TG's stop and the stores -/

/-- What an arm's orders and switch events decide by and set: its record but for the motion under way, its outputs and the
values it holds. -/
structure Motion where
  state : ArmState
  target : ArmTarget
  origin : Origin
  settleTimer : Timer
  pinnedTimer : Timer
  up : Bool
  down : Bool

def ArmUnit.motion (u : ArmUnit) : Motion := ⟨u.state, u.target, u.origin, u.settleTimer, u.pinnedTimer, u.up, u.down⟩

/-- What the rules of stopping (R96, R97) decide by and set in the TG's record, the setpoint apart. -/
structure Course where
  state : TravelState
  demand : Int
  causes : StopCauses
  wheelSpeed : Int
  safeStop : Bool
  resetPending : Bool

def Travel.course (g : Travel) : Course := ⟨g.state, g.demand, g.causes, g.wheelSpeed, g.safeStop, g.resetPending⟩

/-- An operation that leaves the TG's course, the Supervision Unit and the stores that a requested reset keeps, but for the
copies of the arms' states and a settled reset that becomes due. -/
structure Steady (s t : State) : Prop where
  pending : t.pending = s.pending
  reactions : t.reactions = s.reactions
  travel : t.travel.course = s.travel.course
  supervision : t.supervision = { s.supervision with armDone := t.supervision.armDone }
  water : t.water = { s.water with armDown := t.water.armDown }
  slots : ∀ n : SlotNo, (t.slot n).become .ready = (s.slot n).become .ready
  reset : t.work.reset = s.work.reset ∨ t.work.reset = some (.settled false)

/-- A steady operation that makes no report: the copies stand, no reset becomes due, and every arm but the one excepted
keeps its motion. -/
structure Calm (x : Option Arm) (s t : State) : Prop where
  pending : t.pending = s.pending
  reactions : t.reactions = s.reactions
  travel : t.travel.course = s.travel.course
  supervision : t.supervision = s.supervision
  water : t.water = s.water
  slots : ∀ n : SlotNo, (t.slot n).become .ready = (s.slot n).become .ready
  reset : t.work.reset = s.work.reset
  arms : ∀ b, x ≠ some b → (t.arm b).motion = (s.arm b).motion

/-- STOWED or FAULT: what the Supervision Unit's copy says (R112). -/
def ArmState.settled (st : ArmState) : Bool := st == .stowed || st == .fault

/-- The test of R185 over a state and a copy of the arms' states. -/
def State.resetRipe (s : State) (done : ArmSet) : Bool :=
  s.supervision.pendingReset.isSome && s.travel.state == .parked && PerArm.allSet done

/-- Arm a has come to the motion m and has reported it (R112, R185); the other arms keep theirs. -/
structure Moves (a : Arm) (m : Motion) (s t : State) : Prop extends Steady s t where
  arm : (t.arm a).motion = m
  others : ∀ b, b ≠ a → (t.arm b).motion = (s.arm b).motion
  done : t.supervision.armDone = s.supervision.armDone.set a m.state.settled
  ripe : t.work.reset = if m.state.settled && s.resetRipe (s.supervision.armDone.set a true) then some (.settled false)
    else s.work.reset

theorem Steady.refl (s : State) : Steady s s := ⟨rfl, rfl, rfl, rfl, rfl, fun _ => rfl, .inl rfl⟩

theorem Steady.trans {s t u : State} (h : Steady s t) (k : Steady t u) : Steady s u where
  pending := k.pending.trans h.pending
  reactions := k.reactions.trans h.reactions
  travel := k.travel.trans h.travel
  supervision := by have e := k.supervision; rw [h.supervision] at e; exact e
  water := by have e := k.water; rw [h.water] at e; exact e
  slots n := (k.slots n).trans (h.slots n)
  reset := by
    rcases k.reset with e | e
    · rw [e]; exact h.reset
    · exact .inr e

theorem Steady.unbound {s t : State} (h : Steady s t) (hn : NoReactions s) : NoReactions t := fun e => by
  rw [h.reactions]; exact hn e

theorem Steady.items {s t : State} (h : Steady s t) : t.supervision.items = s.supervision.items := by rw [h.supervision]
theorem Steady.pendingReset {s t : State} (h : Steady s t) :
    t.supervision.pendingReset = s.supervision.pendingReset := by rw [h.supervision]
theorem Steady.state {s t : State} (h : Steady s t) : t.travel.state = s.travel.state := congrArg Course.state h.travel

theorem Calm.refl (x : Option Arm) (s : State) : Calm x s s := ⟨rfl, rfl, rfl, rfl, rfl, fun _ => rfl, rfl, fun _ _ => rfl⟩

theorem Calm.trans {x : Option Arm} {s t u : State} (h : Calm x s t) (k : Calm x t u) : Calm x s u where
  pending := k.pending.trans h.pending
  reactions := k.reactions.trans h.reactions
  travel := k.travel.trans h.travel
  supervision := k.supervision.trans h.supervision
  water := k.water.trans h.water
  slots n := (k.slots n).trans (h.slots n)
  reset := k.reset.trans h.reset
  arms b hb := (k.arms b hb).trans (h.arms b hb)

theorem Calm.to {x : Option Arm} {s t : State} (h : Calm none s t) : Calm x s t :=
  { h with arms := fun b _ => h.arms b nofun }

theorem Calm.steady {x : Option Arm} {s t : State} (h : Calm x s t) : Steady s t :=
  ⟨h.pending, h.reactions, h.travel, by rw [h.supervision], by rw [h.water], h.slots, .inl h.reset⟩

theorem Calm.unbound {x : Option Arm} {s t : State} (h : Calm x s t) (hn : NoReactions s) : NoReactions t :=
  h.steady.unbound hn

/-- A motion is reported from a state that differs only in that arm's record. -/
theorem Calm.moves {a : Arm} {m : Motion} {s t u : State} (h : Calm (some a) s t) (k : Moves a m t u) : Moves a m s u where
  toSteady := h.steady.trans k.toSteady
  arm := k.arm
  others b hb := (k.others b hb).trans (h.arms b fun e => hb (Option.some.inj e).symm)
  done := by rw [k.done, h.supervision]
  ripe := by
    have hst : t.travel.state = s.travel.state := h.steady.state
    rw [k.ripe, h.reset, h.supervision]
    unfold State.resetRipe
    rw [h.supervision, hst]

/-- A calm operation behind a reported motion. -/
theorem Moves.calm {a : Arm} {m : Motion} {s t u : State} (h : Moves a m s t) (k : Calm none t u) : Moves a m s u where
  toSteady := h.toSteady.trans k.steady
  arm := (k.arms a nofun).trans h.arm
  others b hb := (k.arms b nofun).trans (h.others b hb)
  done := by rw [k.supervision, h.done]
  ripe := by rw [k.reset, h.ripe]

/-! ## Calm operations: one block changed -/

theorem Calm.modTravel (s : State) (f : Travel → Travel) (h : (f s.travel).course = s.travel.course := by rfl) :
    Calm none s (s.modTravel f) := { Calm.refl none s with travel := h }

theorem Calm.modSpray (s : State) (f : Spray → Spray) : Calm none s (s.modSpray f) := { Calm.refl none s with }
theorem Calm.modFlow (s : State) (f : Flow → Flow) : Calm none s (s.modFlow f) := { Calm.refl none s with }
theorem Calm.modNotices (s : State) (f : PerStation StationNotices → PerStation StationNotices) :
    Calm none s (s.modNotices f) := { Calm.refl none s with }

theorem Calm.modWork (s : State) (f : Work → Work) (h : (f s.work).reset = s.work.reset := by rfl) :
    Calm none s (s.modWork f) := { Calm.refl none s with reset := h }

theorem Calm.modProfile (s : State) (f : Profiles → Profiles)
    (h : ∀ n : SlotNo, ((f s.profile).slots[n]).become .ready = (s.profile.slots[n]).become .ready := by exact fun _ => rfl) :
    Calm none s (s.modProfile f) := { Calm.refl none s with slots := h }

theorem Calm.modArm (s : State) (a : Arm) (f : ArmUnit → ArmUnit)
    (h : (f (s.arm a)).motion = (s.arm a).motion := by rfl) : Calm none s (s.modArm a f) :=
  { Calm.refl none s with
    arms := fun b _ => by
      rw [State.arm_modArm]
      split
      · rename_i e; rw [h, e]
      · rfl }

theorem Calm.modArmBut (s : State) (a : Arm) (f : ArmUnit → ArmUnit) : Calm (some a) s (s.modArm a f) :=
  { Calm.refl (some a) s with
    arms := fun b hb => by rw [State.arm_modArm, if_neg fun e => hb (by rw [e])] }

theorem Calm.needRealloc (s : State) : Calm none s s.needRealloc := Calm.modWork s _
theorem Calm.needCeiling (s : State) : Calm none s s.needCeiling := Calm.modWork s _

theorem Calm.foldl {α : Type} (l : List α) (f : State → α → State) (hf : ∀ u a, Calm none u (f u a)) (s : State) :
    Calm none s (l.foldl f s) := by
  induction l generalizing s with
  | nil => exact .refl _ _
  | cons a l ih => exact (hf s a).trans (ih (f s a))

/-- A delivery changes notices alone (R167). -/
theorem Calm.deliver (r : Raise) (c : Option Completion) (s : State) : Calm none s (deliver r c s) := Calm.modNotices s _

theorem Plainly.calm {raise : Raiser} (hr : Plainly raise) {s : State} (hn : NoReactions s) (r : Raise) :
    Calm none s (raise r s) := by
  rw [hr r s hn]
  exact Calm.deliver r none s

/-! ## Calm operations: the Flow Arbiter, the Spray Unit, the Arm Units -/

theorem Calm.postRotation (a : Arm) (d : Nat) (s : State) : Calm none s (postRotation a d s) := by
  unfold Sys2Proof.Machine.postRotation
  split
  · exact .refl _ _
  · exact (Calm.modFlow s _).trans (Calm.needRealloc _)

theorem Calm.postPump (d : Nat) (s : State) : Calm none s (postPump d s) := by
  unfold Sys2Proof.Machine.postPump
  split
  · exact .refl _ _
  · exact (Calm.modFlow s _).trans (Calm.needRealloc _)

theorem Calm.postLift (a : Arm) (s : State) : Calm none s (postLift a s) := by
  unfold Sys2Proof.Machine.postLift
  have h := Calm.modArm s a (fun u => { u with liftPosted := true })
  dsimp only
  split
  · exact ((h.trans (Calm.modFlow _ _)).trans (Calm.modWork _ _)).trans (Calm.needRealloc _)
  · exact h

theorem Calm.withdrawLift (a : Arm) (s : State) : Calm none s (withdrawLift a s) := by
  unfold Sys2Proof.Machine.withdrawLift
  have h := Calm.modArm s a (fun u => { u with liftPosted := false, liftGrant := 0 })
  dsimp only
  split
  · exact h
  · exact ((h.trans (Calm.modFlow _ _)).trans (Calm.modWork _ _)).trans (Calm.needRealloc _)

theorem ArmUnit.stallTest_motion (u : ArmUnit) (m n : Nat) : (u.stallTest m n).motion = u.motion := by
  obtain ⟨x, y, h⟩ := ArmUnit.stallTest_rest u m n
  rw [h]
  rfl

theorem ArmUnit.refresh_motion (u : ArmUnit) (a b c : Nat) : (u.refresh a b c).motion = u.motion := by
  unfold ArmUnit.refresh
  dsimp only
  split
  · rfl
  · exact ArmUnit.stallTest_motion _ _ _

theorem Calm.refreshArm (a : Arm) (s : State) : Calm none s (refreshArm a s) :=
  (Calm.modArm s a _ (ArmUnit.refresh_motion _ _ _ _)).trans (Calm.postRotation _ _ _)

theorem Calm.evaluateZones (s : State) : Calm none s (evaluateZones s) :=
  (Calm.modSpray s _).trans (Calm.postPump _ _)

theorem Calm.sprayTakesArm (a : Arm) (st : ArmState) (s : State) : Calm none s (sprayTakesArm a st s) :=
  (Calm.modSpray s _).trans (Calm.evaluateZones _)

theorem Calm.awaitFlow (a : Arm) (s : State) : Calm none s (awaitFlow a s) :=
  (Calm.modArm s a _).trans (Calm.postLift a _)

theorem Calm.armTakesSpeed (v : Int) (a : Arm) (s : State) : Calm none s (armTakesSpeed v a s) := by
  have h := Calm.modArm s a (fun u => { u with wheelSpeed := v })
  unfold Sys2Proof.Machine.armTakesSpeed
  dsimp only
  split
  · exact (h.trans (Calm.awaitFlow a _)).trans (Calm.refreshArm a _)
  · exact h.trans (Calm.refreshArm a _)

theorem Calm.sprayTakesSpeed (v : Int) (s : State) : Calm none s (sprayTakesSpeed v s) :=
  (Calm.modSpray s _).trans (Calm.evaluateZones _)

/-- With nothing bound an arm's reaction completes without a delivery (R177). -/
theorem Calm.endReaction {s : State} (hn : NoReactions s) (a : Arm) (o : ActionOutcome) :
    Calm none s (endReaction a o s) := by
  unfold Sys2Proof.Machine.endReaction
  split
  · rename_i e _
    have h := Calm.modArm s a (fun u => { u with reaction := none })
    rw [show complete e o (s.modArm a fun u => { u with reaction := none }) = s.modArm a fun u => { u with reaction := none } from
      completeWith_plain (h.unbound hn) e o _]
    exact h
  · exact .refl _ _

theorem Calm.raiseArm {raise : Raiser} (hr : Plainly raise) {s : State} (hn : NoReactions s) (a : Arm)
    (factors : List (ArmUnit → Detail)) : Calm none s (raiseArm raise a factors s) := by
  unfold Sys2Proof.Machine.raiseArm
  induction factors generalizing s with
  | nil => exact .refl _ _
  | cons d l ih =>
    have h := hr.calm hn (s.raiseOf (.arm a) (d (s.arm a)))
    exact h.trans (ih (h.unbound hn))

/-! ## Calm operations: the Profile Unit -/

/-- R40: what a move of slots leaves of a slot but for its use. -/
theorem State.moveSlots_ready (s : State) (u v : SlotUse) (n : SlotNo) :
    ((s.moveSlots u v).slot n).become .ready = (s.slot n).become .ready := by
  rw [State.moveSlots_slot]
  cases s.slot n <;> rfl

theorem Calm.moveSlots (s : State) (u v : SlotUse) : Calm none s (s.moveSlots u v) :=
  { Calm.refl none s with slots := s.moveSlots_ready u v }

theorem Calm.endSlots (k : ChangeKind) (s : State) : Calm none s (endSlots k s) := by
  cases k
  case select => exact (Calm.moveSlots _ _ _).trans (Calm.moveSlots _ _ _)
  case toTransport => exact Calm.moveSlots _ _ _
  case reapply => exact .refl _ _
  case abortReturn => exact (Calm.moveSlots _ _ _).trans (Calm.moveSlots _ _ _)

theorem Calm.armTakesValues (v : Values) (a : Arm) (s : State) : Calm none s (armTakesValues v a s) :=
  (Calm.modArm s a _).trans (Calm.refreshArm a _)

theorem Calm.handValues (s : State) : Calm none s (handValues s) :=
  (((((Calm.modTravel s _).trans (Calm.needCeiling _)).trans (Calm.armTakesValues _ _ _)).trans
    (Calm.armTakesValues _ _ _)).trans (Calm.armTakesValues _ _ _)).trans
      ((Calm.modSpray _ _).trans (Calm.evaluateZones _))

theorem Calm.completeIfDone {raise : Raiser} (hr : Plainly raise) {s : State} (hn : NoReactions s) :
    Calm none s (completeIfDone raise s) := by
  unfold Sys2Proof.Machine.completeIfDone
  split
  · rename_i c _
    split
    · exact .refl _ _
    · split
      · have h : Calm none s (Sys2Proof.Machine.handValues (Sys2Proof.Machine.endSlots c.kind s).dropRecord) :=
          ((Calm.endSlots c.kind s).trans (Calm.modProfile _ _)).trans (Calm.handValues _)
        exact h.trans (hr.calm (h.unbound hn) _)
      · exact .refl _ _
  · exact .refl _ _

theorem Calm.changeoverProgress {raise : Raiser} (hr : Plainly raise) {s : State} (hn : NoReactions s) (a : Arm)
    (st : ArmState) : Calm none s (changeoverProgress raise a st s) := by
  unfold Sys2Proof.Machine.changeoverProgress
  split
  · exact .refl _ _
  · split
    · exact .refl _ _
    · split
      · exact (Calm.modProfile s _).trans (Calm.completeIfDone hr (s := s.modProfile _) hn)
      · exact .refl _ _

theorem Calm.overtake (a : Arm) (s : State) : Calm none s (overtake a s) := by
  unfold Sys2Proof.Machine.overtake
  split
  · exact .refl _ _
  · split
    · exact .refl _ _
    · exact Calm.modProfile s _

/-! ## The report of an arm's motion (R112) -/

theorem Calm.travelTakesArm (a : Arm) (stowed moving : Bool) (s : State) : Calm none s (travelTakesArm a stowed moving s) := by
  have h0 : Calm none s (s.modTravel fun g =>
      { g with armStowed := g.armStowed.set a stowed, armMoving := g.armMoving.set a moving }) := Calm.modTravel s _
  unfold Sys2Proof.Machine.travelTakesArm
  dsimp only
  generalize hu : (if (s.travel.armMoving.get a != moving) = true then _ else _ : State) = t
  have h : Calm none s t := by
    rw [← hu]
    split
    · exact h0.trans (Calm.needCeiling _)
    · exact h0
  split
  · split
    · exact (h.trans (Calm.modTravel t _)).trans (Calm.modWork _ _)
    · exact h.trans (Calm.modTravel t _)
  · exact h.trans (Calm.modTravel t _)

/-- R185: the test makes a settled reset due, and does no more. -/
theorem settledTest_eq (s : State) : settledTest s =
    s.modWork fun w => { w with reset := if s.resetRipe s.supervision.armDone then some (.settled false) else w.reset } := by
  unfold settledTest State.resetRipe
  split
  · rfl
  · rfl

/-- The Supervision Unit takes a report: its copy, and the test of R185 where the arm has settled. -/
theorem superTakesArm_eq (a : Arm) (st : ArmState) (s : State) : superTakesArm a st s =
    (s.modSupervision fun v => { v with armDone := v.armDone.set a st.settled }).modWork fun w =>
      { w with reset := if st.settled && s.resetRipe (s.supervision.armDone.set a true) then some (.settled false)
        else w.reset } := by
  show (if st.settled = true then settledTest (s.modSupervision fun v => { v with armDone := v.armDone.set a st.settled })
    else s.modSupervision fun v => { v with armDone := v.armDone.set a st.settled }) = _
  cases st.settled
  · rfl
  · exact settledTest_eq _

/-- R112: an arm's report, with no reaction bound, of the motion it stands in. -/
theorem reportArm_moves {raise : Raiser} (hr : Plainly raise) {s : State} (hn : NoReactions s) (a : Arm) (st : ArmState) :
    Moves a (s.arm a).motion s (reportArm raise a st s) := by
  have h1 := Calm.travelTakesArm a ((s.arm a).state == .stowed) ((s.arm a).state == .lowering || (s.arm a).state == .raising) s
  unfold reportArm
  dsimp only
  generalize travelTakesArm a _ _ s = t1 at h1
  have h2 := h1.trans (Calm.sprayTakesArm a (t1.arm a).state t1)
  generalize sprayTakesArm a (t1.arm a).state t1 = t2 at h2
  have hst : (t2.arm a).state = (s.arm a).state := congrArg Motion.state (h2.arms a nofun)
  have key : Moves a (s.arm a).motion t2 (superTakesArm a (t2.arm a).state (waterTakesArm a (t2.arm a).state t2)) := by
    rw [superTakesArm_eq, hst]
    exact
      { pending := rfl, reactions := rfl, travel := rfl, supervision := rfl, water := rfl, slots := fun _ => rfl
        reset := by
          show (if _ then _ else _) = _ ∨ (if _ then _ else _) = _
          split
          · exact .inr rfl
          · exact .inl rfl
        arm := h2.arms a nofun
        others := fun _ _ => rfl
        done := rfl
        ripe := rfl }
  exact (h2.to.moves key).calm (Calm.changeoverProgress hr ((h2.steady.trans key.toSteady).unbound hn) a st)

/-- R112: a change of an arm's record announced, with no reaction bound. -/
theorem announce_moves {raise : Raiser} (hr : Plainly raise) {s : State} (hn : NoReactions s) (a : Arm) (st : ArmState)
    (factors : List (ArmUnit → Detail)) (outcome : Option ActionOutcome) :
    Moves a (s.arm a).motion s (announce raise a st factors outcome s) := by
  have h1 := Calm.refreshArm a s
  have h2 := h1.trans (Calm.raiseArm hr (h1.unbound hn) a factors)
  have h3 : Calm none s (match outcome with
      | some o => endReaction a o (raiseArm raise a factors (refreshArm a s))
      | none => raiseArm raise a factors (refreshArm a s)) := by
    cases outcome with
    | some o => exact h2.trans (Calm.endReaction (h2.unbound hn) a o)
    | none => exact h2
  have h4 := h3.to.moves (reportArm_moves hr (h3.unbound hn) a st)
  rw [h3.arms a nofun] at h4
  exact h4

end Sys2Proof.Machine
end

section
/-! PROOFS. The motions of one arm as values, and the operations that bring an arm to them. -/

namespace Sys2Proof.Machine

set_option Elab.async false

/-! ## The motions of one arm, with no reaction bound (R118, R119, R122, R123) -/

/-- An arm's motion that has ended at UP (R119). -/
def Motion.stow (m : Motion) : Motion := { m with state := .stowed, origin := .none }

/-- An arm's motion upward for a cause, where UP is clear (R118, R122). -/
def Motion.raise (m : Motion) (o : Origin) : Motion := { m with state := .raising, target := .stowed, origin := o }

/-- An arm's motion after RAISE for a cause, by its state (R115, R118, R122): it keeps STOWED, RAISING and FAULT; entered
from any state but LOWERING it also stops the settle and pinned timers. -/
def Motion.takeRaise (m : Motion) (o : Origin) : Motion :=
  match m.state with
  | .stowed => m
  | .raising => m
  | .fault => m
  | .lowering => if m.up then { m with target := .stowed }.stow else { m with target := .stowed }.raise o
  | _ =>
    let n := { m with settleTimer := .stopped, pinnedTimer := .stopped, target := .stowed }
    if m.up then n.stow else n.raise o

theorem PerArm.allSet_iff (p : ArmSet) : PerArm.allSet p = true ↔ ∀ a, p.get a = true := by
  unfold PerArm.allSet
  simp only [Bool.and_eq_true]
  exact ⟨fun ⟨⟨hl, hr⟩, hc⟩ a => by cases a <;> assumption, fun h => ⟨⟨h .l, h .r⟩, h .c⟩⟩

section
variable {raise : Raiser} (hr : Plainly raise) {s : State} (hn : NoReactions s) (a : Arm)
include hr hn

/-- A change of one arm's record, announced. -/
theorem modArm_announce_moves (f : ArmUnit → ArmUnit) (st : ArmState) (factors : List (ArmUnit → Detail))
    (outcome : Option ActionOutcome) :
    Moves a (f (s.arm a)).motion s (announce raise a st factors outcome (s.modArm a f)) := by
  have h := announce_moves (s := s.modArm a f) hr hn a st factors outcome
  rw [State.arm_modArm, if_pos rfl] at h
  exact (Calm.modArmBut s a f).moves h

theorem endRaising_moves (factors : List (ArmUnit → Detail)) :
    Moves a (s.arm a).motion.stow s (endRaising raise a factors s) := by
  have h := Calm.withdrawLift a s
  have k := modArm_announce_moves hr (h.unbound hn) a (fun u =>
    { u with state := .stowed, sub := .none, motionTimer := .stopped, origin := .none }) .stowed
    ((fun _ => .armSettled .stowed (s.arm a).origin) :: factors) (some .stowed)
  rw [show ({ (withdrawLift a s).arm a with state := .stowed, sub := .none, motionTimer := .stopped, origin := .none } :
    ArmUnit).motion = ((withdrawLift a s).arm a).motion.stow from rfl, h.arms a nofun] at k
  exact h.to.moves k

theorem faultArm_moves (c : FaultCause) :
    Moves a { (s.arm a).motion with state := .fault, origin := .none, settleTimer := .stopped, pinnedTimer := .stopped } s
      (faultArm raise a c s) := by
  have h := Calm.withdrawLift a s
  have k := modArm_announce_moves hr (h.unbound hn) a (fun u => { u.stopAll with state := .fault, fault := c }) .fault
    [fun _ => .armFault c (s.arm a).state (s.arm a).origin] (some .faulted)
  rw [show ({ ((withdrawLift a s).arm a).stopAll with state := .fault, fault := c } : ArmUnit).motion =
    { ((withdrawLift a s).arm a).motion with
      state := .fault, origin := .none, settleTimer := .stopped, pinnedTimer := .stopped } from rfl, h.arms a nofun] at k
  exact h.to.moves k

/-- A motion upward is entered, and at UP has ended at once (R118, R122). -/
theorem stowed_or_raising {t : State} (h : Calm (some a) s t) {n : Motion} (hm : (t.arm a).motion = n)
    (hup : n.target = .stowed) (factors more : List (ArmUnit → Detail)) (f : State → State)
    (hf : Calm none (t.modArm a fun u => { u with state := .raising })
      (f (t.modArm a fun u => { u with state := .raising }))) :
    Moves a (if n.up then n.stow else n.raise n.origin) s
      (if (t.arm a).up then endRaising raise a factors t
        else announce raise a .raising more none (f (t.modArm a fun u => { u with state := .raising }))) := by
  rw [show n.up = (t.arm a).up from (congrArg Motion.up hm).symm]
  split
  · have k := endRaising_moves hr (h.unbound hn) a factors
    rw [hm] at k
    exact h.moves k
  · have h1 := (h.trans (Calm.modArmBut t a fun u => { u with state := .raising })).trans hf.to
    have k := announce_moves hr (h1.unbound hn) a .raising more none
    have e : ((f (t.modArm a fun u => { u with state := .raising })).arm a).motion = n.raise n.origin := by
      rw [hf.arms a nofun, State.arm_modArm, if_pos rfl, Motion.raise, ← hup, ← hm]
      rfl
    rw [e] at k
    exact h1.moves k

theorem enterRaising_moves (o : Origin) (factors : List (ArmUnit → Detail)) :
    let n := { (s.arm a).motion with settleTimer := .stopped, pinnedTimer := .stopped, target := .stowed }
    Moves a (if n.up then n.stow else n.raise o) s (enterRaising raise a o factors s) := by
  have h := Calm.modArmBut s a fun u =>
    { u with target := .stowed, origin := o, motionTimer := .stopped, settleTimer := .stopped, pinnedTimer := .stopped }
  exact stowed_or_raising hr hn a h (congrArg ArmUnit.motion ((State.arm_modArm ..).trans (if_pos rfl))) rfl factors factors
    (awaitFlow a) (Calm.awaitFlow a _)

theorem reverseToRaising_moves (o : Origin) :
    let n := { (s.arm a).motion with target := .stowed }
    Moves a (if n.up then n.stow else n.raise o) s (reverseToRaising raise a o s) := by
  have h := Calm.modArmBut s a fun u => { u with target := .stowed, origin := o, motionTimer := .stopped }
  refine stowed_or_raising hr hn a h (congrArg ArmUnit.motion ((State.arm_modArm ..).trans (if_pos rfl))) rfl [] []
    (fun t => if (t.arm a).sub == .moving then t.modArm a fun u => { u with motionTimer := .running (s.item 9) }
      else awaitFlow a t) ?_
  split
  · exact Calm.modArm _ a _
  · exact Calm.awaitFlow a _

/-- RAISE by the arm's state: it keeps its motion, or comes to the one R115 gives and reports it. -/
theorem takeRaise_moves (o : Origin) : takeRaise raise a o s = s ∧ (s.arm a).motion.takeRaise o = (s.arm a).motion ∨
    Moves a ((s.arm a).motion.takeRaise o) s (takeRaise raise a o s) := by
  have hs : (s.arm a).motion.state = (s.arm a).state := rfl
  unfold takeRaise Motion.takeRaise
  rw [hs]
  cases (s.arm a).state
  case stowed | raising | fault => exact .inl ⟨rfl, rfl⟩
  case lowering => exact .inr (reverseToRaising_moves hr hn a o)
  case working | deflected | halted => exact .inr (enterRaising_moves hr hn a o [])

/-- An arm's motion after a stow order; `can` says that its items are written (R125). -/
def Motion.ordered (can : Bool) (m : Motion) : Motion := if can then m.takeRaise .stowOrder else m

/-- A stow order: the arm comes to the motion that R125 gives, the others keep theirs. Where a settled reset becomes due
the arm has settled and every other has. -/
theorem stowOrder_steady : Steady s (stowOrder raise a s) ∧
    ((stowOrder raise a s).arm a).motion = (s.arm a).motion.ordered (s.canRaise a) ∧
    (∀ b, b ≠ a → ((stowOrder raise a s).arm b).motion = (s.arm b).motion) ∧
    ((stowOrder raise a s).work.reset = s.work.reset ∨
      s.travel.state = .parked ∧ ((stowOrder raise a s).arm a).state.settled = true ∧
        ∀ b, b ≠ a → s.supervision.armDone.get b = true) := by
  have h := Calm.overtake a s
  have hm : ((overtake a s).arm a).motion = (s.arm a).motion := h.arms a nofun
  have hc : (overtake a s).canRaise a = s.canRaise a := State.canRaise_congr (by rw [h.supervision]) a
  have stays : (s.arm a).motion.ordered (s.canRaise a) = (s.arm a).motion → stowOrder raise a s = overtake a s →
      Steady s (stowOrder raise a s) ∧ ((stowOrder raise a s).arm a).motion = (s.arm a).motion.ordered (s.canRaise a) ∧
      (∀ b, b ≠ a → ((stowOrder raise a s).arm b).motion = (s.arm b).motion) ∧
      ((stowOrder raise a s).work.reset = s.work.reset ∨
        s.travel.state = .parked ∧ ((stowOrder raise a s).arm a).state.settled = true ∧
          ∀ b, b ≠ a → s.supervision.armDone.get b = true) := fun ho he => by
    rw [he, ho]
    exact ⟨h.steady, hm, fun b _ => h.arms b nofun, .inl h.reset⟩
  by_cases can : s.canRaise a = true
  · have he : stowOrder raise a s = takeRaise raise a .stowOrder (overtake a s) := by
      unfold stowOrder
      exact if_pos (hc.trans can)
    have ho : (s.arm a).motion.ordered (s.canRaise a) = ((overtake a s).arm a).motion.takeRaise .stowOrder := by
      unfold Motion.ordered
      rw [if_pos can, hm]
    rcases takeRaise_moves hr (h.unbound hn) a .stowOrder with ⟨k1, k2⟩ | k
    · exact stays (ho.trans (k2.trans hm)) (he.trans k1)
    · have k := h.to.moves k
      rw [← he, ← ho] at k
      refine ⟨k.toSteady, k.arm, k.others, ?_⟩
      rw [k.ripe]
      split
      · rename_i hripe
        simp only [State.resetRipe, Bool.and_eq_true, beq_iff_eq] at hripe
        obtain ⟨hset, ⟨_, hp⟩, hall⟩ := hripe
        refine .inr ⟨hp, (congrArg ArmState.settled (congrArg Motion.state k.arm)).trans hset, fun b hb => ?_⟩
        have e := PerArm.get_set s.supervision.armDone a b true
        rw [if_neg hb] at e
        rw [← e]
        exact (PerArm.allSet_iff _).1 hall b
      · exact .inl rfl
  · refine stays (if_neg can) ?_
    unfold stowOrder
    exact if_neg (by rw [hc]; exact can)

end

end Sys2Proof.Machine
end

section
/-! PROOFS. The end of an event, and the reset that a station asked for. -/

namespace Sys2Proof.Machine

set_option Elab.async false

/-! ## The end of an event, with no reaction bound -/

/-- What the end of an event leaves but for what it has still to do is calm where no reset becomes due. -/
theorem Ended.calm {s t : State} (h : Ended s t) (hw : t.work.reset = s.work.reset) : Calm none s t where
  pending := h.pending
  reactions := h.reactions
  travel := by rw [h.travel]; rfl
  supervision := h.supervision
  water := h.water
  slots n := by rw [State.slot, State.slot, h.profile]
  reset := hw
  arms b _ := by rw [h.arms b]; rfl

theorem Calm.raiseAll {raise : Raiser} (hr : Plainly raise) {s : State} (hn : NoReactions s) (l : List Raise) :
    Calm none s (raiseAll raise l s) := by
  induction l generalizing s with
  | nil => exact .refl _ _
  | cons r l ih =>
    have h := hr.calm hn r
    exact h.trans (ih (h.unbound hn))

theorem reallocate_reset (s : State) : (reallocate s).1.work.reset = s.work.reset := by
  have hq : ∀ u : State, (orderPosted u).work.reset = u.work.reset := fun u => by
    unfold orderPosted
    dsimp only
    split <;> rfl
  have ho : ∀ (w : Bool) (u : State), (handOffer w u).work.reset = u.work.reset := fun w u => by
    unfold handOffer
    split
    · dsimp only
      split <;> rfl
    · split <;> rfl
  show (handOffer s.flow.short2 (setShortFlags (postGrants ((orderPosted
    (s.modWork fun w => { w with realloc := false })).modFlow Flow.settle)))).work.reset = _
  rw [ho]
  show (orderPosted (s.modWork fun w => { w with realloc := false })).work.reset = _
  rw [hq]
  rfl

theorem Calm.reallocPass {raise : Raiser} (hr : Plainly raise) {s : State} (hn : NoReactions s) :
    Calm none s (reallocPass raise s) := by
  have h := (Ended.reallocate s).calm (reallocate_reset s)
  exact h.trans (Calm.raiseAll hr (h.unbound hn) _)

theorem Calm.ceilingCheck {raise : Raiser} (hr : Plainly raise) {s : State} (hn : NoReactions s) :
    Calm none s (ceilingCheck raise s) := by
  refine (Ended.ceilingCheck hr hn).calm ?_
  by_cases hc : s.work.ceiling = true
  · rw [ceilingCheck_raise hr hn hc]
    split <;> rfl
  · unfold Sys2Proof.Machine.ceilingCheck
    rw [if_neg hc]

theorem Calm.settlePass {raise : Raiser} (hr : Plainly raise) {s : State} (hn : NoReactions s) :
    Calm none s (settlePass raise s) := by
  unfold Sys2Proof.Machine.settlePass
  split
  · split
    · exact Calm.reallocPass hr hn
    · have h := Calm.ceilingCheck hr hn
      exact h.trans (Calm.reallocPass hr (h.unbound hn))
  · exact Calm.ceilingCheck hr hn

theorem Calm.settle (n : Nat) {s : State} (hn : NoReactions s) : Calm none s (settle n s) := by
  induction n generalizing s with
  | zero =>
    have hp : Plainly deliverPlain := fun _ _ _ => rfl
    unfold Sys2Proof.Machine.settle
    split
    · have h := Calm.reallocPass hp hn
      exact h.trans (Calm.ceilingCheck hp (h.unbound hn))
    · exact Calm.ceilingCheck hp hn
  | succ n ih =>
    unfold Sys2Proof.Machine.settle
    split
    · have h := Calm.settlePass raiseFactor_plainly hn
      exact h.trans (ih (h.unbound hn))
    · exact .refl _ _

theorem Calm.raiseBlocked {raise : Raiser} (hr : Plainly raise) {s : State} (hn : NoReactions s) :
    Calm none s (raiseBlocked raise s) := by
  unfold Sys2Proof.Machine.raiseBlocked
  split
  · have h := Calm.modWork s (fun w => { w with blocked := none })
    exact h.trans (hr.calm (h.unbound hn) _)
  · exact .refl _ _

theorem Calm.deliverReached {s : State} (hn : NoReactions s) : Calm none s (deliverReached s) := by
  unfold Sys2Proof.Machine.deliverReached
  rw [freeReached_plain hn]
  exact (Calm.modWork s _).trans (Calm.foldl _ _ (fun u (p : EntryNo × Raise) => Calm.deliver p.2 _ u) _)

/-- With no reaction bound what an event leaves to its end moves no arm, stops nothing and makes no reset due. -/
theorem Calm.settleAll {s : State} (hn : NoReactions s) : Calm none s (settleAll s) := by
  have h := Calm.raiseBlocked raiseFactor_plainly hn
  have h' := h.trans (Calm.settle 16 (h.unbound hn))
  exact h'.trans (Calm.deliverReached (h'.unbound hn))

/-- With nothing left to do but a reset, the end of an event changes nothing before it. -/
theorem settleAll_idle {s : State} {r : Option ResetKind} (h : s.work = { Work.clear with reset := r }) :
    settleAll s = s := by
  have hb : raiseBlocked raiseFactor s = s := by unfold raiseBlocked; rw [h]; rfl
  have hl : settle 16 s = s := by
    show (if s.work.left = true then _ else s) = s
    rw [h]
    rfl
  have hf : freeReached s = s := by unfold freeReached; rw [h]; rfl
  have hw : (s.modWork fun w => { w with reached := [] }) = s := by
    have e : { s.work with reached := [] } = s.work := by rw [h]; rfl
    show { s with work := { s.work with reached := [] } } = s
    rw [e]
  unfold settleAll deliverReached
  rw [hb, hl, hf, hw, h]
  rfl

/-- An event that has led to a reset ends with it (R184, R185). -/
theorem finish_reset {s : State} {k : ResetKind} (h : (settleAll s).work.reset = some k) :
    finish s = afterReset k (settleAll s) := by
  unfold finish
  simp only [h]

/-! ## What a reset asked for by a station leaves (R186, R187) -/

/-- What a requested reset keeps of the part, the reset-cause records and the queue of commands with it. -/
structure Preserved (s u : State) : Prop where
  pending : u.pending = s.pending
  items : u.supervision.items = s.supervision.items
  committed : u.supervision.committed = s.supervision.committed
  resetCauses : u.supervision.resetCauses = s.supervision.resetCauses
  slots : ∀ n : SlotNo, (u.slot n).become .ready = (s.slot n).become .ready
  water : u.water = { s.water with armDown := u.water.armDown }
  reactions : u.reactions = s.reactions

theorem Steady.preserved {s t : State} (h : Steady s t) : Preserved s t :=
  ⟨h.pending, h.items, by rw [h.supervision], by rw [h.supervision], h.slots, h.water, h.reactions⟩

/-- R186: the reset after which the stores stand so. -/
def requestedReset : Option Bool → ResetKind
  | none => .immediate
  | some late => .settled late

theorem requestedReset_keeps (o : Option Bool) : (requestedReset o).keeps = true := by cases o <;> rfl

theorem Preserved.afterRequest {s u : State} (h : Preserved s u) (o : Option Bool) :
    AfterRequest o s (afterReset (requestedReset o) u) := by
  have hk := requestedReset_keeps o
  have hv : (afterReset (requestedReset o) u).supervision = { Supervision.reset with
      items := u.supervision.items, committed := u.supervision.committed
      resetCauses := u.supervision.resetCauses.map (·.after (requestedReset o)) } := by
    show superAfterReset _ _ = _
    unfold superAfterReset
    exact if_pos hk
  have hw : (afterReset (requestedReset o) u).water = { u.water with armDown := .all false, low := false, full := false } := by
    show waterAfterReset _ _ = _
    unfold waterAfterReset
    exact if_pos hk
  have hp : (afterReset (requestedReset o) u).profile =
      { Profiles.reset with slots := u.profile.slots.map (Slot.become .ready) } := by
    show profileAfterReset _ _ = _
    unfold profileAfterReset
    exact if_pos hk
  have hx : (afterReset (requestedReset o) u).reactions = u.reactions.map bindingAfterReset := by
    show (if _ then _ else _) = _
    exact if_pos hk
  exact
    { pending := h.pending
      time := rfl
      mode := by rw [hv]; rfl
      safeStop := by rw [hv]; exact ⟨rfl, rfl⟩
      noReset := by rw [hv]; exact ⟨rfl, rfl⟩
      commissioning := by rw [hv]; exact ⟨h.items, h.committed⟩
      causes := fun st => by
        rw [hv]
        show (u.supervision.resetCauses.map _).get st = _
        rw [PerStation.get_map, h.resetCauses]
        cases o <;> rfl
      links := fun l => by
        have e : (afterReset (requestedReset o) u).links.get l = { Link.reset with
            chipSelectLow := (u.links.get l).chipSelectLow } := PerStation.get_map _ _ l
        rw [e]
        exact ⟨rfl, rfl⟩
      attendance := PerStation.get_all _
      claims := PerGroup.get_all _
      notices := PerStation.get_all _
      slots := fun n => by
        rw [← h.slots n, State.slot, hp]
        exact Vector.getElem_map ..
      draft := by rw [hp]; exact ⟨rfl, rfl⟩
      travel := ⟨rfl, rfl, rfl, rfl, reset_cap⟩
      arms := fun a => by
        rw [show (afterReset (requestedReset o) u).arm a = ArmUnit.reset from reset_arm a]
        exact ⟨rfl, rfl, rfl, rfl, rfl⟩
      spray := fun z => ⟨PerZone.get_all _ z, PerZone.get_all _ z, PerZone.get_all _ z⟩
      water := by rw [hw, h.water]; exact ⟨rfl, rfl, rfl, rfl, rfl, rfl, rfl⟩
      reactions := fun e => by
        rw [hx, h.reactions]
        show (s.reactions.map bindingAfterReset)[(e : Nat)] = _
        rw [Vector.getElem_map]
        rfl }

end Sys2Proof.Machine
end

section
/-! PROOFS. A stop cause at the TG, and the stow orders. -/

namespace Sys2Proof.Machine

set_option Elab.async false

/-! ## A stop cause at the TG, with no reaction bound (R96, R97) -/

theorem stopTest_eq {s : State} (hn : NoReactions s) : stopTest s =
    if s.travel.state = .stopping ∧ s.travel.setpoint = 0 ∧ s.travel.wheelSpeed = 0 then
      if s.travel.safeStop || s.travel.resetPending then
        settledTest (s.modTravel fun g => { g.park with causes := StopCauses.empty })
      else s.modTravel fun g => { g with state := .hold, causes := StopCauses.empty }
    else s := by
  have h : ∀ f : Travel → Travel, completeAll (· == .stopTravel) .stopped (s.modTravel f) = s.modTravel f :=
    fun f => completeAll_plain (s := s.modTravel f) hn _ _
  unfold stopTest
  simp only [h, Bool.and_eq_true, beq_iff_eq, and_assoc]

/-- A TG record that differs in nothing TakesCause speaks of takes the cause alike. -/
theorem Travel.TakesCause.congr {add : StopCauses → StopCauses} {g h h' : Travel} (k : g.TakesCause add h)
    (e : h'.course = h.course) : g.TakesCause add h' := by
  have e1 : h'.state = h.state := congrArg Course.state e
  have e2 : h'.causes = h.causes := congrArg Course.causes e
  have e3 : h'.demand = h.demand := congrArg Course.demand e
  have e4 : h'.safeStop = h.safeStop := congrArg Course.safeStop e
  have e5 : h'.resetPending = h.resetPending := congrArg Course.resetPending e
  refine ⟨fun hs => ?_, fun hs => ?_, fun hs => ?_⟩ <;> rw [e1, e2]
  · exact k.parked hs
  · exact k.stopping hs
  · rw [e3, e4, e5]
    exact k.drives hs

/-- R96: a stop cause changes the TG alone, and makes a settled reset due only where the TG parks and every arm has
settled. -/
theorem enterStopping_eq {s : State} (hn : NoReactions s) (add : StopCauses → StopCauses) : ∃ g r,
    enterStopping add s = { s with travel := g, work := { s.work with reset := r } } ∧ s.travel.TakesCause add g ∧
    g.resetPending = s.travel.resetPending ∧
    (r = s.work.reset ∨ r = some (.settled false) ∧ g.state = .parked ∧ ∀ a, s.supervision.armDone.get a = true) := by
  have entered : s.travel.state = .hold ∨ s.travel.state = .drive → ∃ g r,
      stopTest (s.modTravel fun g => { g with state := .stopping, causes := add g.causes, demand := 0 }) =
        { s with travel := g, work := { s.work with reset := r } } ∧ s.travel.TakesCause add g ∧
      g.resetPending = s.travel.resetPending ∧
      (r = s.work.reset ∨ r = some (.settled false) ∧ g.state = .parked ∧ ∀ a, s.supervision.armDone.get a = true) := by
    intro hs
    have hp : s.travel.state ≠ .parked := by rcases hs with e | e <;> rw [e] <;> exact nofun
    have hq : s.travel.state ≠ .stopping := by rcases hs with e | e <;> rw [e] <;> exact nofun
    have takes : ∀ g : Travel, g.demand = 0 →
        (s.travel.setpoint = 0 ∧ s.travel.wheelSpeed = 0 →
          g.state = (if g.safeStop || g.resetPending then .parked else .hold) ∧ g.causes = StopCauses.empty) →
        (¬(s.travel.setpoint = 0 ∧ s.travel.wheelSpeed = 0) → g.state = .stopping ∧ g.causes = add s.travel.causes) →
        s.travel.TakesCause add g := fun g h0 h1 h2 =>
      ⟨fun e => absurd e hp, fun e => absurd e hq, fun _ => ⟨h0, h1, h2⟩⟩
    rw [stopTest_eq (s := s.modTravel _) hn]
    by_cases hrest : s.travel.setpoint = 0 ∧ s.travel.wheelSpeed = 0
    · rw [if_pos ⟨rfl, hrest⟩]
      by_cases hpark : (s.travel.safeStop || s.travel.resetPending) = true
      · refine ⟨_, _, (if_pos hpark).trans (settledTest_eq _),
          takes _ rfl (fun _ => ⟨(if_pos hpark).symm, rfl⟩) fun h => absurd hrest h, rfl, ?_⟩
        split
        · rename_i hripe
          simp only [State.resetRipe, Bool.and_eq_true] at hripe
          exact .inr ⟨rfl, rfl, (PerArm.allSet_iff _).1 hripe.2⟩
        · exact .inl rfl
      · exact ⟨_, s.work.reset, if_neg hpark, takes _ rfl (fun _ => ⟨(if_neg hpark).symm, rfl⟩) fun h => absurd hrest h, rfl, .inl rfl⟩
    · rw [if_neg fun h => hrest h.2]
      exact ⟨_, s.work.reset, rfl, takes _ rfl (fun h => absurd h hrest) fun _ => ⟨rfl, rfl⟩, rfl, .inl rfl⟩
  unfold enterStopping
  cases hs : s.travel.state
  case hold => exact entered (.inl hs)
  case drive => exact entered (.inr hs)
  case stopping =>
    exact ⟨_, s.work.reset, rfl, ⟨fun e => absurd (hs.symm.trans e) nofun, fun _ => ⟨hs, rfl⟩,
      fun e => by simp [hs] at e⟩, rfl, .inl rfl⟩
  case parked =>
    exact ⟨s.travel, s.work.reset, rfl, ⟨fun _ => ⟨hs, rfl⟩, fun e => absurd (hs.symm.trans e) nofun,
      fun e => by simp [hs] at e⟩, rfl, .inl rfl⟩

/-- With a settled reset pending the TG parks exactly where it is parked or comes to rest at once (R97). -/
theorem Travel.TakesCause.parks_iff {add : StopCauses → StopCauses} {g h : Travel} (k : g.TakesCause add h)
    (hp : h.resetPending = true) : h.state = .parked ↔ g.state = .parked ∨
      (g.state = .hold ∨ g.state = .drive) ∧ g.setpoint = 0 ∧ g.wheelSpeed = 0 := by
  have moving : g.state = .hold ∨ g.state = .drive → (h.state = .parked ↔ g.setpoint = 0 ∧ g.wheelSpeed = 0) := fun hs => by
    obtain ⟨_, atRest, notAtRest⟩ := k.drives hs
    by_cases hrest : g.setpoint = 0 ∧ g.wheelSpeed = 0
    · rw [(atRest hrest).1, hp, Bool.or_true, if_pos rfl]
      exact iff_of_true rfl hrest
    · rw [(notAtRest hrest).1]
      exact iff_of_false nofun hrest
  cases hs : g.state
  case parked => simp [(k.parked hs).1]
  case stopping => simp [(k.stopping hs).1]
  case hold => simpa using moving (.inl hs)
  case drive => simpa using moving (.inr hs)

/-! ## The three stow orders (R125, R184) -/

/-- Operations on the three arms in turn, each of which moves its own arm alone. -/
theorem foldl_arms {P : State → Prop} {op : Arm → State → State} {F : Arm → Motion → Motion}
    (h : ∀ a s, P s → P (op a s) ∧ ((op a s).arm a).motion = F a (s.arm a).motion ∧
      ∀ b, b ≠ a → ((op a s).arm b).motion = (s.arm b).motion) {s : State} (hs : P s) :
    P (Arm.list.foldl (fun t a => op a t) s) ∧
      ∀ a, ((Arm.list.foldl (fun t a => op a t) s).arm a).motion = F a (s.arm a).motion := by
  show P (op .c (op .r (op .l s))) ∧ ∀ a, ((op .c (op .r (op .l s))).arm a).motion = F a (s.arm a).motion
  obtain ⟨p1, l1, o1⟩ := h .l s hs
  obtain ⟨p2, r2, o2⟩ := h .r _ p1
  obtain ⟨p3, c3, o3⟩ := h .c _ p2
  refine ⟨p3, fun a => ?_⟩
  cases a
  · rw [o3 .l nofun, o2 .l nofun, l1]
  · rw [o3 .r nofun, r2, o1 .r nofun]
  · rw [c3, o2 .c nofun, o1 .c nofun]

theorem ArmState.settled_iff (st : ArmState) : st.settled = true ↔ st = .stowed ∨ st = .fault := by
  unfold ArmState.settled
  simp

/-- RAISE leaves an arm that has settled or is on its way up (R115). -/
theorem Motion.takeRaise_stays {m : Motion} (h : m.state.settled = true ∨ m.state = .raising) (o : Origin) :
    m.takeRaise o = m := by
  unfold Motion.takeRaise
  rw [ArmState.settled_iff] at h
  rcases h with (e | e) | e <;> rw [e]

/-- RAISE brings any other arm to STOWED or RAISING by its UP switch; but from LOWERING its timers stop (R115, R118, R122). -/
theorem Motion.takeRaise_goes {m : Motion} (h : ¬(m.state.settled = true ∨ m.state = .raising)) (o : Origin) :
    ∃ n : Motion, n.target = .stowed ∧ (m.state ≠ .lowering → n.settleTimer = .stopped ∧ n.pinnedTimer = .stopped) ∧
      m.takeRaise o = if m.up then n.stow else n.raise o := by
  unfold Motion.takeRaise
  cases hs : m.state
  case stowed | fault => exact absurd (.inl (by rw [hs]; rfl)) h
  case raising => exact absurd (.inr hs) h
  case lowering => exact ⟨_, rfl, fun e => absurd rfl e, rfl⟩
  case working | deflected | halted => exact ⟨_, rfl, fun _ => ⟨rfl, rfl⟩, rfl⟩

/-- A settled arm keeps its motion at a stow order. -/
theorem Motion.ordered_settled {m : Motion} (h : m.state.settled = true) (can : Bool) : m.ordered can = m := by
  unfold Motion.ordered
  split
  · exact Motion.takeRaise_stays (.inl h) _
  · rfl

/-- After a stow order an arm has settled exactly where it had, or is at UP, can be raised and is not on its way
(R125). -/
theorem Motion.ordered_settled_iff (m : Motion) (can : Bool) : (m.ordered can).state.settled = true ↔
    m.state = .stowed ∨ m.state = .fault ∨ m.state ≠ .raising ∧ m.up = true ∧ can = true := by
  rw [← or_assoc, ← ArmState.settled_iff]
  unfold Motion.ordered
  cases can
  · simp
  · by_cases h : m.state.settled = true ∨ m.state = .raising
    · rw [if_pos rfl, Motion.takeRaise_stays h]
      exact ⟨.inl, fun k => k.elim id fun ⟨hr, _⟩ => h.resolve_right hr⟩
    · obtain ⟨n, -, -, e⟩ := Motion.takeRaise_goes h .stowOrder
      obtain ⟨hs, hr⟩ := not_or.1 h
      rw [if_pos rfl, e]
      cases m.up
      · exact iff_of_false nofun (by simp [hs])
      · exact iff_of_true rfl (.inr ⟨hr, rfl, rfl⟩)

/-- R125, said of the arm's record. -/
theorem ArmUnit.ordered_of_motion {u v : ArmUnit} {can : Bool} {ready : Prop} (hc : can = true ↔ ready)
    (h : v.motion = u.motion.ordered can) : u.Ordered ready v := by
  refine ⟨fun hs => ?_, fun hr h1 h2 h3 => ?_⟩
  · have same : v.motion = u.motion := by
      rw [h]
      unfold Motion.ordered
      split
      · rename_i hcan
        refine Motion.takeRaise_stays ?_ _
        rw [ArmState.settled_iff, or_assoc]
        exact hs.resolve_left (not_not.2 (hc.1 hcan))
      · rfl
    exact ⟨congrArg Motion.state same, congrArg Motion.target same, congrArg Motion.origin same⟩
  · have goes : ¬(u.motion.state.settled = true ∨ u.motion.state = .raising) := by
      rw [ArmState.settled_iff]
      exact not_or.2 ⟨not_or.2 ⟨h1, h2⟩, h3⟩
    obtain ⟨n, target, timers, e⟩ := Motion.takeRaise_goes goes .stowOrder
    have hm : v.motion = if u.up then n.stow else n.raise .stowOrder := by
      rw [h]
      exact (if_pos (hc.2 hr)).trans e
    refine ⟨?_, fun hu => ?_, fun hu => ?_⟩
    · refine (congrArg Motion.target hm).trans ?_
      split
      · exact target
      · rfl
    · rw [if_neg (by rw [hu]; exact nofun)] at hm
      exact ⟨congrArg Motion.state hm, congrArg Motion.origin hm, fun hl => ⟨(congrArg Motion.settleTimer hm).trans (timers hl).1,
        (congrArg Motion.pinnedTimer hm).trans (timers hl).2⟩⟩
    · rw [if_pos hu] at hm
      exact ⟨congrArg Motion.state hm, congrArg Motion.origin hm⟩

end Sys2Proof.Machine
end

section
/-! PROOFS. SETTLED handed on to the TG and the arms. -/

namespace Sys2Proof.Machine

set_option Elab.async false

/-! ## SETTLED: the request handed on to the TG and the arms (R184) -/

theorem Preserved.refl (s : State) : Preserved s s := ⟨rfl, rfl, rfl, rfl, fun _ => rfl, rfl, rfl⟩

theorem Preserved.trans {s t u : State} (h : Preserved s t) (k : Preserved t u) : Preserved s u where
  pending := k.pending.trans h.pending
  items := k.items.trans h.items
  committed := k.committed.trans h.committed
  resetCauses := k.resetCauses.trans h.resetCauses
  slots n := (k.slots n).trans (h.slots n)
  water := by have e := k.water; rw [h.water] at e; exact e
  reactions := k.reactions.trans h.reactions

theorem Preserved.unbound {s t : State} (h : Preserved s t) (hn : NoReactions s) : NoReactions t := fun e => by
  rw [h.reactions]; exact hn e

/-- With no reaction bound an event in which a settled reset has become due ends with it. -/
theorem Preserved.finish_resets {s t : State} (h : Preserved s t) (hn : NoReactions s)
    (hr : t.work.reset = some (.settled false)) : AfterRequest (some false) s (finish t) := by
  have k := Calm.settleAll (h.unbound hn)
  rw [finish_reset (k.reset.trans hr)]
  exact (h.trans k.steady.preserved).afterRequest (some false)

/-- An event that leaves nothing but a reset to its end ends with it, whatever is bound. -/
theorem Preserved.finish_resets_idle {s t : State} (h : Preserved s t) (o : Option Bool)
    (hw : t.work = { Work.clear with reset := some (requestedReset o) }) : AfterRequest o s (finish t) := by
  have hi := settleAll_idle hw
  rw [finish_reset (k := requestedReset o) (by rw [hi, hw]), hi]
  exact h.afterRequest o

theorem Cascade.handPendingReset {raise : Raiser} (hr : ∀ r u, Cascade u (raise r u)) (s : State) :
    Cascade s (handPendingReset raise s) := by
  have h : Cascade s (s.modTravel fun g => { g with resetPending := true }) := Cascade.modTravel s _ id
  exact ((h.trans (Cascade.enterStopping _ _)).trans
    (Cascade.foldl _ _ (fun u a => Cascade.stowOrder hr a u) _)).trans (Cascade.settledTest _)

/-- The three stow orders under way from `s`: a settled reset that has become due found the TG parked and finds every arm
settled. -/
structure Stowing (s t : State) : Prop extends Steady s t where
  copies : ∀ a, copyOk .supervision a t
  due : t.work.reset = s.work.reset ∨ s.travel.state = .parked ∧ ∀ a, (t.arm a).state.settled = true

theorem Stowing.stowOrder {raise : Raiser} (hr : Plainly raise) (hc : ∀ r u, Cascade u (raise r u)) {s t : State}
    (hn : NoReactions s) (h : Stowing s t) (a : Arm) : Stowing s (stowOrder raise a t) ∧
      ((stowOrder raise a t).arm a).motion = (t.arm a).motion.ordered (s.canRaise a) ∧
      ∀ b, b ≠ a → ((stowOrder raise a t).arm b).motion = (t.arm b).motion := by
  obtain ⟨steady, moved, others, due⟩ := stowOrder_steady hr (h.toSteady.unbound hn) a
  rw [State.canRaise_congr h.toSteady.items a] at moved
  have kept : ∀ b, b ≠ a → ((Sys2Proof.Machine.stowOrder raise a t).arm b).state = (t.arm b).state := fun b hb =>
    congrArg Motion.state (others b hb)
  refine ⟨⟨h.toSteady.trans steady, fun b => (Cascade.stowOrder hc a t).copies .supervision b nofun (h.copies b), ?_⟩,
    moved, others⟩
  rcases due with e | ⟨hp, ha, hb⟩
  · rw [e]
    refine h.due.imp_right fun ⟨hp, hall⟩ => ⟨hp, fun b => ?_⟩
    by_cases hb : b = a
    · subst hb
      rw [show ((Sys2Proof.Machine.stowOrder raise b t).arm b).state = (t.arm b).state from
        congrArg Motion.state (moved.trans (Motion.ordered_settled (hall b) _))]
      exact hall b
    · rw [kept b hb]
      exact hall b
  · refine .inr ⟨h.toSteady.state.symm.trans hp, fun b => ?_⟩
    by_cases e : b = a
    · subst e
      exact ha
    · rw [kept b e]
      exact (h.copies b).symm.trans (hb b e)

/-- What an accepted SETTLED leaves, with no reaction bound and no reset due before. -/
structure SettledAsked (s t : State) : Prop where
  preserved : Preserved s t
  supervision : t.supervision = { s.supervision with armDone := t.supervision.armDone }
  takes : s.travel.TakesCause (fun c => { c with resetPending := true }) t.travel
  pending : t.travel.resetPending = true
  arms : ∀ a, (t.arm a).motion = (s.arm a).motion.ordered (s.canRaise a)
  resets : t.travel.state = .parked ∧ (∀ a, (t.arm a).state.settled = true) → t.work.reset = some (.settled false)
  waits : ¬(t.travel.state = .parked ∧ ∀ a, (t.arm a).state.settled = true) → t.work.reset = none

theorem handPendingReset_asked {raise : Raiser} (hr : Plainly raise) (hc : ∀ r u, Cascade u (raise r u)) {s : State}
    (hn : NoReactions s) (copies : ∀ a, copyOk .supervision a s) (asked : s.supervision.pendingReset.isSome = true)
    (hw : s.work.reset = none) : SettledAsked s (handPendingReset raise s) := by
  obtain ⟨g, r, he, takes, pends, due⟩ := enterStopping_eq (s := s.modTravel fun g => { g with resetPending := true }) hn
    fun c => { c with resetPending := true }
  unfold handPendingReset
  rw [he]
  dsimp only
  generalize hu : ({ s.modTravel fun g => { g with resetPending := true } with travel := g, work := _ } : State) = u
  have start : Stowing u u := ⟨.refl u, by rw [← hu]; exact copies, .inl rfl⟩
  have hnu : NoReactions u := by rw [← hu]; exact hn
  obtain ⟨stowed, moved⟩ := foldl_arms (P := Stowing u) (F := fun a m => m.ordered (u.canRaise a))
    (fun a t h => h.stowOrder hr hc hnu a) start
  generalize Arm.list.foldl (fun t a => stowOrder raise a t) u = w at stowed moved
  have done : ∀ a, w.supervision.armDone.get a = (w.arm a).state.settled := stowed.copies
  have dueLaw : w.work.reset = none ∨ w.travel.state = .parked ∧ ∀ a, (w.arm a).state.settled = true := by
    rw [stowed.toSteady.state]
    rcases stowed.due with e | h
    · rw [e, ← hu]
      refine due.imp (fun e => e.trans hw) fun ⟨_, hp, hall⟩ => ⟨hp, fun a => ?_⟩
      have hs : (s.arm a).state.settled = true := (copies a).symm.trans (hall a)
      have e1 : (w.arm a).motion = (s.arm a).motion := by
        rw [moved a, ← hu]
        exact Motion.ordered_settled hs _
      rw [show (w.arm a).state = (s.arm a).state from congrArg Motion.state e1]
      exact hs
    · exact .inr h
  rw [settledTest_eq]
  have hripe : w.resetRipe w.supervision.armDone = true ↔ w.travel.state = .parked ∧ ∀ a, (w.arm a).state.settled = true := by
    have hask : w.supervision.pendingReset.isSome = true := by
      rw [stowed.toSteady.pendingReset, ← hu]
      exact asked
    unfold State.resetRipe
    rw [hask, Bool.true_and, Bool.and_eq_true, beq_iff_eq, PerArm.allSet_iff]
    simp only [done]
  have hcourse : w.travel.course = g.course := by rw [stowed.toSteady.travel, ← hu]
  refine
    { preserved := ?_
      supervision := by
        show w.supervision = { s.supervision with armDone := w.supervision.armDone }
        rw [stowed.supervision, ← hu]
        rfl
      takes := ?_
      pending := ?_
      arms := fun a => ?_
      resets := fun h => if_pos (hripe.2 h)
      waits := fun h => (if_neg (mt hripe.1 h)).trans (dueLaw.resolve_right h) }
  · have h : Preserved s u := by rw [← hu]; exact ⟨rfl, rfl, rfl, rfl, fun _ => rfl, rfl, rfl⟩
    exact (h.trans stowed.toSteady.preserved).trans ⟨rfl, rfl, rfl, rfl, fun _ => rfl, rfl, rfl⟩
  · have k := takes.congr hcourse
    exact ⟨k.parked, k.stopping, k.drives⟩
  · exact (congrArg Course.resetPending hcourse).trans pends
  · rw [show ((w.modWork _).arm a).motion = (w.arm a).motion from rfl, moved a, ← hu]
    rfl

/-! ## SETTLED where all has settled, whatever is bound -/

theorem takeRaise_settled {raise : Raiser} {a : Arm} {s : State} (h : (s.arm a).state.settled = true) (o : Origin) :
    takeRaise raise a o s = s := by
  unfold takeRaise
  rcases (ArmState.settled_iff _).1 h with e | e <;> rw [e]

/-- A stow order on a settled arm touches a changeover alone. -/
theorem stowOrder_settled {raise : Raiser} {a : Arm} {s : State} (h : (s.arm a).state.settled = true) :
    ∃ c, stowOrder raise a s = s.modProfile fun p => { p with changeover := c } := by
  have he : stowOrder raise a s = overtake a s := by
    unfold stowOrder
    dsimp only
    split
    · exact takeRaise_settled (by rw [State.arm, overtake_arms]; exact h) _
    · rfl
  rw [he]
  unfold overtake
  split
  · exact ⟨_, rfl⟩
  · split
    · exact ⟨_, rfl⟩
    · exact ⟨_, rfl⟩

theorem foldl_stowOrder_settled {raise : Raiser} {l : List Arm} {s : State} (h : ∀ a, (s.arm a).state.settled = true) :
    ∃ c, l.foldl (fun t a => stowOrder raise a t) s = s.modProfile fun p => { p with changeover := c } := by
  induction l generalizing s with
  | nil => exact ⟨_, rfl⟩
  | cons a l ih =>
    obtain ⟨c, hc⟩ := stowOrder_settled (raise := raise) (h a)
    rw [List.foldl_cons, hc]
    exact ih (s := s.modProfile fun p => { p with changeover := c }) h

/-- R184: in PARKED with every arm settled and copied so, SETTLED makes the reset due at once. -/
theorem handPendingReset_settled {raise : Raiser} {s : State} (hp : s.travel.state = .parked)
    (hd : ∀ a, s.supervision.armDone.get a = true) (ha : ∀ a, (s.arm a).state.settled = true)
    (asked : s.supervision.pendingReset.isSome = true) : ∃ c, handPendingReset raise s =
      { s with travel := { s.travel with resetPending := true }, profile := { s.profile with changeover := c }
               work := { s.work with reset := some (.settled false) } } := by
  have he : ∀ add, enterStopping add (s.modTravel fun g => { g with resetPending := true }) =
      s.modTravel fun g => { g with resetPending := true } := fun add => by
    unfold enterStopping
    rw [show (s.modTravel fun g => { g with resetPending := true }).travel.state = .parked from hp]
  obtain ⟨c, hc⟩ := foldl_stowOrder_settled (raise := raise) (l := Arm.list)
    (s := s.modTravel fun g => { g with resetPending := true }) ha
  refine ⟨c, ?_⟩
  unfold handPendingReset
  rw [he]
  dsimp only
  rw [hc, settledTest_eq]
  have hripe : (State.resetRipe ((s.modTravel fun g => { g with resetPending := true }).modProfile fun p =>
      { p with changeover := c }) s.supervision.armDone) = true := by
    show (s.supervision.pendingReset.isSome && s.travel.state == .parked && PerArm.allSet s.supervision.armDone) = true
    rw [asked, hp, (PerArm.allSet_iff _).2 hd]
    rfl
  exact congrArg (fun r => State.modWork _ fun w => { w with reset := r }) (if_pos hripe)

/-! ## A request with an event behind it -/

theorem Cascade.kept {s t : State} (h : Cascade s t) : Kept s t :=
  ⟨h.pending, h.time, h.clock, h.capture, h.switches, h.items, h.mode, h.committed, h.resetCauses⟩

theorem Kept.trans {s t u : State} (h : Kept s t) (k : Kept t u) : Kept s u :=
  ⟨k.pending.trans h.pending, k.time.trans h.time, k.clock.trans h.clock, k.capture.trans h.capture,
    k.switches.trans h.switches, k.items.trans h.items, k.mode.trans h.mode, k.committed.trans h.committed,
    k.resetCauses.trans h.resetCauses⟩

/-- An owner whose work is a cascade, answered, with an event's end behind it that resets nothing. -/
theorem served_finish {f : Form} {l : Station} {tag : Byte} {ps : List Byte} {st : Status} {d : Payload} {s v w : State}
    (kept : Kept s v) (links : v.links = (heard f l tag ps s).links) (attendance : v.attendance = unprepared l s)
    (claims : v.claims = s.claims) (draft : v.profile.draft = s.profile.draft) (h : Cascade v w) {owner : Owner}
    (sent : Sent f l ps s) (ho : owner l ps (heard f l tag ps s) = ⟨st, d, w⟩)
    (hr : (settleAll { w with links := linksAfter f l tag ps st d s }).work.reset = none) :
    finish (serve f owner l tag ps s) =
      (settleAll { w with links := linksAfter f l tag ps st d s }).modWork (fun _ => Work.clear) ∧
    Served f l tag ps st d s (finish (serve f owner l tag ps s)) := by
  have k := Cascade.settleAll { w with links := linksAfter f l tag ps st d s }
  have e : finish (serve f owner l tag ps s) =
      (settleAll { w with links := linksAfter f l tag ps st d s }).modWork fun _ => Work.clear := by
    rw [serve_done sent tag ho (h.links.trans links), finish_calm hr]
  refine ⟨e, ?_⟩
  rw [e]
  have hk : Kept s { w with links := linksAfter f l tag ps st d s } :=
    { kept.trans h.kept with }
  exact
    { toKept := { hk.trans k.kept with }
      links := k.links
      attendance := k.attendance.trans (h.attendance.trans attendance)
      claims := k.claims.trans (h.claims.trans claims)
      draft := k.draft.trans (h.draft.trans draft) }

end Sys2Proof.Machine
end

section
/-! PROOFS. RESET_PART as a request. -/

namespace Sys2Proof.Machine

set_option Elab.async false

/-! ## RESET_PART (R184) -/

/-- A RESET_PART of neither kind is BAD_PARAM on either row. -/
theorem resetPart_badParam {l : Station} {p : Byte} {s : State} (hp : 2 ≤ byteAt [p] 0) (h : Sent Form.resetPart l [p] s)
    (hw : workClear s) (tag : Byte) {kind : Nat} (hk : kind < 2) (k : Raiser → Owner) :
    serveReset kind k l tag [p] s = replied Form.resetPart l tag [p] .badParam .none s := by
  have ho : otherReset kind [p] = false := by
    unfold otherReset
    rw [decide_eq_false (by omega), Bool.and_false, Bool.false_and]
  rw [serveReset_event ho, serve_replied h tag (if_pos (by omega))]
  exact finish_clear hw

/-- The link that answers stands apart from what a reset keeps. -/
theorem Preserved.answered {s t : State} (h : Preserved s t) (k : PerStation Link) : Preserved s { t with links := k } :=
  ⟨h.pending, h.items, h.committed, h.resetCauses, h.slots, h.water, h.reactions⟩

theorem exec_resetPartImmediate {l : Station} {s : State} (h : Sent Form.resetPart l [0] s) (hw : workClear s) (tag : Byte) :
    ∃ t, exec (.resetPartImmediate l tag [0]) s = .next t ∧ AfterRequest none s t := by
  have ho : kindOwner 0 immediateOwner l [0] (heard Form.resetPart l tag [0] s) =
      .ok ((heard Form.resetPart l tag [0] s).modWork fun w => { w with reset := some .immediate }) := rfl
  refine ⟨_, congrArg Host.Outcome.next ((serveReset_event rfl ..).trans (congrArg finish (serve_done h tag ho rfl))), ?_⟩
  have k : Preserved s ((heard Form.resetPart l tag [0] s).modWork fun w => { w with reset := some .immediate }) :=
    ⟨rfl, rfl, rfl, rfl, fun _ => rfl, rfl, rfl⟩
  exact (k.answered _).finish_resets_idle none (congrArg (fun w : Work => { w with reset := some .immediate }) hw)

/-- The state that an accepted SETTLED hands on. -/
def settledHeard (l : Station) (tag : Byte) (s : State) : State :=
  (heard Form.resetPart l tag [1] s).modSupervision fun v => { v with pendingReset := some l, settledTimer := .running 15000 }

theorem settledHeard_preserved (l : Station) (tag : Byte) (s : State) : Preserved s (settledHeard l tag s) :=
  ⟨rfl, rfl, rfl, rfl, fun _ => rfl, rfl, rfl⟩

theorem settledOwner_accepts {l : Station} (tag : Byte) {s : State} (hn : s.supervision.pendingReset = none) :
    kindOwner 1 (settledOwner raiseFactor) l [1] (heard Form.resetPart l tag [1] s) =
      .accepted (handPendingReset raiseFactor (settledHeard l tag s)) := by
  have hi : ¬s.supervision.pendingReset.isSome = true := by rw [hn]; exact nofun
  exact (if_neg (by decide)).trans (if_neg hi)

theorem exec_resetPartSettled (l : Station) (tag : Byte) (s : State) : exec (.resetPartSettled l tag [1]) s =
    .next (finish (serve Form.resetPart (kindOwner 1 (settledOwner raiseFactor)) l tag [1] s)) :=
  congrArg Host.Outcome.next (serveReset_event rfl ..)

/-- R184: SETTLED in PARKED with every arm settled resets at once, whatever is bound. -/
theorem exec_resetPartSettled_settled {l : Station} {s : State} (h : Sent Form.resetPart l [1] s) (hw : workClear s)
    (tag : Byte) (hn : s.supervision.pendingReset = none) (hp : s.travel.state = .parked)
    (ha : ∀ a, s.supervision.armDone.get a = true ∧ ((s.arm a).state = .stowed ∨ (s.arm a).state = .fault)) :
    ∃ t, exec (.resetPartSettled l tag [1]) s = .next t ∧ AfterRequest (some false) s t := by
  obtain ⟨c, hc⟩ := handPendingReset_settled (raise := raiseFactor) (s := settledHeard l tag s) hp (fun a => (ha a).1)
    (fun a => (ArmState.settled_iff _).2 (ha a).2) rfl
  refine ⟨_, (exec_resetPartSettled l tag s).trans (congrArg (fun u => Host.Outcome.next (finish u))
    (serve_done h tag ((settledOwner_accepts tag hn).trans (congrArg Answer.accepted hc)) rfl)), ?_⟩
  have k : Preserved (settledHeard l tag s) { settledHeard l tag s with
      travel := { (settledHeard l tag s).travel with resetPending := true }
      profile := { (settledHeard l tag s).profile with changeover := c }
      work := { (settledHeard l tag s).work with reset := some (.settled false) } } :=
    ⟨rfl, rfl, rfl, rfl, fun _ => rfl, rfl, rfl⟩
  refine (((settledHeard_preserved l tag s).trans k).answered _).finish_resets_idle (some false) ?_
  exact congrArg (fun w : Work => { w with reset := some (.settled false) }) hw

/-- R125: an arm can be raised where its lift demand and its raise timeout are written. -/
theorem State.canRaise_iff (s : State) (a : Arm) : s.canRaise a = true ↔ s.liftItem? a ≠ none ∧ s.item? 9 ≠ none := by
  unfold State.canRaise
  rw [Bool.and_eq_true, Option.isSome_iff_ne_none, Option.isSome_iff_ne_none]

/-- The TG at rest, or brought to rest at once by a stop (R97). -/
def Travel.rests (g : Travel) : Prop :=
  g.state = .parked ∨ (g.state = .hold ∨ g.state = .drive) ∧ g.setpoint = 0 ∧ g.wheelSpeed = 0

/-- Every arm settled, or brought to STOWED at once by a stow order (R125). -/
def State.stowsAtOnce (s : State) : Prop := ∀ a, (s.arm a).state = .stowed ∨ (s.arm a).state = .fault ∨
  (s.arm a).state ≠ .raising ∧ (s.arm a).up = true ∧ (s.liftItem? a ≠ none ∧ s.item? 9 ≠ none)

/-- R184, R185: what SETTLED asks for has come about exactly where the TG rests and every arm stows at once. -/
theorem SettledAsked.due_iff {s t : State} (h : SettledAsked s t) :
    (t.travel.state = .parked ∧ ∀ a, (t.arm a).state.settled = true) ↔ s.travel.rests ∧ s.stowsAtOnce := by
  refine and_congr (h.takes.parks_iff h.pending) (forall_congr' fun a => ?_)
  rw [show (t.arm a).state = ((s.arm a).motion.ordered (s.canRaise a)).state from congrArg Motion.state (h.arms a),
    Motion.ordered_settled_iff, State.canRaise_iff]
  rfl

section
variable {l : Station} {s : State} (h : Sent Form.resetPart l [1] s) (hw : workClear s) (tag : Byte)
  (hn : s.supervision.pendingReset = none) (hr : NoReactions s) (hc : ∀ a, copyOk .supervision a s)
include hw hr hc

theorem settledHeard_asked :
    SettledAsked (settledHeard l tag s) (handPendingReset raiseFactor (settledHeard l tag s)) :=
  handPendingReset_asked raiseFactor_plainly Cascade.raiseFactor hr hc rfl
    (congrArg Work.reset (show (settledHeard l tag s).work = Work.clear from hw))

include h hn

/-- SETTLED where the TG rests and every arm stows at once. -/
theorem exec_resetPartSettled_atOnce (hd : s.travel.rests ∧ s.stowsAtOnce) :
    ∃ t, exec (.resetPartSettled l tag [1]) s = .next t ∧ AfterRequest (some false) s t := by
  have asked := settledHeard_asked (l := l) hw tag hr hc
  have k := Cascade.handPendingReset Cascade.raiseFactor (settledHeard l tag s)
  have accepts := settledOwner_accepts (l := l) tag hn
  refine ⟨_, exec_resetPartSettled l tag s, ?_⟩
  generalize handPendingReset raiseFactor (settledHeard l tag s) = u at accepts asked k
  rw [serve_done h tag accepts k.links]
  have due : u.work.reset = some (.settled false) := asked.resets (asked.due_iff.2 hd)
  exact (((settledHeard_preserved l tag s).trans asked.preserved).answered _).finish_resets hr due

/-- SETTLED where something is still to come to rest. -/
theorem exec_resetPartSettled_waits (hd : ¬(s.travel.rests ∧ s.stowsAtOnce)) :
    ∃ t, exec (.resetPartSettled l tag [1]) s = .next t ∧ Served Form.resetPart l tag [1] .accepted .none s t ∧
      t.supervision.pendingReset = some l ∧ t.supervision.settledTimer = .running 15000 ∧
      t.travel.resetPending = true ∧ s.travel.TakesCause (fun c => { c with resetPending := true }) t.travel ∧
      ∀ a, (s.arm a).Ordered (s.liftItem? a ≠ none ∧ s.item? 9 ≠ none) (t.arm a) := by
  have asked := settledHeard_asked (l := l) hw tag hr hc
  have k := Cascade.handPendingReset Cascade.raiseFactor (settledHeard l tag s)
  have accepts := settledOwner_accepts (l := l) tag hn
  generalize handPendingReset raiseFactor (settledHeard l tag s) = u at accepts asked k
  have hnu : NoReactions { u with links := linksAfter Form.resetPart l tag [1] .accepted .none s } :=
    asked.preserved.unbound hr
  have calm := Calm.settleAll hnu
  have waits := asked.waits (mt asked.due_iff.1 hd)
  obtain ⟨e, served⟩ := served_finish (f := Form.resetPart) (l := l) (tag := tag) (ps := [1])
    (st := .accepted) (d := .none) (s := s) (w := u) (owner := kindOwner 1 (settledOwner raiseFactor))
    (v := settledHeard l tag s) ⟨rfl, rfl, rfl, rfl, rfl, rfl, rfl, rfl, rfl⟩ rfl rfl rfl rfl k h
    accepts (calm.reset.trans waits)
  refine ⟨_, exec_resetPartSettled l tag s, served, ?_⟩
  rw [e]
  have hv : ((settleAll { u with links := linksAfter Form.resetPart l tag [1] .accepted .none s }).modWork
      fun _ => Work.clear).supervision = { (settledHeard l tag s).supervision with armDone := u.supervision.armDone } :=
    calm.supervision.trans asked.supervision
  rw [hv]
  have hg := calm.travel
  refine ⟨rfl, rfl, (congrArg Course.resetPending hg).trans asked.pending, asked.takes.congr hg, fun a => ?_⟩
  exact ArmUnit.ordered_of_motion (s.canRaise_iff a) ((calm.arms a nofun).trans (asked.arms a))

end

end Sys2Proof.Machine
end

section
/-! PROOFS. The events that complete a settled reset. -/

namespace Sys2Proof.Machine

set_option Elab.async false

/-! ## The arm reports that complete a settled reset (R119, R120, R123, R185) -/

theorem Timer.due_of_running_zero {t : Timer} (h : t = .running 0) : t.due = true := by rw [h]; rfl

/-- The last arm settles, in PARKED, with a settled reset pending: the event ends with the reset. -/
theorem Moves.resets {a : Arm} {m : Motion} {s t : State} (h : Moves a m s t) (hn : NoReactions s)
    (hm : m.state.settled = true) (hq : s.supervision.pendingReset ≠ none) (hp : s.travel.state = .parked)
    (ho : ∀ b, b ≠ a → s.supervision.armDone.get b = true) : AfterRequest (some false) s (finish t) := by
  refine h.toSteady.preserved.finish_resets hn (h.ripe.trans (if_pos ?_))
  have hall : PerArm.allSet (s.supervision.armDone.set a true) = true := (PerArm.allSet_iff _).2 fun b => by
    rw [PerArm.get_set]
    split
    · rfl
    · rename_i hb
      exact ho b hb
  unfold State.resetRipe
  rw [hm, hp, hall, Option.isSome_iff_ne_none.2 hq]
  rfl

/-- An arm RAISING whose UP switch is asserted has settled: STOWED, or FAULT where DOWN is asserted too. -/
theorem endSwitchEvent_settles {raise : Raiser} (hr : Plainly raise) {s : State} (hn : NoReactions s) {a : Arm}
    (hs : (s.arm a).state = .raising) (hu : (s.arm a).up = true) :
    ∃ m, m.state.settled = true ∧ Moves a m s (endSwitchEvent raise a s) := by
  unfold endSwitchEvent
  dsimp only
  split
  · exact ⟨_, rfl, faultArm_moves hr hn a _⟩
  · rw [if_neg (by rw [hs]; simp), if_pos (by rw [hs, hu]; rfl)]
    exact ⟨_, rfl, endRaising_moves hr hn a []⟩

theorem Calm.modSwitches (s : State) (f : Switches → Switches) : Calm none s (s.modSwitches f) :=
  { Calm.refl none s with }

section
variable {s : State} (hn : NoReactions s) (hq : s.supervision.pendingReset ≠ none) (hp : s.travel.state = .parked) {a : Arm}
  (hs : (s.arm a).state = .raising) (ho : ∀ b, b ≠ a → s.supervision.armDone.get b = true)
include hn hq hp ho

theorem exec_motionTimerExpiry_resets (hm : (s.arm a).motionTimer = .running 0) :
    ∃ t, exec (.motionTimerExpiry a) s = .next t ∧ AfterRequest (some false) s t :=
  ⟨_, congrArg Host.Outcome.next (if_pos (Timer.due_of_running_zero hm)),
    (faultArm_moves raiseFactor_plainly hn a _).resets hn rfl hq hp ho⟩

include hs

theorem exec_debounceExpiry_up_resets (hc : (s.switches.input (.up a)).counter = .running 0)
    (hu : (s.switches.input (.up a)).raw = true) :
    ∃ t, exec (.debounceExpiry (.up a)) s = .next t ∧ AfterRequest (some false) s t := by
  have h : Calm (some a) s ((s.modSwitches fun w => w.setInput (.up a) (s.switches.input (.up a)).settled).modArm a
      fun u => { u with up := (s.switches.input (.up a)).settled.level }) :=
    (Calm.modSwitches s _).to.trans (Calm.modArmBut _ a _)
  obtain ⟨m, hm, k⟩ := endSwitchEvent_settles raiseFactor_plainly (h.unbound hn) (a := a)
    (by rw [State.arm_modArm, if_pos rfl]; exact hs) (by rw [State.arm_modArm, if_pos rfl]; exact hu)
  exact ⟨_, congrArg Host.Outcome.next (if_pos (Timer.due_of_running_zero hc)), (h.moves k).resets hn hm hq hp ho⟩

end

/-! ## The end of STOPPING that completes a settled reset (R97, R185) -/

theorem Calm.overspeedTest (s : State) : Calm none s (overspeedTest s) := by
  obtain ⟨m, b, h⟩ := Travel.testOverspeed_eq s.travel
  exact Calm.modTravel s _ (by rw [h]; rfl)

theorem foldl_complete_plain {s : State} (hn : NoReactions s) (l : List EntryNo) (o : ActionOutcome) :
    l.foldl (fun t e => complete e o t) s = s := by
  induction l with
  | nil => rfl
  | cons e l ih => rw [List.foldl_cons, complete, completeWith_plain hn, ih]

theorem capTest_plain {s : State} (hn : NoReactions s) : capTest s = s := foldl_complete_plain hn _ _

theorem Calm.rampMove (s : State) : Calm none s (rampMove s) := Calm.modTravel s _

theorem rampMove_setpoint {s : State} (h : s.travel.state = .stopping) :
    (rampMove s).travel.setpoint = rampStep s.travel.setpoint 0 (s.item 5) (s.item 6) := by
  have ht : s.rampTarget = 0 := by
    unfold State.rampTarget
    rw [h]
  show rampStep s.travel.setpoint s.rampTarget (s.item 5) (s.item 6) = _
  rw [ht]

/-- R97, R185: the TG, STOPPING with a settled reset pending, comes to rest with every arm settled. -/
theorem stopTest_resets {s : State} (hn : NoReactions s) (hq : s.supervision.pendingReset ≠ none)
    (hs : s.travel.state = .stopping) (h0 : s.travel.setpoint = 0) (hv : s.travel.wheelSpeed = 0)
    (hp : s.travel.resetPending = true) (hd : ∀ a, s.supervision.armDone.get a = true) :
    Preserved s (stopTest s) ∧ (stopTest s).work.reset = some (.settled false) ∧ (stopTest s).water = s.water := by
  have hripe : ∀ f : Travel → Travel, (f s.travel).state = .parked →
      (s.modTravel f).resetRipe s.supervision.armDone = true := fun f hf => by
    unfold State.resetRipe
    rw [show (s.modTravel f).travel.state = .parked from hf, show (s.modTravel f).supervision = s.supervision from rfl,
      (PerArm.allSet_iff _).2 hd, Option.isSome_iff_ne_none.2 hq]
    rfl
  rw [stopTest_eq hn, if_pos ⟨hs, h0, hv⟩, if_pos (by rw [hp, Bool.or_true]), settledTest_eq]
  exact ⟨⟨rfl, rfl, rfl, rfl, fun _ => rfl, rfl, rfl⟩, if_pos (hripe _ rfl), rfl⟩

section
variable {s : State} (hn : NoReactions s) (hq : s.supervision.pendingReset ≠ none) (hs : s.travel.state = .stopping)
  (hp : s.travel.resetPending = true) (hd : ∀ a, s.supervision.armDone.get a = true)
include hn hq hs hp hd

theorem exec_rampTimerExpiry_resets (ht : s.travel.rampTimer = .running 0) (hv : s.travel.wheelSpeed = 0)
    (h0 : rampStep s.travel.setpoint 0 (s.item 5) (s.item 6) = 0) :
    ∃ t, exec .rampTimerExpiry s = .next t ∧ AfterRequest (some false) s t := by
  have k : Calm none s (rampMove (s.modTravel fun g => { g with rampTimer := .running 10 })) :=
    (Calm.modTravel s _).trans (Calm.rampMove _)
  have hz : (rampMove (s.modTravel fun g => { g with rampTimer := .running 10 })).travel.setpoint = 0 :=
    (rampMove_setpoint (s := s.modTravel fun g => { g with rampTimer := .running 10 }) hs).trans h0
  refine ⟨_, congrArg Host.Outcome.next (if_pos (Timer.due_of_running_zero ht)), ?_⟩
  show AfterRequest _ _ (finish (capTest (overspeedTest (rampState
    (rampMove (s.modTravel fun g => { g with rampTimer := .running 10 }))))))
  generalize rampMove (s.modTravel fun g => { g with rampTimer := .running 10 }) = u at k hz
  have hu : u.travel.state = .stopping := k.steady.state.trans hs
  have he : rampState u = stopTest u := by
    unfold rampState
    rw [hu]
    rfl
  obtain ⟨kept, due, -⟩ := stopTest_resets (k.unbound hn) (by rw [k.supervision]; exact hq) hu hz
    ((congrArg Course.wheelSpeed k.travel).trans hv) ((congrArg Course.resetPending k.travel).trans hp)
    (by rw [k.supervision]; exact hd)
  have k2 := Calm.overspeedTest (stopTest u)
  have all := (k.steady.preserved.trans kept).trans k2.steady.preserved
  rw [he, capTest_plain (all.unbound hn)]
  exact all.finish_resets hn (k2.reset.trans due)

end

/-! ## A closed WHEEL gate without pulses (R75, R76) -/

/-- The window after a gate's end without pulses in it, whatever the interval. -/
theorem CaptureChannel.sum_close {c : CaptureChannel} (hc : c.counter = 0) (hn : c.newest = 0) (hn' : c.newer = 0)
    (ho : c.older = 0) (i : Nat) : (c.close i).sum = 0 := by
  unfold CaptureChannel.close
  split
  · show c.older + c.newer + c.newest + c.counter = 0
    omega
  · rfl

theorem wheelSpeedOf_rest {c : CaptureChannel} (h : c.sum = 0) (d : Direction) (item : Option Nat) :
    wheelSpeedOf c d item = 0 := by
  have hm : measured c.sum 36000 c.interval item = 0 := by
    unfold measured
    cases item
    · rfl
    · exact if_pos h
  unfold wheelSpeedOf
  rw [hm]
  cases d <;> rfl

/-- R150: with every arm up no distance is swept. -/
theorem Water.sweep_none {w : Water} (h : ∀ a, w.armDown.get a = false) (n m : Nat) : w.sweep n m = w := by
  unfold Water.sweep PerArm.anySet
  rw [show w.armDown.l = false from h .l, show w.armDown.r = false from h .r, show w.armDown.c = false from h .c]
  rfl

theorem Calm.modCapture (s : State) (f : Capture → Capture) : Calm none s (s.modCapture f) := { Calm.refl none s with }

section
variable {s : State} (hn : NoReactions s) (hq : s.supervision.pendingReset ≠ none) (hs : s.travel.state = .stopping)
  (hp : s.travel.resetPending = true) (hd : ∀ a, s.supervision.armDone.get a = true)
include hn hq hs hp hd

/-- R77: the wheel at rest published to the four blocks. -/
theorem publishWheel_rest (h0 : s.travel.setpoint = 0) (hw : ∀ a, s.water.armDown.get a = false) (n : Nat) :
    Preserved s (publishWheel 0 n s) ∧ (publishWheel 0 n s).work.reset = some (.settled false) := by
  obtain ⟨kept, due, water⟩ := stopTest_resets (s := s.modTravel fun g => { g with wheelSpeed := 0 }) hn hq hs h0 rfl hp hd
  have k : Calm none (stopTest (s.modTravel fun g => { g with wheelSpeed := 0 })) (sprayTakesSpeed 0
      (Arm.list.foldl (fun t a => armTakesSpeed 0 a t) (travelTakesSpeed 0 s))) :=
    ((Calm.overspeedTest _).trans (Calm.foldl _ _ (fun u a => Calm.armTakesSpeed 0 a u) _)).trans (Calm.sprayTakesSpeed 0 _)
  unfold publishWheel
  dsimp only
  generalize sprayTakesSpeed 0 (Arm.list.foldl (fun t a => armTakesSpeed 0 a t) (travelTakesSpeed 0 s)) = u at k
  have hsw : u.water.sweep n (s.item 1) = u.water := Water.sweep_none (by rw [k.water, water]; exact hw) _ _
  have first : Preserved s (s.modTravel fun g => { g with wheelSpeed := 0 }) := ⟨rfl, rfl, rfl, rfl, fun _ => rfl, rfl, rfl⟩
  have same : (u.modWater fun w => w.sweep n (s.item 1)) = u := congrArg (fun w => { u with water := w }) hsw
  rw [same]
  exact ⟨(first.trans kept).trans k.steady.preserved, k.reset.trans due⟩

theorem exec_gateExpiry_wheel_resets (ht : s.capture.wheel.timer = .running 0) (h0 : s.travel.setpoint = 0)
    (h1 : s.capture.wheel.counter = 0) (h2 : s.capture.wheel.newest = 0) (h3 : s.capture.wheel.newer = 0)
    (h4 : s.capture.wheel.older = 0) (hw : ∀ a, s.water.armDown.get a = false) :
    ∃ t, exec (.gateExpiry .wheel) s = .next t ∧ AfterRequest (some false) s t := by
  have hz : wheelSpeedOf (s.capture.wheel.close ((s.item? (gateItem .wheel)).getD 100)) s.capture.direction (s.item? 1) = 0 :=
    wheelSpeedOf_rest (CaptureChannel.sum_close h1 h2 h3 h4 _) _ _
  refine ⟨_, congrArg Host.Outcome.next (if_pos (Timer.due_of_running_zero ht)), ?_⟩
  show AfterRequest _ _ (finish (publishWheel (wheelSpeedOf (s.capture.wheel.close ((s.item? (gateItem .wheel)).getD 100))
    s.capture.direction (s.item? 1)) _ ((s.modCapture _).modCapture _)))
  rw [hz]
  obtain ⟨kept, due⟩ := publishWheel_rest (s := (s.modCapture _).modCapture _) hn hq hs hp hd h0 hw _
  exact (((Calm.modCapture s _).trans (Calm.modCapture _ _)).steady.preserved.trans kept).finish_resets hn due

end

/-! ## Settled: RESET_PART -/

/-- Settles O59: each request by its kind and by what is still to come to rest, each event by the report that completes
the test of R185, and the timer by the reset that keeps the same stores. -/
theorem requestedResets : Obligations.RequestedResets := by
  intro l tag s
  refine ⟨fun h hw => exec_resetPartImmediate h hw tag, fun h hw => ⟨fun hq => ?_,
    fun hn hp ha => exec_resetPartSettled_settled h hw tag hn hp ha, fun hn hr hc => ?_⟩, fun hw hr hq => ?_, fun p hp h hw => ?_, fun ht => ?_⟩
  · have ho : kindOwner 1 (settledOwner raiseFactor) l [1] (heard Form.resetPart l tag [1] s) =
        .refuse .refusedBusy (heard Form.resetPart l tag [1] s) :=
      (if_neg (by decide)).trans (if_pos (Option.isSome_iff_ne_none.2 hq))
    rw [exec_resetPartSettled, serve_replied h tag ho]
    exact congrArg Host.Outcome.next (finish_clear hw)
  · exact ⟨exec_resetPartSettled_atOnce h hw tag hn hr hc, exec_resetPartSettled_waits h hw tag hn hr hc⟩
  · refine ⟨fun hp a hs ho => ⟨exec_debounceExpiry_up_resets hr hq hp hs ho, exec_motionTimerExpiry_resets hr hq hp ho⟩,
      fun hs hp hd => ⟨exec_rampTimerExpiry_resets hr hq hs hp hd, exec_gateExpiry_wheel_resets hr hq hs hp hd⟩⟩
  · exact ⟨congrArg Host.Outcome.next (resetPart_badParam hp h hw tag (by decide) _),
      congrArg Host.Outcome.next (resetPart_badParam hp h hw tag (by decide) _)⟩
  · exact ⟨_, congrArg Host.Outcome.next (if_pos (Timer.due_of_running_zero ht)), (Preserved.refl s).afterRequest (some true)⟩

end Sys2Proof.Machine
end

section
/-! PROOFS. The part leaves STARTING. -/

namespace Sys2Proof.Machine

set_option Elab.async false

/-! ## What leaving STARTING reaches (R69, R110, R178) -/

/-- An arm that leaves STARTING is not LOWERING (R110). -/
theorem startArm_not_lowering {raise : Raiser} (hr : ∀ r u, Cascade u (raise r u)) (a : Arm) (s : State) :
    ((startArm raise a s).arm a).state ≠ .lowering := by
  intro h
  unfold startArm at h
  dsimp only at h
  generalize hst : (if (s.arm a).up = true then ArmState.stowed else .halted) = st at h
  have k : Cascade (s.modArm a fun u => { u with state := st })
      (announce raise a st [] none (s.modArm a fun u => { u with state := st })) :=
    Frame.announce hr (Frame.refl (.both a) .cascade _)
  have e := k.lowering rfl a h
  rw [State.arm_modArm, if_pos rfl] at e
  rw [show st = .lowering from e] at hst
  split at hst <;> cases hst

/-- What an operation on each arm in turn brings about for its own arm, and those on the others keep. -/
theorem foldl_arms_each {P : Arm → State → Prop} {op : Arm → State → State} (own : ∀ a s, P a (op a s))
    (keeps : ∀ a b s, P a s → P a (op b s)) (s : State) (a : Arm) : P a (Arm.list.foldl (fun t a => op a t) s) := by
  show P a (op .c (op .r (op .l s)))
  cases a
  · exact keeps _ _ _ (keeps _ _ _ (own _ _))
  · exact keeps _ _ _ (own _ _)
  · exact own _ _

theorem startArms_not_lowering {raise : Raiser} (hr : ∀ r u, Cascade u (raise r u)) (s : State) (a : Arm) :
    ((Arm.list.foldl (fun t a => startArm raise a t) s).arm a).state ≠ .lowering :=
  foldl_arms_each (P := fun a s => (s.arm a).state ≠ .lowering) (startArm_not_lowering hr)
    (fun a b s h e => h ((Cascade.startArm hr b s).lowering rfl a e)) s a

/-- Safe stop entered where every arm that is LOWERING can be raised. -/
theorem Frame.enterSafeStop {raise : Raiser} (hr : ∀ r u, Cascade u (raise r u)) (c : SafeCause) {s : State}
    (hl : ∀ a, (s.arm a).state = .lowering → s.canRaise a = true) : Frame .none .any s (enterSafeStop raise c s) := by
  have f1 : Frame .none .any s (s.modSupervision fun v => { v with safeStop := true, causes := v.causes.add c }) :=
    (Frame.safeFlag true s).2.2 _
  unfold Sys2Proof.Machine.enterSafeStop
  dsimp only
  generalize hu : s.modSupervision (fun v => { v with safeStop := true, causes := v.causes.add c }) = u at f1
  have f2 := hr (u.raiseOf (.cause c) (.safeStopEntered u.supervision.causes s.supervision.safeStop)) u
  have hc : ∀ a, ((raise (u.raiseOf (.cause c) (.safeStopEntered u.supervision.causes s.supervision.safeStop)) u).arm a).state =
      .lowering → (raise (u.raiseOf (.cause c) (.safeStopEntered u.supervision.causes s.supervision.safeStop)) u).canRaise a =
      true := fun a ha => (State.canRaise_congr (f2.items.trans f1.items) a).trans (hl a (by
    have e := f2.lowering rfl a ha
    rw [← hu] at e
    exact e))
  split
  · exact (f1.andThen f2).andThen (Cascade.enterStopping _ _)
  · exact (f1.andThen f2).trans (handSafeStop_kept hr _ hc).1

/-- The arms, the account and the conflict tests of a part that leaves STARTING, before a lost crystal. -/
def startBlocks (raise : Raiser) (s : State) : State :=
  Arm.list.foldl (fun t a => conflictTest raise a t)
    (evaluateZones (startWater (Arm.list.foldl (fun t a => startArm raise a t) s))).needCeiling

theorem leaveStarting_eq (lost : Bool) (raise : Raiser) (s : State) : leaveStarting lost raise s =
    if lost then clockFault raise (startBlocks raise (startRunning lost s)) else startBlocks raise (startRunning lost s) := rfl

theorem Frame.startBlocks {raise : Raiser} (hr : ∀ r u, Cascade u (raise r u)) (s : State) :
    Frame .none .water s (startBlocks raise s) ∧ ∀ a, ((startBlocks raise s).arm a).state ≠ .lowering := by
  have f1 : Cascade s (Arm.list.foldl (fun t a => Sys2Proof.Machine.startArm raise a t) s) :=
    Cascade.foldl _ _ (fun u a => Cascade.startArm hr a u) s
  have l1 := startArms_not_lowering hr s
  unfold Sys2Proof.Machine.startBlocks
  generalize Arm.list.foldl (fun t a => Sys2Proof.Machine.startArm raise a t) s = u at f1 l1
  have f2 : Frame .none .water u (Sys2Proof.Machine.evaluateZones (Sys2Proof.Machine.startWater u)) :=
    (Frame.startWater u).andThen (Cascade.evaluateZones (Sys2Proof.Machine.startWater u) id)
  have f3 := (f2.andThen (Cascade.needCeiling _)).andThen
    (Cascade.foldl Arm.list (fun t a => Sys2Proof.Machine.conflictTest raise a t) (fun u a => Cascade.conflictTest hr a u) _)
  exact ⟨(Cascade.to f1).trans f3, fun a h => l1 a (f3.lowering rfl a h)⟩

theorem Frame.leaveStarting {raise : Raiser} (hr : ∀ r u, Cascade u (raise r u)) (lost : Bool) (s : State) :
    Frame .none .any (startRunning lost s) (leaveStarting lost raise s) := by
  obtain ⟨f, hl⟩ := Frame.startBlocks hr (startRunning lost s)
  rw [leaveStarting_eq]
  split
  · have k := hr ((Sys2Proof.Machine.startBlocks raise (startRunning lost s)).raiseOf .none
      (.clockFault (Sys2Proof.Machine.startBlocks raise (startRunning lost s)).clock.lastCycles))
      (Sys2Proof.Machine.startBlocks raise (startRunning lost s))
    exact (f.any.andThen k).trans (Frame.enterSafeStop hr .clockFault fun a ha => absurd (k.lowering rfl a ha) (hl a))
  · exact f.any

/-! ## Safe stop at leaving STARTING (R178) -/

theorem startBlocks_marks {raise : Raiser} (hr : ∀ r u, Cascade u (raise r u)) (s : State) :
    (startBlocks raise s).supervision.safeStop = s.supervision.safeStop ∧
      (startBlocks raise s).supervision.causes = s.supervision.causes :=
  have f := (Frame.startBlocks hr s).1
  ⟨(f.safe nofun).1, f.causes nofun⟩

theorem clockFault_marks {raise : Raiser} (hr : ∀ r u, Cascade u (raise r u)) (s : State) :
    (clockFault raise s).supervision.safeStop = true ∧
      (clockFault raise s).supervision.causes = { s.supervision.causes with clockFault := true } := by
  have k := hr (s.raiseOf .none (.clockFault s.clock.lastCycles)) s
  obtain ⟨marked, causes⟩ := enterSafeStop_marks hr .clockFault (raise (s.raiseOf .none (.clockFault s.clock.lastCycles)) s)
  exact ⟨marked, causes.trans (congrArg (SafeCauses.add · .clockFault) (k.causes nofun))⟩

theorem leaveStarting_locked_marks {raise : Raiser} (hr : ∀ r u, Cascade u (raise r u)) (s : State) :
    (leaveStarting false raise s).supervision.safeStop = s.supervision.safeStop ∧
      (leaveStarting false raise s).supervision.causes = s.supervision.causes := by
  obtain ⟨marked, causes⟩ := startBlocks_marks hr (startRunning false s)
  rw [leaveStarting_eq, if_neg Bool.false_ne_true]
  exact ⟨marked, causes⟩

theorem leaveStarting_lost_marks {raise : Raiser} (hr : ∀ r u, Cascade u (raise r u)) (s : State) :
    (leaveStarting true raise s).supervision.safeStop = true ∧
      (leaveStarting true raise s).supervision.causes = { s.supervision.causes with clockFault := true } := by
  obtain ⟨marked, causes⟩ := clockFault_marks hr (startBlocks raise (startRunning true s))
  rw [(startBlocks_marks hr (startRunning true s)).2] at causes
  rw [leaveStarting_eq, if_pos rfl]
  exact ⟨marked, causes⟩

/-! ## The arms at leaving STARTING, with no reaction bound (R110, R120) -/

/-- R110: STOWED where UP is asserted, else HALTED. -/
def Motion.start (m : Motion) : Motion := { m with state := if m.up then .stowed else .halted }

/-- R120: FAULT where UP and DOWN are both asserted. -/
def Motion.conflictTest (m : Motion) : Motion :=
  if m.up && m.down && m.state != .fault then
    { m with state := .fault, origin := .none, settleTimer := .stopped, pinnedTimer := .stopped }
  else m

theorem startArm_moves {raise : Raiser} (hr : Plainly raise) {s : State} (hn : NoReactions s) (a : Arm) :
    Moves a (s.arm a).motion.start s (startArm raise a s) :=
  modArm_announce_moves hr hn a (fun u => { u with state := if (s.arm a).up then .stowed else .halted }) _ [] none

theorem conflictTest_motion {raise : Raiser} (hr : Plainly raise) {s : State} (hn : NoReactions s) (a : Arm) :
    NoReactions (conflictTest raise a s) ∧ ((conflictTest raise a s).arm a).motion = (s.arm a).motion.conflictTest ∧
      ∀ b, b ≠ a → ((conflictTest raise a s).arm b).motion = (s.arm b).motion := by
  have hc : (s.arm a).conflicts = ((s.arm a).motion.up && (s.arm a).motion.down && (s.arm a).motion.state != .fault) := rfl
  unfold conflictTest Motion.conflictTest
  rw [hc]
  split
  · have k := faultArm_moves hr hn a .switchConflict
    exact ⟨k.unbound hn, k.arm, k.others⟩
  · exact ⟨hn, rfl, fun _ _ => rfl⟩

theorem startWater_rest (s : State) : (startWater s).arms = s.arms ∧ (startWater s).reactions = s.reactions := by
  have key : ∀ u : State, (handWater u).arms = u.arms ∧ (handWater u).reactions = u.reactions := fun u => by
    have k := Calm.evaluateZones (u.modSpray fun v => { v with waterState := u.water.state })
    have e := evaluateZones_rest (u.modSpray fun v => { v with waterState := u.water.state })
    unfold handWater sprayTakesWater
    dsimp only
    split
    · exact ⟨e.2.1, k.reactions⟩
    · exact ⟨e.2.1, k.reactions⟩
  exact key _

theorem startBlocks_motions {raise : Raiser} (hr : Plainly raise) {s : State} (hn : NoReactions s) :
    NoReactions (startBlocks raise s) ∧
      ∀ a, ((startBlocks raise s).arm a).motion = (s.arm a).motion.start.conflictTest := by
  obtain ⟨n1, m1⟩ := foldl_arms (P := NoReactions) (F := fun _ m => m.start) (fun a t h =>
    have k := startArm_moves hr h a
    ⟨k.unbound h, k.arm, k.others⟩) hn
  unfold startBlocks
  generalize Arm.list.foldl (fun t a => startArm raise a t) s = u at n1 m1
  obtain ⟨wa, wr⟩ := startWater_rest u
  have k := (Calm.evaluateZones (startWater u)).trans (Calm.needCeiling _)
  have nw : NoReactions (startWater u) := fun e => by rw [wr]; exact n1 e
  obtain ⟨n2, m2⟩ := foldl_arms (P := NoReactions) (F := fun _ m => m.conflictTest)
    (fun a t h => conflictTest_motion hr h a) (k.unbound nw)
  refine ⟨n2, fun a => (m2 a).trans ?_⟩
  rw [k.arms a nofun, State.arm, wa, ← State.arm, m1 a]

theorem Motion.start_conflictTest_state (m : Motion) : m.start.conflictTest.state =
    if m.up && m.down then .fault else if m.up then .stowed else .halted := by
  have hf : (m.start.state != .fault) = true := by
    unfold Motion.start
    cases m.up <;> rfl
  unfold Motion.conflictTest
  rw [hf, Bool.and_true, show m.start.up = m.up from rfl, show m.start.down = m.down from rfl]
  split
  · rfl
  · rfl

/-- The arms of a part that has locked: their states by the raw levels of UP and DOWN. -/
theorem leaveStarting_locked_arms {raise : Raiser} (hr : Plainly raise) {s : State} (hn : NoReactions s) :
    NoReactions (leaveStarting false raise s) ∧ ∀ a, ((leaveStarting false raise s).arm a).state =
      if (s.switches.up.get a).raw && (s.switches.down.get a).raw then .fault
      else if (s.switches.up.get a).raw then .stowed else .halted := by
  have unbound : NoReactions (startRunning false s) := hn
  obtain ⟨hnu, moved⟩ := startBlocks_motions hr unbound
  rw [leaveStarting_eq, if_neg Bool.false_ne_true]
  refine ⟨hnu, fun a => ?_⟩
  have up : ((startRunning false s).arm a).motion.up = (s.switches.up.get a).raw := by cases a <;> rfl
  have down : ((startRunning false s).arm a).motion.down = (s.switches.down.get a).raw := by cases a <;> rfl
  rw [← up, ← down, ← Motion.start_conflictTest_state]
  exact congrArg Motion.state (moved a)

/-! ## Settled: leaving STARTING -/

theorem exec_leaveStarting {s : State} (h : s.clock.phase = .locking) (lost : Bool) :
    exec (if lost then .pllLockTimeout else .pllLocked) s = .next (finish (leaveStarting lost raiseFactor s)) := by
  cases lost
  · exact congrArg Host.Outcome.next (if_pos h)
  · exact congrArg Host.Outcome.next (if_pos h)

/-- The end of the event in which the part leaves STARTING. -/
theorem leaveStarting_ends {s : State} (hq : Quiet s) (lost : Bool) :
    ∃ t : State, finish (leaveStarting lost raiseFactor s) = t.modWork (fun _ => Work.clear) ∧
      Cascade (leaveStarting lost raiseFactor s) t ∧
      (NoReactions (leaveStarting lost raiseFactor s) → Calm none (leaveStarting lost raiseFactor s) t) := by
  have f := Frame.leaveStarting Cascade.raiseFactor lost s
  exact ⟨_, finish_calm (settle_reset (f.pendingReset.trans hq.noReset) (f.reset hq.noReset (congrArg Work.reset hq.work))),
    Cascade.settleAll _, Calm.settleAll⟩

theorem startRunning_link (lost : Bool) (s : State) (l : Station) : (startRunning lost s).links.get l = { s.links.get l with
    state := if (s.links.get l).chipSelectLow then .disregard else .idle } := PerStation.get_map _ _ l

theorem startRunning_input (lost : Bool) (s : State) (i : Switch) : (startRunning lost s).switches.input i =
    ⟨(s.switches.input i).raw, (s.switches.input i).raw, .stopped⟩ := by
  cases i
  case up a | down a | contact a => exact PerArm.get_map _ _ a
  all_goals rfl

theorem startRunning_channel (lost : Bool) (s : State) (ch : Channel) : (startRunning lost s).capture.channel ch =
    { s.capture.channel ch with timer := .running (s.capture.channel ch).interval } := by
  cases ch
  case brush a => exact PerArm.get_map _ _ a
  all_goals rfl

/-- Settles O13: the part that runs is `startRunning`'s, and what follows keeps of it what the statement names. -/
theorem startingFollowsTheClockTree : Obligations.StartingFollowsTheClockTree := by
  refine ⟨fun s => ⟨fun ha hp => ?_, fun hp => ?_⟩, fun s hq hp lost => ⟨_, exec_leaveStarting hp lost, ?_⟩⟩
  · refine congrArg Host.Outcome.next ((if_pos ha).trans ?_)
    simp only [State.modClock, hp, if_true]
  · refine congrArg Host.Outcome.next ?_
    simp only [State.modClock, hp, if_true]
  · obtain ⟨t, ht, k, calm⟩ := leaveStarting_ends hq lost
    rw [ht]
    have f := (Frame.leaveStarting Cascade.raiseFactor lost s).andThen k
    refine ⟨f.clock, f.time, f.pending, f.claims, f.attendance, fun l => ?_, f.mode, fun i => ?_, fun ch => ?_,
      fun hl => ?_, fun hl => ?_⟩
    · rw [State.modWork_links, f.links, startRunning_link]
    · rw [State.modWork_switches, f.switches, startRunning_input]
    · rw [State.modWork_capture, f.capture, startRunning_channel]
    · subst hl
      obtain ⟨safe, causes⟩ := leaveStarting_lost_marks Cascade.raiseFactor s
      exact ⟨(k.safe nofun).1.trans safe, (k.causes nofun).trans causes⟩
    · subst hl
      obtain ⟨safe, causes⟩ := leaveStarting_locked_marks Cascade.raiseFactor s
      refine ⟨(k.safe nofun).1.trans safe, (k.causes nofun).trans causes, fun hn a => ?_⟩
      obtain ⟨unbound, arms⟩ := leaveStarting_locked_arms raiseFactor_plainly hn
      exact (congrArg Motion.state ((calm unbound).arms a nofun)).trans (arms a)

end Sys2Proof.Machine
end

section
/-! PROOFS. What a step is asked to keep, and how a request and an event keep it. -/

namespace Sys2Proof.Machine

set_option Elab.async false

/-! ## The claim table and the attendance records -/

/-- The claim table and the attendance records stand. -/
structure RollKept (s t : State) : Prop where
  claims : t.claims = s.claims
  attendance : t.attendance = s.attendance

theorem RollKept.refl (s : State) : RollKept s s := ⟨rfl, rfl⟩

theorem RollKept.trans {s t u : State} (h : RollKept s t) (k : RollKept t u) : RollKept s u :=
  ⟨k.claims.trans h.claims, k.attendance.trans h.attendance⟩

theorem Frame.roll {x : Exc} {k : Reach} {s t : State} (f : Frame x k s t) : RollKept s t := ⟨f.claims, f.attendance⟩

theorem RollKept.claimLaw {s t : State} (k : RollKept s t) (h : claimLaw s) : claimLaw t := fun g => by
  rw [k.claims, show t.attends = s.attends from funext (State.attends_congr k.attendance)]
  exact h g

/-- R28 for one group where no station that attended has ceased to. -/
theorem Claim.lawful_mono {c : Claim} {g : Group} {p q : Station → Bool} (h : c.lawful g p)
    (hpq : ∀ x, p x = true → q x = true) : c.lawful g q := by
  obtain ⟨few, nodup, holder, free, attend⟩ := h
  exact ⟨few, nodup, holder, free, fun x hx => ⟨hpq x (attend x hx).1, (attend x hx).2⟩⟩

/-- One group's entry changed within its law. -/
theorem claimLaw.modClaim {s : State} (h : claimLaw s) (g : Group) (f : Claim → Claim)
    (hf : (f (s.claims.get g)).lawful g s.attends) : claimLaw (s.modClaim g f) := fun k => by
  show ((s.claims.set g (f (s.claims.get g))).get k).lawful k s.attends
  rw [PerGroup.get_set_eq]
  split
  · rename_i e
    subst e; exact hf
  · exact h k

/-- The attendance records changed, no station that attended ceasing to. -/
theorem claimLaw.attend {s t : State} (h : claimLaw s) (hc : t.claims = s.claims)
    (ha : ∀ x, s.attends x = true → t.attends x = true) : claimLaw t := fun g => by
  rw [hc]
  exact Claim.lawful_mono (h g) ha

/-- A reset frees every group (R28, R186). -/
theorem afterReset_claimLaw (k : ResetKind) (s : State) : claimLaw (afterReset k s) := fun g => by
  rw [show (afterReset k s).claims.get g = ⟨none, 0, []⟩ from PerGroup.get_all _ g]
  exact ⟨Nat.zero_le _, List.nodup_nil, nofun, fun _ => rfl, fun st h => by rcases h with h | h <;> cases h⟩

/-! ## What is kept inside an event, and by a whole step -/

/-- Inside an event: the laws of the part, and the law of the claim table on its own. -/
structure Upheld (s t : State) : Prop where
  laws : Inside s → Inside t
  claims : claimLaw s → claimLaw t

theorem Upheld.refl (s : State) : Upheld s s := ⟨id, id⟩

theorem Upheld.trans {s t u : State} (h : Upheld s t) (k : Upheld t u) : Upheld s u :=
  ⟨k.laws ∘ h.laws, k.claims ∘ h.claims⟩

theorem Upheld.of_roll {s t : State} (h : Inside s → Inside t) (k : RollKept s t) : Upheld s t := ⟨h, k.claimLaw⟩

/-- A cascade that lowers no arm. -/
theorem Frame.upheld {k : Reach} {s t : State} (f : Frame .none k s t) (hk : k.calm = true) : Upheld s t :=
  .of_roll (fun h => h.of_calm hk f) f.roll

theorem Cascade.upheld {s t : State} (f : Cascade s t) : Upheld s t := Frame.upheld f rfl

/-- A whole step: from a lawful state to a lawful one, and the law of the claim table from any state. -/
structure Sound (s t : State) : Prop where
  laws : Lawful s → Lawful t
  claims : claimLaw s → claimLaw t

theorem Sound.refl (s : State) : Sound s s := ⟨id, id⟩

/-- A step that leaves no work open. -/
theorem Upheld.sound {s t : State} (h : Upheld s t) (hw : t.work = s.work) : Sound s t :=
  ⟨fun l => (h.laws l.inside).lawful (hw.trans l.work), h.claims⟩

/-- A reset, taken at once (R186). -/
theorem Sound.reset (k : ResetKind) (s : State) : Sound s (afterReset k s) :=
  ⟨fun l => l.inside.reset k, fun _ => afterReset_claimLaw k s⟩

/-- The end of an event, with a reset or without. -/
theorem claimLaw.finish {s : State} (h : claimLaw s) : claimLaw (finish s) := by
  have settled : claimLaw (settleAll s) := (Cascade.settleAll s).roll.claimLaw h
  unfold Sys2Proof.Machine.finish
  dsimp only
  split
  · exact afterReset_claimLaw _ _
  · exact settled

theorem Sound.event {f : Raiser → State → State} {s : State} (h : Upheld s (f raiseFactor s)) : Sound s (event f s) :=
  ⟨fun l => Inside.event (h.laws l.inside), fun c => (h.claims c).finish⟩

/-- A command whose event cannot occur as things stand changes nothing (log entry 1). -/
theorem Sound.guarded {p : Prop} [Decidable p] {s t : State} (h : p → Sound s t) : Sound s (if p then t else s) := by
  split
  · exact h ‹p›
  · exact .refl s

/-! ## Requests -/

/-- What an owner keeps of the requests that reach it. -/
def Owner.Upholds (f : Form) (owner : Owner) : Prop :=
  ∀ st ps s, (f.exempt = true ∨ s.attends st = true) → f.roleOk st ps = true →
    (s.supervision.mode ≠ .starting → Inside s → Inside (owner st ps s).state) ∧
      (claimLaw s → claimLaw (owner st ps s).state)

theorem Owner.Upholds.keeps {f : Form} {owner : Owner} (h : owner.Upholds f) : owner.Keeps f :=
  fun st ps s i hm ha _ hr => (h st ps s ha hr).1 hm i

/-- An owner that keeps the laws whatever the stages before it have shown. -/
theorem Owner.Upholds.always {f : Form} {owner : Owner} (h : ∀ st ps s, Upheld s (owner st ps s).state) :
    owner.Upholds f := fun st ps s _ _ => ⟨fun _ => (h st ps s).laws, (h st ps s).claims⟩

theorem Owner.Upholds.claimTest {f : Form} {owner : Owner} (h : owner.Upholds f) (g : Group) :
    (claimTest g owner).Upholds f := fun st ps s ha hr => by
  unfold Sys2Proof.Machine.claimTest
  split
  · exact h st ps s ha hr
  · exact ⟨fun _ => id, id⟩

/-- A request that passes the commissioning test is decided in OPERATIONAL (R10). -/
theorem Owner.Upholds.commissionTest {f : Form} {owner : Owner}
    (h : ∀ st ps s, s.supervision.mode = .operational → Inside s → Inside (owner st ps s).state)
    (k : ∀ st ps s, RollKept s (owner st ps s).state) : (commissionTest owner).Upholds f := fun st ps s _ _ => by
  unfold Sys2Proof.Machine.commissionTest
  split
  · exact ⟨fun _ => id, id⟩
  · rename_i hc
    refine ⟨fun hm => h st ps s ?_, (k st ps s).claimLaw⟩
    cases e : s.supervision.mode
    · exact absurd e hm
    · exact absurd e hc
    · rfl

theorem Upheld.modLink {s : State} (st : Station) (f : Link → Link)
    (hf : (s.links.get st).state = .offline → (f (s.links.get st)).state = .offline) : Upheld s (s.modLink st f) :=
  .of_roll (fun h => h.modLink st f fun hm => hf (h.starting.2 hm st)) ⟨rfl, rfl⟩

theorem Upheld.place (st : Station) (r : Response) (s : State) : Upheld s (place st r s) := .modLink st _ id

theorem Upheld.riseUntaken (st : Station) (s : State) : Upheld s (riseUntaken st s) :=
  .modLink st _ fun e => by rw [e]

/-- The laws' frame-end lemma for the law of the claim table alone. -/
theorem claimLaw.atFrameEnd {s : State} (h : claimLaw s) (st : Station) (bytes : List Byte) {k : State → State}
    (hk : ∀ t, claimLaw t → claimLaw (k t)) : claimLaw (atFrameEnd st bytes k s) := by
  unfold Sys2Proof.Machine.atFrameEnd
  split
  · exact hk _ (RollKept.claimLaw ⟨rfl, rfl⟩ h)
  · exact (Upheld.riseUntaken st s).claims h

theorem tell_attends (st : Station) (s : State) (x : Station) : (tell st s).attends x = s.attends x := by
  show (((s.attendance.set st { s.attendance.get st with prepared := false }).get x).state == .attending) = _
  rw [PerStation.get_set_eq]
  split
  · rename_i e
    rw [e]; rfl
  · rfl

theorem Upheld.tell (st : Station) (s : State) : Upheld s (tell st s) :=
  ⟨fun h => h.tell st, fun h => h.attend rfl fun x hx => (tell_attends st s x).trans hx⟩

theorem claimLaw.serve {s : State} (h : claimLaw s) {f : Form} {owner : Owner} (ho : owner.Upholds f) (st : Station)
    (tag : Byte) (ps : List Byte) : claimLaw (serve f owner st tag ps s) := by
  unfold Sys2Proof.Machine.serve
  dsimp only
  refine h.atFrameEnd st _ fun t ht => ?_
  split
  · exact (Upheld.place _ _ _).claims ht
  · refine (Upheld.place _ _ _).claims ?_
    have told := (Upheld.tell st t).claims ht
    rcases decideRequest_state f owner st ps (Sys2Proof.Machine.tell st t) with e | ⟨ha, _, hr, e⟩
    · rw [e]; exact told
    · rw [e]; exact (ho st ps _ ha hr).2 told

/-- A request's frame end opens no work where its owner opens none. -/
theorem serve_work {f : Form} {owner : Owner}
    (hw : ∀ st ps s, (f.exempt = true ∨ s.attends st = true) → (owner st ps s).state.work = s.work) (st : Station)
    (tag : Byte) (ps : List Byte) (s : State) : (serve f owner st tag ps s).work = s.work := by
  unfold Sys2Proof.Machine.serve Sys2Proof.Machine.atFrameEnd
  dsimp only
  split
  · split
    · rfl
    · unfold serveGood
      dsimp only
      rcases decideRequest_state f owner st ps
        (Sys2Proof.Machine.tell st (s.modLink st fun k => k.endFrame (requestFrame f.code tag ps))) with e | ⟨ha, _, _, e⟩
      · show (decideRequest f owner st ps _).state.work = _
        rw [e]; rfl
      · show (decideRequest f owner st ps _).state.work = _
        rw [e]; exact hw _ _ _ ha
  · rfl

theorem Sound.serve {f : Form} {owner : Owner} (ho : owner.Upholds f)
    (hw : ∀ st ps s, (f.exempt = true ∨ s.attends st = true) → (owner st ps s).state.work = s.work) (l : Station)
    (tag : Byte) (ps : List Byte) (s : State) : Sound s (serve f owner l tag ps s) :=
  ⟨fun h => (h.inside.serve ho.keeps l tag ps).lawful ((serve_work hw l tag ps s).trans h.work),
    fun h => h.serve ho l tag ps⟩

/-- A request that its owner answers from the state as it stands. -/
theorem Sound.reads {f : Form} {owner : Owner} (ho : ∀ st ps s, (owner st ps s).state = s) (l : Station) (tag : Byte)
    (ps : List Byte) (s : State) : Sound s (Sys2Proof.Machine.serve f owner l tag ps s) :=
  .serve (.always fun st ps s => by rw [ho]; exact .refl s) (fun st ps s _ => by rw [ho]) l tag ps s

theorem Sound.serveEvent {f : Form} {owner : Raiser → Owner} (ho : (owner raiseFactor).Upholds f) (l : Station)
    (tag : Byte) (ps : List Byte) (s : State) : Sound s (serveEvent f owner l tag ps s) :=
  ⟨fun h => h.inside.serveEvent ho.keeps l tag ps, fun h => (h.serve ho l tag ps).finish⟩

end Sys2Proof.Machine
end

section
/-! PROOFS. One block changed, and the laws of the part inside an event. -/

namespace Sys2Proof.Machine

set_option Elab.async false

/-- The attendance records and the stations' factor states changed, no station that attended ceasing to. -/
theorem Inside.modStations {s : State} (h : Inside s) (p : PerStation Attendance) (n : PerStation StationNotices)
    (hp : ∀ x, s.attends x = true → ((p.get x).state == .attending) = true)
    (hn : ∀ x, (n.get x).queue.length ≤ 16) : Inside { s with attendance := p, notices := n } where
  claims := claimLaw.attend h.claims rfl hp
  draft := fun d hd => hp _ (h.draft d hd)
  store := h.store
  setpoint := h.setpoint
  outputs := h.outputs
  copies := fun x a => match x with
    | .travel => h.copies .travel a
    | .spray => h.copies .spray a
    | .water => h.copies .water a
    | .supervision => h.copies .supervision a
  waterCopy := h.waterCopy
  frostCopy := h.frostCopy
  valves := h.valves
  estimate := h.estimate
  flow := h.flow
  queues := hn
  safeStop := h.safeStop
  idle := h.idle
  commission := h.commission
  starting := h.starting

/-- One attendance record changed; a station that attended still does. -/
theorem Upheld.modAttend (s : State) (st : Station) (f : Attendance → Attendance)
    (hf : s.attends st = true → ((f (s.attendance.get st)).state == .attending) = true) : Upheld s (s.modAttend st f) := by
  have stays : ∀ x, s.attends x = true →
      (((s.attendance.set st (f (s.attendance.get st))).get x).state == .attending) = true := fun x hx => by
    rw [PerStation.get_set_eq]
    split
    · rename_i e
      exact hf (e ▸ hx)
    · exact hx
  exact ⟨fun h => h.modStations _ s.notices stays h.queues, fun h => h.attend rfl stays⟩

/-- One station's factor state changed, its queue of at most 16 staying so (R168). -/
theorem Upheld.modStation (s : State) (st : Station) (f : StationNotices → StationNotices)
    (hf : (s.notices.get st).queue.length ≤ 16 → (f (s.notices.get st)).queue.length ≤ 16) :
    Upheld s (s.modStation st f) :=
  .of_roll (fun h => h.modStations s.attendance _ (fun _ hx => hx) fun x => by
    rw [PerStation.get_set_eq]
    split
    · exact hf (h.queues st)
    · exact h.queues x) ⟨rfl, rfl⟩

/-- Links, clock, time, captures, reactions and the queue may change freely, but for STARTING. -/
theorem Upheld.rest (s : State) (q : List Instr) (w : Time) (c : Clock) (l : PerStation Link) (p : Capture)
    (r : Vector (Option Binding) 8) (n : Nat)
    (hs : startingLaw s →
      startingLaw { s with pending := q, time := w, clock := c, links := l, capture := p, reactions := r, freeCount := n }) :
    Upheld s { s with pending := q, time := w, clock := c, links := l, capture := p, reactions := r, freeCount := n } :=
  .of_roll (fun h => h.rest q w c l p r n (hs h.starting)) ⟨rfl, rfl⟩

theorem Upheld.modCapture (s : State) (f : Capture → Capture) : Upheld s (s.modCapture f) :=
  .rest s s.pending s.time s.clock s.links (f s.capture) s.reactions s.freeCount id

theorem Upheld.modReactions (s : State) (f : Vector (Option Binding) 8 → Vector (Option Binding) 8) :
    Upheld s (s.modReactions f) :=
  .rest s s.pending s.time s.clock s.links s.capture (f s.reactions) s.freeCount id

/-- The clock changed while the part runs or while it does not (R178). -/
theorem Upheld.modClock (s : State) (f : Clock → Clock) (hf : (f s.clock).phase ≠ .running ↔ s.clock.phase ≠ .running) :
    Upheld s (s.modClock f) :=
  .rest s s.pending s.time (f s.clock) s.links s.capture s.reactions s.freeCount fun h => ⟨h.1.trans hf.symm, h.2⟩

/-- A switch input changed but for the debounced level of FROST. -/
theorem Upheld.modSwitches (s : State) (f : Switches → Switches)
    (hf : (f s.switches).frost.level = s.switches.frost.level) : Upheld s (s.modSwitches f) :=
  .of_roll (fun h => { h with
    copies := fun x a => match x with
      | .travel => h.copies .travel a
      | .spray => h.copies .spray a
      | .water => h.copies .water a
      | .supervision => h.copies .supervision a
    frostCopy := h.frostCopy.trans hf.symm }) ⟨rfl, rfl⟩

/-- Work opened that posts no lift and no reallocation. -/
theorem Upheld.modWork (s : State) (f : Work → Work) (hl : (f s.work).newLifts = s.work.newLifts)
    (hr : (f s.work).realloc = s.work.realloc) : Upheld s (s.modWork f) :=
  .of_roll (fun h => { h with
    copies := fun x a => match x with
      | .travel => h.copies .travel a
      | .spray => h.copies .spray a
      | .water => h.copies .water a
      | .supervision => h.copies .supervision a
    flow := by
      obtain ⟨lists, nodup, queued, grants⟩ := h.flow
      refine ⟨lists, ?_, ?_, ?_⟩
      · show (f s.work).newLifts.Nodup
        rw [hl]; exact nodup
      · show ∀ a ∈ (f s.work).newLifts, _
        rw [hl]; exact queued
      · show (f s.work).realloc = false → _
        rw [hr]; exact grants }) ⟨rfl, rfl⟩

/-- The Supervision Unit's record changed with its mode, its safe stop and its copies as they were, the commissioning law
and the account's bound still met. -/
theorem Inside.modSupervision {s : State} (h : Inside s) (f : Supervision → Supervision)
    (hm : (f s.supervision).mode = s.supervision.mode) (hs : (f s.supervision).safeStop = s.supervision.safeStop)
    (hd : (f s.supervision).armDone = s.supervision.armDone) (hc : commissionLaw (s.modSupervision f))
    (he : estimateLaw (s.modSupervision f)) : Inside (s.modSupervision f) := { h with
  copies := fun x a => match x with
    | .travel => h.copies .travel a
    | .spray => h.copies .spray a
    | .water => h.copies .water a
    | .supervision => by
      show (f s.supervision).armDone.get a = _
      rw [hd]; exact h.copies .supervision a
  estimate := he
  safeStop := by
    obtain ⟨entered, spray, travel⟩ := h.safeStop
    exact ⟨fun e => entered (hs.symm.trans e), spray.trans hs.symm, travel.trans hs.symm⟩
  idle := fun e => h.idle (hm ▸ e)
  commission := hc
  starting := by
    obtain ⟨phase, links⟩ := h.starting
    exact ⟨by rw [State.modSupervision_supervision, hm]; exact phase, fun e => links (hm.symm.trans e)⟩ }

/-- The Supervision Unit's record changed but for mode, items, committed mark, safe stop and copies. -/
theorem Upheld.modSupervision (s : State) (f : Supervision → Supervision)
    (hm : (f s.supervision).mode = s.supervision.mode) (hs : (f s.supervision).safeStop = s.supervision.safeStop)
    (hd : (f s.supervision).armDone = s.supervision.armDone) (hi : (f s.supervision).items = s.supervision.items)
    (hc : (f s.supervision).committed = s.supervision.committed) : Upheld s (s.modSupervision f) := by
  have items : ∀ k, (s.modSupervision f).item? k = s.item? k := fun k => by
    show (f s.supervision).item k = s.supervision.item k
    unfold Supervision.item
    rw [hi]
  refine .of_roll (fun h => h.modSupervision f hm hs hd ⟨fun e => ?_, fun e k h1 h2 => ?_⟩ ?_) ⟨rfl, rfl⟩
  · exact hc.trans (h.commission.1 (hm.symm.trans e))
  · rw [items]
    exact h.commission.2 (hc.symm.trans e) k h1 h2
  · show s.water.estimate ≤ ((s.modSupervision f).item? 22).getD 0
    rw [items]
    exact h.estimate

/-- A draft opened, written or closed, its owner attending (R26). -/
theorem Inside.setDraft {s : State} (h : Inside s) {d : Draft} (hd : s.attends d.owner = true) : Inside (setDraft d s) :=
  have store : Profiles.storeOk { s.profile with draft := some d } := h.store
  h.modProfile (fun p => { p with draft := some d }) (fun _ e => Option.some.inj e ▸ hd) rfl store (fun i => i)

/-- A slot that is in no use but READY takes a READY record or becomes EMPTY (R51, R53). -/
theorem Inside.setSlot {s : State} (h : Inside s) (n : SlotNo) (x : Slot)
    (hx : ∀ u, u ≠ .ready → x.usedAs u = false) : Inside (s.setSlot n x) := by
  have none : ∀ (m : SlotNo) u, u ≠ .ready → (s.profile.slots.set n x)[m].usedAs u = true →
      s.profile.slots[m].usedAs u = true := fun m u hu hm => by
    have e : (s.profile.slots.set n x)[m] = if n = m then x else s.profile.slots[m] := by
      show (s.profile.slots.set n x)[(m : Nat)] = _
      rw [Vector.getElem_set]
      simp only [Fin.val_inj]
      rfl
    rw [e] at hm
    split at hm
    · exact absurd ((hx u hu).symm.trans hm) nofun
    · exact hm
  have unused : ∀ {u}, u ≠ .ready → (∀ m : SlotNo, s.profile.slots[m].usedAs u = false) →
      ∀ m : SlotNo, (s.profile.slots.set n x)[m].usedAs u = false := fun {u} hu old m => by
    cases e : (s.profile.slots.set n x)[m].usedAs u
    · rfl
    · exact absurd ((old m).symm.trans (none m u hu e)) nofun
  obtain ⟨once, free⟩ := h.store
  refine h.modProfile (fun p => { p with slots := p.slots.set n x }) h.draft rfl
    ⟨fun u hu m k hm hk => once u hu m k (none m u hu hm) (none k u hu hk), fun u hu => unused ?_ (free u hu)⟩
    (fun idle m u hu => unused hu (fun m => idle m u hu) m)
  have hu : u ∈ ChangeKind.unused (s.profile.changeover.map Changeover.kind) := hu
  intro e
  subst e
  revert hu
  cases s.profile.changeover.map Changeover.kind with
  | none => decide
  | some k => cases k <;> decide

end Sys2Proof.Machine
end

section
/-! PROOFS. What the owners of the requests keep. -/

namespace Sys2Proof.Machine

set_option Elab.async false

/-! ## Claims and attendance (R18 to R37) -/

/-- An owner for the group that a claim request names. -/
theorem Owner.Upholds.forGroup {f : Form} {k : Group → Owner}
    (h : ∀ g st ps s, groupOf (byteAt ps 0) = some g → (f.exempt = true ∨ s.attends st = true) → f.roleOk st ps = true →
      Upheld s (k g st ps s).state) : (forGroup k).Upholds f := fun st ps s ha hr => by
  unfold Sys2Proof.Machine.forGroup
  split
  · rename_i g hg
    exact ⟨fun _ => (h g st ps s hg ha hr).laws, (h g st ps s hg ha hr).claims⟩
  · exact ⟨fun _ => id, id⟩

/-- A claim request that reaches its owner comes from an attending station permitted for the group (R7, R28). -/
theorem Owner.Upholds.ofClaim {code : Byte} {k : Group → Owner}
    (h : ∀ g st ps s, s.attends st = true → permitted g st = true → Upheld s (k g st ps s).state) :
    (Sys2Proof.Machine.forGroup k).Upholds (claimForm code) :=
  .forGroup fun g st ps s hg ha hr => by
    refine h g st ps s (ha.resolve_left nofun) ?_
    have role : (match groupOf (byteAt ps 0) with
      | some g => permitted g st
      | none => false) = true := hr
    rw [hg] at role
    exact role

theorem permitted_cab (g : Group) : permitted g .c = true := by cases g <;> rfl

/-- One group's entry changed within its law, whichever law is asked for. -/
theorem Upheld.modClaim (s : State) (g : Group) (f : Claim → Claim)
    (hf : (s.claims.get g).lawful g s.attends → (f (s.claims.get g)).lawful g s.attends) : Upheld s (s.modClaim g f) :=
  ⟨fun h => h.modClaim g f (hf (h.claims g)), fun h => claimLaw.modClaim h g f (hf (h g))⟩

theorem Upheld.giveGroup {s : State} {g : Group} {st : Station} (ha : s.attends st = true)
    (hp : permitted g st = true) : Upheld s (giveGroup g st s) :=
  .modClaim s g _ fun h => Claim.give_lawful h ha hp s.time

theorem claimTryOwner_upholds : (forGroup claimTryOwner).Upholds Form.claimTry := .ofClaim fun g st _ s ha hp => by
  unfold claimTryOwner
  dsimp only
  split
  · exact .giveGroup ha hp
  · split
    · exact .refl s
    · exact .refl s

theorem claimWaitOwner_upholds : (forGroup claimWaitOwner).Upholds Form.claimWait := .ofClaim fun g st _ s ha hp => by
  unfold claimWaitOwner
  dsimp only
  split
  · exact .giveGroup ha hp
  · rename_i x hx
    split
    · exact .refl s
    · rename_i hn
      simp only [Bool.or_eq_true, decide_eq_true_eq, List.contains_eq_mem, not_or] at hn
      exact .modClaim s g (fun c => { c with waiting := c.waiting ++ [st] }) fun h =>
        Claim.wait_lawful h hx hn.1 hn.2 ha hp

theorem withdrawOwner_upholds : (forGroup withdrawOwner).Upholds Form.withdrawWait := .ofClaim fun g st _ s _ _ => by
  unfold withdrawOwner
  split
  · exact .modClaim s g (fun c => { c with waiting := c.waiting.filter (· != st) }) fun h => Claim.withdraw_lawful h st
  · exact .refl s

theorem discardDraftOf_roll {raise : Raiser} (hr : ∀ r u, Cascade u (raise r u)) (st : Station) (s : State) :
    RollKept s (discardDraftOf raise st s) := by
  unfold discardDraftOf
  split
  · split
    · exact RollKept.trans (t := closeDraft s) ⟨rfl, rfl⟩ (hr _ _).roll
    · exact .refl s
  · exact .refl s

theorem discardDraftOf_upheld {raise : Raiser} (hr : ∀ r u, Cascade u (raise r u)) (st : Station) (s : State) :
    Upheld s (discardDraftOf raise st s) := .of_roll (fun h => h.discardDraftOf hr st) (discardDraftOf_roll hr st s)

theorem lostGroup_upheld {raise : Raiser} (hr : ∀ r u, Cascade u (raise r u)) (g : Group) (st : Station) (s : State) :
    Upheld s (lostGroup raise g st s) := by
  unfold lostGroup
  split
  · exact (Cascade.travelHolderGone s).upheld
  · exact discardDraftOf_upheld hr st s
  · exact .refl s

/-- R30: a group handed on, its new holder told, the consequences for the one before. -/
theorem handOn_upheld {raise : Raiser} (hr : ∀ r u, Cascade u (raise r u)) {s t : State} (h : Upheld s t) (g : Group)
    (why : Handover) (oldest : Option Station) (st : Station) :
    Upheld s (lostGroup raise g st (grantRaise raise g why oldest t)) :=
  (h.trans (grantRaise_frame hr g why oldest t).upheld).trans (lostGroup_upheld hr g st _)

theorem holds_iff (s : State) (st : Station) (g : Group) : s.holds st g = true ↔ (s.claims.get g).holder = some st :=
  beq_iff_eq

theorem releaseOwner_upholds {raise : Raiser} (hr : ∀ r u, Cascade u (raise r u)) :
    (forGroup (releaseOwner raise)).Upholds Form.release := .ofClaim fun g st _ s _ _ => by
  unfold releaseOwner
  split
  · exact handOn_upheld hr (.modClaim s g _ fun h => Claim.passOn_lawful h s.time) g _ _ st
  · exact .refl s

theorem yieldOwner_upholds {raise : Raiser} (hr : ∀ r u, Cascade u (raise r u)) :
    (forGroup (yieldOwner raise)).Upholds Form.yieldGroup := .ofClaim fun g st _ s _ _ => by
  unfold yieldOwner
  dsimp only
  split
  · rename_i h
    obtain ⟨holds, waits⟩ := Bool.and_eq_true_iff.mp h
    refine handOn_upheld hr (.modClaim s g _ fun l => ?_) g _ _ st
    exact Claim.yieldBy_lawful l ((holds_iff s st g).mp holds) (fun e => by rw [e] at waits; cases waits) s.time
  · exact .refl s

theorem overrideOwner_upholds {raise : Raiser} (hr : ∀ r u, Cascade u (raise r u)) :
    (forGroup (overrideOwner raise)).Upholds Form.override := .forGroup fun g st _ s _ ha hro => by
  have attends : s.attends st = true := ha.resolve_left nofun
  have cab : st = .c := beq_iff_eq.mp (Bool.and_eq_true_iff.mp hro).1
  subst cab
  unfold overrideOwner
  dsimp only
  split
  · exact .giveGroup attends (permitted_cab g)
  · rename_i x hx
    split
    · exact .refl s
    · rename_i hne
      exact Upheld.trans (.modClaim s g _ fun h => Claim.overrideBy_lawful h hx hne attends (permitted_cab g) s.time)
        (hr _ _).upheld

theorem reportInOwner_upholds {raise : Raiser} (hr : ∀ r u, Cascade u (raise r u)) :
    (reportInOwner raise).Upholds Form.reportIn := .always fun st ps s => by
  unfold reportInOwner
  split
  · exact .refl s
  · split
    · exact .refl s
    · exact (Upheld.modAttend s st _ fun _ => rfl).trans (hr _ _).upheld

theorem renew_state (v : Attendance) : v.renew.state = v.state := by
  unfold Attendance.renew
  split <;> rfl

/-! ## The teardown (R25 to R27) -/

/-- R25 for one group's entry: the station gone from it. -/
def Claim.leave (c : Claim) (st : Station) (now : Time) : Claim :=
  if c.holder = some st then c.passOn now else { c with waiting := c.waiting.filter (· != st) }

theorem Claim.leave_lawful {c : Claim} {g : Group} {at' : Station → Bool} (h : c.lawful g at') (st : Station)
    (now : Time) : (c.leave st now).lawful g at' := by
  unfold Claim.leave
  split
  · exact Claim.passOn_lawful h now
  · exact Claim.withdraw_lawful h st

theorem leaveGroup_time {raise : Raiser} (hr : ∀ r u, Cascade u (raise r u)) (st : Station) (w : Handover) (s : State)
    (g : Group) : (leaveGroup raise st w s g).time = s.time ∧ (leaveGroup raise st w s g).attendance = s.attendance := by
  unfold leaveGroup
  dsimp only
  split
  · have f := grantRaise_frame hr g w (s.claims.get g).waiting.head? (s.modClaim g fun c => c.passOn s.time)
    split
    · have k := f.trans (Cascade.travelHolderGone _)
      exact ⟨k.time, k.attendance⟩
    · exact ⟨f.time, f.attendance⟩
  · exact ⟨rfl, rfl⟩

/-- R25 over a list of groups: each of them without the station, the others as they were. -/
theorem leaveGroups_claims {raise : Raiser} (hr : ∀ r u, Cascade u (raise r u)) (st : Station) (w : Handover)
    {l : List Group} (hl : l.Nodup) (s : State) :
    (∀ g, (l.foldl (leaveGroup raise st w) s).claims.get g =
      if g ∈ l then (s.claims.get g).leave st s.time else s.claims.get g) ∧
    (l.foldl (leaveGroup raise st w) s).time = s.time ∧
    (l.foldl (leaveGroup raise st w) s).attendance = s.attendance := by
  induction l generalizing s with
  | nil => exact ⟨fun g => (if_neg nofun).symm, rfl, rfl⟩
  | cons a l ih =>
    obtain ⟨ha, hl⟩ := List.nodup_cons.mp hl
    obtain ⟨time, roll⟩ := leaveGroup_time hr st w s a
    obtain ⟨rest, restTime, restRoll⟩ := ih hl (leaveGroup raise st w s a)
    refine ⟨fun g => ?_, restTime.trans time, restRoll.trans roll⟩
    rw [List.foldl_cons, rest, time, leaveGroup_claims hr, PerGroup.get_set_eq]
    by_cases e : g = a
    · subst e
      rw [if_neg ha, if_pos rfl, if_pos List.mem_cons_self]
      rfl
    · simp only [List.mem_cons, e, false_or, if_false]

theorem mem_groupList (g : Group) : g ∈ Group.list := by cases g <;> decide

theorem leaveAll_claims {raise : Raiser} (hr : ∀ r u, Cascade u (raise r u)) (st : Station) (w : Handover) (s : State)
    (g : Group) : (Group.list.foldl (leaveGroup raise st w) s).claims.get g = (s.claims.get g).leave st s.time :=
  ((leaveGroups_claims hr st w (by decide) s).1 g).trans (if_pos (mem_groupList g))

/-- Safe stop handed on is within the widest reach, whatever the arms do (R182). -/
theorem handSafeStop_frame {raise : Raiser} (hr : ∀ r u, Cascade u (raise r u)) (s : State) :
    Frame .none .any s (handSafeStop raise s) := by
  have stopped := (Frame.safeFlag true s).1.andThen (Cascade.enterStopping (fun c => { c with safeStop := true }) _)
  have cut := stopped.trans (Frame.cutShort hr _).1
  have stowed := cut.andThen (Cascade.foldl Arm.list _ (fun u a => Cascade.stowOrder hr a u) _)
  exact stowed.trans (Frame.safeFlag true _).2.1

theorem enterSafeStop_frame {raise : Raiser} (hr : ∀ r u, Cascade u (raise r u)) (c : SafeCause) (s : State) :
    Frame .none .any s (enterSafeStop raise c s) := by
  have marked := (Frame.safeFlag true s).2.2 (s.supervision.causes.add c)
  unfold enterSafeStop
  dsimp only
  split
  · exact (marked.andThen (hr _ _)).andThen (Cascade.enterStopping _ _)
  · exact (marked.andThen (hr _ _)).trans (handSafeStop_frame hr _)

theorem enterSafeStop_roll {raise : Raiser} (hr : ∀ r u, Cascade u (raise r u)) (c : SafeCause) (s : State) :
    RollKept s (enterSafeStop raise c s) := (enterSafeStop_frame hr c s).roll

theorem enterSafeStop_upheld {raise : Raiser} (hr : ∀ r u, Cascade u (raise r u)) (c : SafeCause) (s : State) :
    Upheld s (enterSafeStop raise c s) := .of_roll (fun h => h.enterSafeStop hr c) (enterSafeStop_roll hr c s)

theorem noStationTest_frame {raise : Raiser} (hr : ∀ r u, Cascade u (raise r u)) (s : State) :
    Frame .none .any s (noStationTest raise s) := by
  unfold noStationTest
  split
  · exact enterSafeStop_frame hr _ s
  · exact .refl _ _ s

/-- The hand-over that a departure gives a group's next holder (R30). -/
def handoverOf : Departure → Handover
  | .left => .holderLeft
  | .expired => .holderLapsed

/-- A station out of the claim table and its draft closed (R25, R26). -/
def withoutStation (raise : Raiser) (st : Station) (why : Departure) (s : State) : State :=
  discardDraftOf raise st (Group.list.foldl (leaveGroup raise st (handoverOf why)) s)

/-- The departure told to the others (R26). -/
def departureTold (raise : Raiser) (st : Station) (why : Departure) (s : State) : State :=
  raise ⟨.station st, .stationLapsed why (s.attendance.get st).window, (withoutStation raise st why s).time,
    .every (some st)⟩ (withoutStation raise st why s)

/-- The station's record and factor state after its departure (R23, R24, R172). -/
def recordCleared (st : Station) (why : Departure) (s : State) : State :=
  (s.modAttend st fun v => v.departed why).modStation st fun _ => StationNotices.reset

theorem teardown_eq (raise : Raiser) (st : Station) (why : Departure) (s : State) :
    teardown raise st why s = noStationTest raise (recordCleared st why (departureTold raise st why s)) := by
  cases why <;> rfl

theorem withoutStation_claims {raise : Raiser} (hr : ∀ r u, Cascade u (raise r u)) (st : Station) (why : Departure)
    (s : State) : (∀ g, (withoutStation raise st why s).claims.get g = (s.claims.get g).leave st s.time) ∧
      (withoutStation raise st why s).attendance = s.attendance := by
  have closed := discardDraftOf_roll hr st (Group.list.foldl (leaveGroup raise st (handoverOf why)) s)
  refine ⟨fun g => ?_, closed.attendance.trans (leaveGroups_claims hr st _ (by decide) s).2.2⟩
  exact (congrArg (PerGroup.get · g) closed.claims).trans (leaveAll_claims hr st _ s g)

theorem teardown_claims {raise : Raiser} (hr : ∀ r u, Cascade u (raise r u)) (st : Station) (why : Departure) (s : State) :
    (∀ g, (teardown raise st why s).claims.get g = (s.claims.get g).leave st s.time) ∧
      (teardown raise st why s).attendance = s.attendance.set st ((s.attendance.get st).departed why) := by
  rw [teardown_eq]
  obtain ⟨claims, attendance⟩ := withoutStation_claims hr st why s
  have told : RollKept _ (departureTold raise st why s) := (hr _ (withoutStation raise st why s)).roll
  have tested := (noStationTest_frame hr (recordCleared st why (departureTold raise st why s))).roll
  refine ⟨fun g => ?_, ?_⟩
  · rw [tested.claims]
    exact (congrArg (PerGroup.get · g) told.claims).trans (claims g)
  · rw [tested.attendance]
    show (departureTold raise st why s).attendance.set st (((departureTold raise st why s).attendance.get st).departed why) = _
    rw [told.attendance, attendance]

theorem teardown_claimLaw {raise : Raiser} (hr : ∀ r u, Cascade u (raise r u)) (st : Station) (why : Departure)
    {s : State} (h : claimLaw s) : claimLaw (teardown raise st why s) := fun g => by
  obtain ⟨claims, attendance⟩ := teardown_claims hr st why s
  rw [claims g]
  obtain ⟨few, nodup, holder, free, attend⟩ := Claim.leave_lawful (h g) st s.time
  obtain ⟨holdsNot, waitsNot⟩ := Claim.leave_without (h g) st s.time
  refine ⟨few, nodup, holder, free, fun x hx => ?_⟩
  have other : x ≠ st := fun e => by
    subst e
    exact hx.elim holdsNot waitsNot
  refine ⟨?_, (attend x hx).2⟩
  show (((teardown raise st why s).attendance.get x).state == .attending) = true
  rw [attendance, PerStation.get_set_eq, if_neg other]
  exact (attend x hx).1

theorem teardown_upheld {raise : Raiser} (hr : ∀ r u, Cascade u (raise r u)) (st : Station) (why : Departure) (s : State) :
    Upheld s (teardown raise st why s) := ⟨fun h => h.teardown hr st why, fun h => teardown_claimLaw hr st why h⟩

end Sys2Proof.Machine
end

section
/-! PROOFS. What the owners of the other requests keep: they leave the claim table and the attendance records alone. -/

namespace Sys2Proof.Machine

set_option Elab.async false

/-! ## Decisions that leave the claims and the records as they are -/

/-- A decision that keeps the laws of a part that has left STARTING, and leaves claims and attendance records alone. -/
structure Decided (s t : State) : Prop where
  laws : s.supervision.mode ≠ .starting → Inside s → Inside t
  roll : RollKept s t

/-- The same, with no work opened. -/
structure Handled (s t : State) : Prop extends Decided s t where
  work : t.work = s.work

theorem Decided.refl (s : State) : Decided s s := ⟨fun _ => id, .refl s⟩
theorem Handled.refl (s : State) : Handled s s := ⟨.refl s, rfl⟩

theorem Upheld.decided {s t : State} (h : Upheld s t) (k : RollKept s t) : Decided s t := ⟨fun _ => h.laws, k⟩

theorem Frame.decided {k : Reach} {s t : State} (f : Frame .none k s t) (hk : k.calm = true) : Decided s t :=
  (f.upheld hk).decided f.roll

theorem Cascade.decided {s t : State} (f : Cascade s t) : Decided s t := Frame.decided f rfl

theorem Owner.Upholds.ofDecided {f : Form} {owner : Owner}
    (h : ∀ st ps s, (f.exempt = true ∨ s.attends st = true) → Decided s (owner st ps s).state) : owner.Upholds f :=
  fun st ps s ha _ => ⟨(h st ps s ha).laws, (h st ps s ha).roll.claimLaw⟩

theorem Sound.decided {f : Form} {owner : Raiser → Owner}
    (h : ∀ st ps s, Decided s (owner raiseFactor st ps s).state) (l : Station) (tag : Byte) (ps : List Byte) (s : State) :
    Sound s (Sys2Proof.Machine.serveEvent f owner l tag ps s) := .serveEvent (.ofDecided fun st ps s _ => h st ps s) l tag ps s

theorem Sound.handled {f : Form} {owner : Owner}
    (h : ∀ st ps s, (f.exempt = true ∨ s.attends st = true) → Handled s (owner st ps s).state) (l : Station) (tag : Byte)
    (ps : List Byte) (s : State) : Sound s (Sys2Proof.Machine.serve f owner l tag ps s) :=
  .serve (.ofDecided fun st ps s ha => (h st ps s ha).toDecided) (fun st ps s ha => (h st ps s ha).work) l tag ps s

/-! ## The tests before an owner's own (R10, R47, R113) -/

theorem claimTest_state {P : State → Prop} {g : Group} {k : Owner} {st : Station} {ps : List Byte} {s : State} (h0 : P s)
    (h : P (k st ps s).state) : P (claimTest g k st ps s).state := by
  unfold claimTest
  split
  · exact h
  · exact h0

theorem commissionTest_state {P : State → Prop} {k : Owner} {st : Station} {ps : List Byte} {s : State} (h0 : P s)
    (h : s.supervision.mode ≠ .commissioning → P (k st ps s).state) : P (commissionTest k st ps s).state := by
  unfold commissionTest
  split
  · exact h0
  · exact h ‹_›

theorem operational_of_ne {m : Mode} (h1 : m ≠ .starting) (h2 : m ≠ .commissioning) : m = .operational := by
  cases m
  · exact absurd rfl h1
  · exact absurd rfl h2
  · rfl

theorem forSlot_state {P : State → Prop} {k : SlotNo → Owner} {st : Station} {ps : List Byte} {s : State} (h0 : P s)
    (h : ∀ n, P (k n st ps s).state) : P (forSlot k st ps s).state := by
  unfold forSlot
  split
  · exact h _
  · exact h0

theorem forZone_state {P : State → Prop} {k : Zone → Owner} {st : Station} {ps : List Byte} {s : State} (h0 : P s)
    (h : ∀ z, P (k z st ps s).state) : P (forZone k st ps s).state := by
  unfold forZone
  split
  · exact h _
  · exact h0

theorem withDraft_state {P : State → Prop} {k : Draft → State → Answer} {s : State} (h0 : P s)
    (h : ∀ d, s.profile.draft = some d → P (k d s).state) : P (withDraft k s).state := by
  unfold withDraft
  split
  · exact h _ ‹_›
  · exact h0

/-- The tests of ARM_COMMAND, whatever stands before the command's own; `Q` is what that shows. -/
theorem armOwner_state {P Q : State → Prop} {before : Owner → Owner} {st : Station} {ps : List Byte} {s : State}
    (hb : ∀ o : Owner, (Q s → P (o st ps s).state) → P (before o st ps s).state) {k : Arm → Owner} (cmd : Nat) (h0 : P s)
    (h : ∀ a, Q s → P (k a st ps s).state) : P (armOwner cmd before k st ps s).state := by
  unfold armOwner forArm
  split
  · rename_i a _
    refine claimTest_state h0 ?_
    split
    · exact h0
    · refine hb _ fun hq => ?_
      split
      · exact h0
      · split
        · exact h0
        · exact h a hq
  · exact h0

/-! ## The draft and the slots (R46 to R53) -/

theorem Handled.modProfile {s : State} (f : Profiles → Profiles) (h : Inside s → Inside (s.modProfile f)) :
    Handled s (s.modProfile f) := ⟨⟨fun _ => h, ⟨rfl, rfl⟩⟩, rfl⟩

theorem Handled.setDraft {s : State} {d : Draft} (hd : Inside s → s.attends d.owner = true) :
    Handled s (setDraft d s) := .modProfile _ fun h => h.setDraft (hd h)

theorem Slot.ready_only (r : Profile) (u : SlotUse) (hu : u ≠ .ready) : (Slot.held .ready r).usedAs u = false :=
  beq_eq_false_iff_ne.mpr fun e => hu e.symm

theorem openDraftOwner_handled (n : SlotNo) {st : Station} (ps : List Byte) {s : State} (ha : s.attends st = true) :
    Handled s (openDraftOwner n st ps s).state := by
  unfold openDraftOwner
  split
  · exact .setDraft fun _ => ha
  · exact .setDraft fun _ => ha
  · exact .refl s

/-- A draft written stays its owner's (R48). -/
theorem Draft.write_owner {d e : Draft} {f : DraftField} {v : Nat} (h : d.write f v = some e) : e.owner = d.owner := by
  unfold Draft.write at h
  split at h
  case h_3 | h_5 =>
    obtain ⟨x, _, rfl⟩ := Option.map_eq_some_iff.mp h
    rfl
  case h_8 => cases h
  all_goals
    cases h
    rfl

theorem writeDraftOwner_handled (st : Station) (ps : List Byte) (s : State) :
    Handled s (writeDraftOwner st ps s).state := by
  unfold writeDraftOwner
  dsimp only
  split
  · exact .refl s
  · split
    · refine withDraft_state (.refl s) fun d hd => ?_
      split
      · rename_i e he
        exact .setDraft fun h => by rw [Draft.write_owner he]; exact h.draft d hd
      · exact .refl s
    · exact .refl s

theorem setPointsOwner_handled (st : Station) (ps : List Byte) (s : State) :
    Handled s (setPointsOwner st ps s).state :=
  withDraft_state (.refl s) fun d hd => .setDraft fun h => h.draft d hd

theorem commitDraftOwner_handled (st : Station) (ps : List Byte) (s : State) :
    Handled s (commitDraftOwner st ps s).state := by
  refine withDraft_state (.refl s) fun d hd => ?_
  split
  · split
    · exact .setDraft fun h => h.draft d hd
    · exact ⟨⟨fun _ h => (h.setSlot d.origin _ (Slot.ready_only _)).closeDraft, ⟨rfl, rfl⟩⟩, rfl⟩
  · exact .refl s

theorem discardDraftOwner_handled (s : State) : Handled s (withDraft (fun _ u => .ok (closeDraft u)) s).state :=
  withDraft_state (.refl s) fun _ _ => ⟨⟨fun _ h => h.closeDraft, ⟨rfl, rfl⟩⟩, rfl⟩

theorem eraseOwner_handled (n : SlotNo) (st : Station) (ps : List Byte) (s : State) :
    Handled s (eraseOwner n st ps s).state := by
  unfold eraseOwner
  split
  · exact ⟨⟨fun _ h => h.setSlot n .empty fun _ _ => rfl, ⟨rfl, rfl⟩⟩, rfl⟩
  · exact .refl s

/-! ## Notices, masks and the reaction table (R169 to R175) -/

theorem Handled.modStation (s : State) (st : Station) (f : StationNotices → StationNotices)
    (hf : (s.notices.get st).queue.length ≤ 16 → (f (s.notices.get st)).queue.length ≤ 16) :
    Handled s (s.modStation st f) := ⟨(Upheld.modStation s st f hf).decided ⟨rfl, rfl⟩, rfl⟩

theorem StationNotices.defer_length (v : StationNotices) (which : BitVec 24) (h : v.queue.length ≤ 16) :
    (v.defer which).queue.length ≤ 16 := by
  unfold StationNotices.defer
  have pass : ∀ (l : List (Fin 24)) (w : StationNotices), w.queue.length ≤ 16 → (l.foldl (fun w (k : Fin 24) =>
      if which.getLsbD k.val && v.flags.getLsbD k.val then w.appendDeferred k else w) w).queue.length ≤ 16 := by
    intro l
    induction l with
    | nil => exact fun w hw => hw
    | cons k l ih =>
      refine fun w hw => ih _ ?_
      dsimp only
      split
      · unfold StationNotices.appendDeferred
        split
        · exact (StationNotices.append_kept _ _).length hw
        · exact hw
      · exact hw
  exact pass _ v h

theorem StationNotices.setMasks_length (v : StationNotices) (set : BitVec 24) (h : v.queue.length ≤ 16) :
    (v.setMasks set).queue.length ≤ 16 := by
  unfold StationNotices.setMasks
  dsimp only
  split
  · exact h
  · exact StationNotices.defer_length _ _ h

theorem StationNotices.setMaster_length (v : StationNotices) (on : Bool) (h : v.queue.length ≤ 16) :
    (v.setMaster on).queue.length ≤ 16 := by
  unfold StationNotices.setMaster
  dsimp only
  split
  · exact StationNotices.defer_length _ _ h
  · exact h

theorem StationNotices.read_length (v : StationNotices) (h : v.queue.length ≤ 16) : v.read.queue.length ≤ 16 := by
  show (v.queue.drop 4).length ≤ 16
  rw [List.length_drop]
  omega

theorem setMasterOwner_handled (st : Station) (ps : List Byte) (s : State) :
    Handled s (setMasterOwner st ps s).state := by
  unfold setMasterOwner
  dsimp only
  split
  · exact .refl s
  · exact .modStation s st (fun v => v.setMaster (byteAt ps 0 == 1)) (StationNotices.setMaster_length _ _)

theorem setReaction_decided (s : State) (e : EntryNo) (b : Option Binding) : Decided s (s.setReaction e b) :=
  (Upheld.modReactions s fun p => p.set e b).decided ⟨rfl, rfl⟩

theorem bindOwner_handled (st : Station) (ps : List Byte) (s : State) : Handled s (bindOwner st ps s).state := by
  unfold bindOwner
  split
  · exact .refl s
  · split
    · exact .refl s
    · split
      · exact .refl s
      · exact ⟨setReaction_decided s _ _, rfl⟩

theorem Decided.andThen {s t u : State} (h : Decided s t) (f : Cascade t u) : Decided s u :=
  ⟨fun hm i => (h.laws hm i).of_cascade f, h.roll.trans f.roll⟩

theorem unbind_decided (e : EntryNo) (b : Binding) (s : State) : Decided s (unbind e b s) := by
  have freed : Decided s (s.setReaction e (if b.held.isSome then some { b with enabled := false } else none)) :=
    setReaction_decided s e _
  unfold unbind
  dsimp only
  split
  · have told := freed.andThen (Cascade.complete e .unbound _)
    split
    · exact told.andThen (Cascade.removeCap e _)
    · exact told
  · exact freed

theorem unbindOwner_decided (st : Station) (ps : List Byte) (s : State) : Decided s (unbindOwner st ps s).state := by
  unfold unbindOwner
  split
  · exact .refl s
  · split
    · exact .refl s
    · split
      · exact .refl s
      · split
        · exact .refl s
        · exact unbind_decided _ _ s

end Sys2Proof.Machine
end

section
/-! PROOFS. What the owners of the requests that raise factors keep. -/

namespace Sys2Proof.Machine

set_option Elab.async false

/-! ## The Travel Governor and the Flow Arbiter (R88 to R90, R104, R154) -/

theorem Travel.takeDemand_kept {g h : Travel} {v : Int} (e : g.takeDemand v = some h) :
    (g.setpointLawful → h.setpointLawful) ∧ (g.state = .parked → h.state = .parked) ∧ h.armStowed = g.armStowed ∧
      h.armMoving = g.armMoving ∧ h.safeStop = g.safeStop ∧ h.waterEmpty = g.waterEmpty := by
  unfold Travel.takeDemand at e
  split at e
  · rename_i hp
    split at e
    · cases e; exact ⟨id, id, rfl, rfl, rfl, rfl⟩
    · cases e
  · rename_i hp
    split at e
    · cases e; exact ⟨id, id, rfl, rfl, rfl, rfl⟩
    · cases e; exact ⟨id, fun q => absurd (hp.symm.trans q) nofun, rfl, rfl, rfl, rfl⟩
  · rename_i hp
    split at e
    · cases e; exact ⟨id, fun q => absurd (hp.symm.trans q) nofun, rfl, rfl, rfl, rfl⟩
    · cases e; exact ⟨id, id, rfl, rfl, rfl, rfl⟩
  · cases e

theorem setTravelOwner_decided {raise : Raiser} (hr : ∀ r u, Cascade u (raise r u)) (st : Station) (ps : List Byte)
    (s : State) : Decided s (setTravelOwner raise st ps s).state := by
  unfold setTravelOwner
  dsimp only
  split
  · exact .refl s
  · split
    · exact .refl s
    · rename_i g hg
      obtain ⟨setpoint, parked, stowed, moving, safe, water⟩ := Travel.takeDemand_kept hg
      have taken : Cascade s (s.modTravel fun _ => g) := Cascade.modTravel s _ setpoint parked stowed moving safe water
      show Decided s (blockReverse raise _ (s.modTravel fun _ => g))
      unfold blockReverse
      split
      · exact Cascade.decided (taken.trans (hr _ _))
      · exact taken.decided

theorem takeEngine_cascade (v : Nat) (s : State) : Cascade s (takeEngine v s) :=
  Frame.trans (Cascade.modFlowIdle s _ id rfl id) (Cascade.recomputeCapacity _)

theorem engineReportOwner_decided (st : Station) (ps : List Byte) (s : State) :
    Decided s (engineReportOwner st ps s).state := by
  unfold engineReportOwner
  dsimp only
  split
  · exact .refl s
  · exact (takeEngine_cascade _ s).decided

/-- R88: the TG leaves PARKED while the part is OPERATIONAL. -/
theorem Inside.releasePark {s : State} (h : Inside s) (hm : s.supervision.mode = .operational) :
    Inside (s.modTravel Travel.releasePark) := { h with
  copies := fun x a => match x with
    | .travel => h.copies .travel a
    | .spray => h.copies .spray a
    | .water => h.copies .water a
    | .supervision => h.copies .supervision a
  idle := fun e => absurd hm e }

theorem releasePark_handled (st : Station) (ps : List Byte) (s : State) :
    Handled s (claimTest .travel (commissionTest releaseParkOwner) st ps s).state := by
  refine claimTest_state (.refl s) (commissionTest_state (.refl s) fun hc => ?_)
  unfold releaseParkOwner
  split
  · exact .refl s
  · exact ⟨⟨fun hm h => h.releasePark (operational_of_ne hm hc), ⟨rfl, rfl⟩⟩, rfl⟩

theorem applyParkOwner_handled (st : Station) (ps : List Byte) (s : State) :
    Handled s (applyParkOwner st ps s).state := by
  unfold applyParkOwner
  split
  · split
    · exact ⟨(Cascade.modTravel s Travel.park id fun _ => rfl).decided, rfl⟩
    · exact .refl s
  · exact .refl s
  · exact .refl s

/-! ## The arms (R113 to R117) -/

/-- LOWER is accepted in OPERATIONAL, outside safe stop (R10, R114). -/
theorem lowerOwner_decided {raise : Raiser} (hr : ∀ r u, Cascade u (raise r u)) (a : Arm) (st : Station) (ps : List Byte)
    (s : State) (hc : s.supervision.mode ≠ .commissioning) : Decided s (lowerOwner raise a st ps s).state := by
  unfold lowerOwner
  split
  · exact .refl s
  · rename_i passed
    split
    · refine ⟨fun hm h => ?_, (Frame.takeLower hr a .command s).roll⟩
      have clearOfStop : s.supervision.safeStop = false := by
        unfold lowerTest at passed
        cases e : s.supervision.safeStop
        · rfl
        · rw [e, if_pos rfl] at passed
          split at passed <;> cases passed
      exact h.of_lower (k := .lower) nofun (Frame.takeLower hr a .command s) (operational_of_ne hm hc) clearOfStop
    · exact .refl s

theorem raiseOwner_decided {raise : Raiser} (hr : ∀ r u, Cascade u (raise r u)) (a : Arm) (st : Station) (ps : List Byte)
    (s : State) : Decided s (raiseOwner raise a st ps s).state := by
  unfold raiseOwner
  split
  · exact .refl s
  · split
    · exact (Cascade.takeRaise hr a .command s).decided
    · exact .refl s

theorem haltOwner_decided {raise : Raiser} (hr : ∀ r u, Cascade u (raise r u)) (a : Arm) (st : Station) (ps : List Byte)
    (s : State) : Decided s (haltOwner raise a st ps s).state := by
  unfold haltOwner
  split
  · exact .refl s
  · exact (Cascade.haltArm hr a s).decided

theorem clearOwner_decided {raise : Raiser} (hr : ∀ r u, Cascade u (raise r u)) (a : Arm) (st : Station) (ps : List Byte)
    (s : State) : Decided s (clearOwner raise a st ps s).state := by
  unfold clearOwner
  split
  · exact .refl s
  · exact (Cascade.clearFault hr a s).decided

theorem Sound.arm {cmd : Nat} {before : Owner → Owner} {k : Raiser → Arm → Owner}
    (h : ∀ st ps s, Decided s (armOwner cmd before (k raiseFactor) st ps s).state) (l : Station) (tag : Byte)
    (ps : List Byte) (s : State) : Sound s (serveArm cmd before k l tag ps s) := by
  unfold serveArm
  split
  · exact .refl s
  · exact .decided h l tag ps s

/-- A command of which the commissioning test is not made. -/
theorem Sound.armAlways {cmd : Nat} {k : Raiser → Arm → Owner} (h : ∀ a st ps s, Decided s (k raiseFactor a st ps s).state)
    (l : Station) (tag : Byte) (ps : List Byte) (s : State) : Sound s (serveArm cmd id k l tag ps s) :=
  .arm (fun st ps s => armOwner_state (Q := fun _ => True) (fun _ h => h trivial) cmd (.refl s) fun a _ => h a st ps s)
    l tag ps s

/-! ## The Spray Unit and the Water Account (R141, R149) -/

theorem zoneOverrideOwner_decided (z : Zone) (st : Station) (ps : List Byte) (s : State) :
    Decided s (zoneOverrideOwner z st ps s).state := by
  unfold zoneOverrideOwner
  dsimp only
  split
  · exact .refl s
  · exact (Cascade.evaluateZones s fun v => { v with forcedOff := v.forcedOff.set z (byteAt ps 1 == 1) }).decided

/-- R145, R149: a refill stays within the commissioned capacity. -/
theorem refillOwner_decided {raise : Raiser} (hr : ∀ r u, Cascade u (raise r u)) (st : Station) (ps : List Byte)
    (s : State) : Decided s (refillOwner raise st ps s).state := by
  unfold refillOwner
  dsimp only
  split
  · exact .refl s
  · split
    · exact .refl s
    · rename_i cap hcap
      have bound : s.item 22 = cap := by unfold State.item; rw [hcap]; rfl
      have filled := Water.clampLow_kept { s.water with
        estimate := min (wordAt ps 0) cap, pulses := 0, dryLatch := false, dispensed := 0, swept := 0, sweptPulses := 0 }
        (s.item 23) cap (Nat.min_le_right _ _)
      have refilled : Cascade s (s.modWater fun w => w.refill (wordAt ps 0) cap (s.item 23)) :=
        Cascade.modWater s (fun w => w.refill (wordAt ps 0) cap (s.item 23)) (fun _ => bound ▸ filled.1) filled.2.1
          filled.2.2
      exact Frame.decided (k := .water) ((Cascade.to refilled).trans (Frame.recomputeWater hr _)) rfl

/-! ## The changeover (R56, R57, R62) -/

@[simp] theorem Answer.accepted_state (s : State) : (Answer.accepted s).state = s := rfl

theorem Frame.rollOf {x : Exc} {k : Reach} {s t u : State} (f : Frame x k t u) (h : RollKept s t) : RollKept s u :=
  h.trans f.roll

theorem startChangeover_roll {raise : Raiser} (hr : ∀ r u, Cascade u (raise r u)) (target : Option SlotNo) (s : State) :
    RollKept s (startChangeover raise target s) := by
  have record : RollKept s (startRecord target s) := by cases target <;> exact ⟨rfl, rfl⟩
  have moved : Frame .none .lower (startRecord target s) (startChangeover raise target s) := by
    unfold startChangeover
    dsimp only
    exact ((Cascade.to (Cascade.handValues _)).trans (Frame.giveTargets hr _ _)).andThen (Cascade.completeIfDone hr _)
  exact moved.rollOf record

theorem abortChangeover_roll {raise : Raiser} (hr : ∀ r u, Cascade u (raise r u)) (c : Changeover) (s : State) :
    RollKept s (abortChangeover raise c s) := by
  have record : RollKept s (abortRecord c s) := by
    unfold abortRecord
    split <;> exact ⟨rfl, rfl⟩
  have moved : Frame .none .lower (abortRecord c s) (abortChangeover raise c s) := by
    unfold abortChangeover
    dsimp only
    exact ((Frame.giveTargets hr _ _).andThen (Cascade.handValues _)).andThen (Cascade.completeIfDone hr _)
  exact moved.rollOf record

theorem startReapply_roll {raise : Raiser} (hr : ∀ r u, Cascade u (raise r u)) (s : State) :
    RollKept s (startReapply raise s) := by
  unfold startReapply
  split
  · exact .refl s
  · exact Frame.rollOf (k := .lower) (((Cascade.to (Cascade.handValues _)).trans (Frame.giveTargets hr _ _)).andThen
      (Cascade.completeIfDone hr _)) ⟨rfl, rfl⟩

/-- What the tests of R56 have shown of a request that passes them. -/
theorem selectTest_passed {target : Option SlotNo} {s : State} (h : selectTest target s = none) :
    s.supervision.safeStop = false ∧ s.profile.changeover = none ∧
      ∀ n, target = some n → s.profile.slots[n].usedAs .ready = true := by
  unfold selectTest at h
  split at h
  · cases h
  · rename_i stopped
    split at h
    · cases h
    · rename_i busy
      split at h
      · cases h
      · rename_i slot
        refine ⟨?_, ?_, fun n hn => ?_⟩
        · cases e : s.supervision.safeStop
          · rfl
          · exact absurd (by rw [e]; rfl) stopped
        · cases e : s.profile.changeover
          · rfl
          · exact absurd (by rw [e]; rfl) busy
        · subst hn
          cases e : (s.slot n).usedAs .ready
          · exact absurd (by rw [Option.map_some, e]; rfl) slot
          · exact e

theorem selectTarget_decided {raise : Raiser} (hr : ∀ r u, Cascade u (raise r u)) (target : Option SlotNo) (s : State)
    (hc : s.supervision.mode ≠ .commissioning) : Decided s (selectTarget raise target s).state := by
  unfold selectTarget
  split
  · exact .refl s
  · rename_i passed
    obtain ⟨safe, record, ready⟩ := selectTest_passed passed
    rw [Answer.accepted_state]
    exact ⟨fun hm h => h.startChangeover hr target ready record (operational_of_ne hm hc) safe,
      startChangeover_roll hr target s⟩

theorem selectOwner_decided {raise : Raiser} (hr : ∀ r u, Cascade u (raise r u)) (st : Station) (ps : List Byte)
    (s : State) (hc : s.supervision.mode ≠ .commissioning) : Decided s (selectOwner raise st ps s).state := by
  unfold selectOwner
  dsimp only
  split
  · exact selectTarget_decided hr _ s hc
  · split
    · exact selectTarget_decided hr none s hc
    · exact .refl s

theorem abortOwner_decided {raise : Raiser} (hr : ∀ r u, Cascade u (raise r u)) (st : Station) (ps : List Byte)
    (s : State) : Decided s (abortOwner raise st ps s).state := by
  unfold abortOwner
  split
  · exact .refl s
  · rename_i c hc
    split
    · exact .refl s
    · rw [Answer.accepted_state]
      exact ⟨fun _ h => h.abortChangeover hr c hc, abortChangeover_roll hr c s⟩

/-! ## Supervision (R179 to R185, R187) -/

theorem Supervision.item_write (v : Supervision) (k n j : Nat) :
    (v.write k n).item j = if j = k ∧ 1 ≤ k ∧ k ≤ 35 then some n else v.item j := by
  unfold Supervision.write
  split
  · rename_i h0
    rw [if_neg fun h => by omega]
  · rename_i h0
    cases j with
    | zero => rw [if_neg fun h => h0 h.1.symm]; rfl
    | succ j =>
      show ((v.items.setIfInBounds (k - 1) (some n))[j]?).getD none = _
      rw [Vector.getElem?_setIfInBounds]
      by_cases e : k - 1 = j
      · subst e
        rw [if_pos rfl, Nat.sub_add_cancel (Nat.pos_of_ne_zero h0)]
        split
        · rename_i hk
          rw [if_pos ⟨rfl, Nat.pos_of_ne_zero h0, by omega⟩]; rfl
        · rename_i hk
          rw [if_neg fun h => hk (by omega)]
          show none = v.item k
          unfold Supervision.item
          cases k with
          | zero => rfl
          | succ k =>
            show none = (v.items[k]?).getD none
            rw [Vector.getElem?_eq_none (by omega)]; rfl
      · rw [if_neg e, if_neg fun h => e (by omega)]
        rfl

/-- R179: an item that was unwritten takes its value; the account's bound and the commissioning law stand. -/
theorem Inside.writeItem {s : State} (h : Inside s) (k n : Nat) (hu : (s.item? k).isSome = false) :
    Inside (s.modSupervision fun x => x.write k n) := by
  have fields : (s.supervision.write k n).mode = s.supervision.mode ∧
      (s.supervision.write k n).safeStop = s.supervision.safeStop ∧
      (s.supervision.write k n).armDone = s.supervision.armDone ∧
      (s.supervision.write k n).committed = s.supervision.committed := by
    unfold Supervision.write
    split <;> exact ⟨rfl, rfl, rfl, rfl⟩
  obtain ⟨mode, safe, done, committed⟩ := fields
  refine h.modSupervision (fun x => x.write k n) mode safe done ⟨fun e => ?_, fun e j h1 h2 => ?_⟩ ?_
  · exact committed.trans (h.commission.1 (mode.symm.trans e))
  · show ((s.supervision.write k n).item j).isSome = true
    rw [Supervision.item_write]
    split
    · rfl
    · exact h.commission.2 (committed.symm.trans e) j h1 h2
  · have bound : s.water.estimate ≤ ((s.item? 22)).getD 0 := h.estimate
    show s.water.estimate ≤ ((s.supervision.write k n).item 22).getD 0
    rw [Supervision.item_write]
    split
    · rename_i e
      rw [e.1, Option.isSome_eq_false_iff.mp hu |> Option.isNone_iff_eq_none.mp] at bound
      exact bound.trans (Nat.zero_le _)
    · exact bound

theorem itemWritten_frame {raise : Raiser} (hr : ∀ r u, Cascade u (raise r u)) (k : Nat) (s : State) :
    Frame .none .water s (itemWritten raise k s) := by
  unfold itemWritten
  split
  · exact Cascade.to (Cascade.recomputeCapacity s)
  · split
    · exact Frame.recomputeWater hr s
    · exact .refl _ _ s

theorem commissionSetOwner_decided {raise : Raiser} (hr : ∀ r u, Cascade u (raise r u)) (st : Station) (ps : List Byte)
    (s : State) : Decided s (commissionSetOwner raise st ps s).state := by
  unfold commissionSetOwner
  dsimp only
  split
  · exact .refl s
  · split
    · exact .refl s
    · rename_i unwritten
      have f := itemWritten_frame hr (byteAt ps 0) (s.modSupervision fun x => x.write (byteAt ps 0) (wordAt ps 1))
      exact ⟨fun _ h => (h.writeItem _ _ (Bool.not_eq_true _ ▸ unwritten)).of_calm rfl f, f.rollOf ⟨rfl, rfl⟩⟩

/-- R180: the checks passed with every item written. -/
theorem commitCheck_written {s : State} (h : commitCheck s = none) (k : Nat) (h1 : 1 ≤ k) (h2 : k ≤ 35) :
    (s.item? k).isSome = true := by
  unfold commitCheck at h
  split at h
  · cases h
  · rename_i all
    have found := List.find?_eq_none.mp all k (List.mem_map.mpr ⟨k - 1, List.mem_range.mpr (by omega), by omega⟩)
    simpa [Option.isSome_iff_ne_none] using found

/-- R178, R180: a part in COMMISSIONING becomes OPERATIONAL, all its items written. -/
theorem Inside.commit {s : State} (h : Inside s) (hm : s.supervision.mode = .commissioning)
    (hw : ∀ k, 1 ≤ k → k ≤ 35 → (s.item? k).isSome = true) : Inside (commitCommissioning s) := by
  have committed : Inside (s.modSupervision fun v => { v with committed := true, mode := .operational }) := { h with
    copies := fun x a => match x with
      | .travel => h.copies .travel a
      | .spray => h.copies .spray a
      | .water => h.copies .water a
      | .supervision => h.copies .supervision a
    idle := fun e => absurd rfl e
    commission := ⟨fun _ => rfl, fun _ => hw⟩
    starting := by
      have running : ¬ s.clock.phase ≠ .running := fun e => nomatch hm.symm.trans (h.starting.1.mpr e)
      exact ⟨⟨nofun, fun e => absurd e running⟩, nofun⟩ }
  exact (committed.of_cascade (Cascade.modTravel _ (fun g => { g with committed := true }) id)).of_cascade
    (Cascade.needCeiling _)

theorem commissionCommitOwner_decided (st : Station) (ps : List Byte) (s : State) :
    Decided s (commissionCommitOwner st ps s).state := by
  unfold commissionCommitOwner
  split
  · exact .refl s
  · rename_i hm
    split
    · exact .refl s
    · rename_i passed
      exact ⟨fun _ h => h.commit (not_not.mp hm) (commitCheck_written passed), ⟨rfl, rfl⟩⟩

theorem enterSafeStop_decided {raise : Raiser} (hr : ∀ r u, Cascade u (raise r u)) (c : SafeCause) (s : State) :
    Decided s (enterSafeStop raise c s) := (enterSafeStop_upheld hr c s).decided (enterSafeStop_roll hr c s)

theorem leaveSafeStop_roll {raise : Raiser} (hr : ∀ r u, Cascade u (raise r u)) (s : State) :
    RollKept s (leaveSafeStop raise s) := by
  have cleared : Frame .none .any s (s.modSupervision fun v => { v with safeStop := false, causes := SafeCauses.empty }) :=
    (Frame.safeFlag false s).2.2 _
  unfold leaveSafeStop
  dsimp only
  exact ((((cleared.andThen (hr _ _)).trans (Frame.safeFlag false _).1).trans (Frame.safeFlag false _).2.1).roll).trans
    (startReapply_roll hr _)

theorem resumeOwner_decided {raise : Raiser} (hr : ∀ r u, Cascade u (raise r u)) (st : Station) (ps : List Byte)
    (s : State) : Decided s (resumeOwner raise st ps s).state := by
  unfold resumeOwner
  split
  · exact .refl s
  · rename_i passed
    refine ⟨fun _ h => h.leaveSafeStop hr ?_, leaveSafeStop_roll hr s⟩
    unfold resumeTest at passed
    cases e : s.supervision.safeStop
    · rw [e, Bool.not_false, if_pos rfl] at passed
      cases passed
    · rfl

theorem Sound.resetPart {kind : Nat} {k : Raiser → Owner} (h : ∀ st ps s, Decided s (k raiseFactor st ps s).state)
    (l : Station) (tag : Byte) (ps : List Byte) (s : State) : Sound s (serveReset kind k l tag ps s) := by
  unfold serveReset
  split
  · exact .refl s
  · refine .decided (fun st ps s => ?_) l tag ps s
    split
    · exact .refl s
    · exact h st ps s

theorem immediateOwner_decided (st : Station) (ps : List Byte) (s : State) : Decided s (immediateOwner st ps s).state :=
  (Upheld.modWork s (fun w => { w with reset := some .immediate }) rfl rfl).decided ⟨rfl, rfl⟩

theorem settledOwner_decided {raise : Raiser} (hr : ∀ r u, Cascade u (raise r u)) (st : Station) (ps : List Byte)
    (s : State) : Decided s (settledOwner raise st ps s).state := by
  unfold settledOwner
  split
  · exact .refl s
  · exact ((Upheld.modSupervision s (fun v => { v with pendingReset := some st, settledTimer := .running 15000 })
      rfl rfl rfl rfl rfl).decided ⟨rfl, rfl⟩).andThen (Cascade.handPendingReset hr _)

theorem readResetCauseOwner_handled (st : Station) (ps : List Byte) (s : State) :
    Handled s (readResetCauseOwner st ps s).state :=
  ⟨(Upheld.modSupervision s (fun v => { v with resetCauses := v.resetCauses.set st ResetCauses.empty })
    rfl rfl rfl rfl rfl).decided ⟨rfl, rfl⟩, rfl⟩

end Sys2Proof.Machine
end

section
/-! PROOFS. What the field events and the timers keep, and every step. -/

namespace Sys2Proof.Machine

set_option Elab.async false

/-! ## The clock and the timebase (R69 to R72, R83) -/

theorem Upheld.leaveStarting {s : State} (h : s.clock.phase = .locking) (lost : Bool) :
    Upheld s (leaveStarting lost raiseFactor s) :=
  ⟨fun i => i.leaveStarting Cascade.raiseFactor lost (by rw [h]; exact nofun),
    fun c => (Frame.leaveStarting Cascade.raiseFactor lost s).roll.claimLaw (RollKept.claimLaw ⟨rfl, rfl⟩ c)⟩

theorem Upheld.clockFault {raise : Raiser} (hr : ∀ r u, Cascade u (raise r u)) (s : State) :
    Upheld s (clockFault raise s) := (Cascade.upheld (hr _ s)).trans (enterSafeStop_upheld hr _ _)

theorem Attendance.tick_attending (p : PerStation Attendance) (x : Station) :
    ((p.map Attendance.tick).get x).state = (p.get x).state := by cases x <;> rfl

/-- The arms' timers counted down (R72). -/
theorem PerArm.get_map_tick (p : PerArm ArmUnit) (a : Arm) : (p.map ArmUnit.tick).get a = (p.get a).tick := by
  cases a <;> rfl

/-- R72: no law speaks of a timer's count or of the time. -/
theorem tickTimers_inside {s : State} (h : Inside s) : Inside { tickTimers s with time := s.time + 1 } := by
  have attends : ∀ x, s.attends x = true → (((s.attendance.map Attendance.tick).get x).state == .attending) = true :=
    fun x hx => by rw [Attendance.tick_attending]; exact hx
  have arm : ∀ a, ({ tickTimers s with time := s.time + 1 } : State).arm a = (s.arm a).tick := PerArm.get_map_tick s.arms
  exact { h with
    claims := claimLaw.attend h.claims rfl attends
    draft := fun d hd => attends _ (h.draft d hd)
    outputs := fun a => by rw [arm]; exact h.outputs a
    copies := fun x a => by
      have kept : copyOk x a s := h.copies x a
      unfold copyOk at kept ⊢
      rw [arm]
      cases x <;> exact kept
    frostCopy := h.frostCopy
    safeStop := ⟨fun e => ⟨(h.safeStop.1 e).1, fun a => by rw [arm]; exact (h.safeStop.1 e).2 a⟩, h.safeStop.2⟩
    idle := fun e => by
      obtain ⟨parked, record, idle, lowered⟩ := h.idle e
      exact ⟨parked, record, idle, fun a => by rw [arm]; exact lowered a⟩
    starting := h.starting }

theorem Sound.tick (s : State) : Sound s { tickTimers s with time := s.time + 1 } :=
  Upheld.sound ⟨tickTimers_inside, fun h => h.attend rfl fun x hx => by
    show (((s.attendance.map Attendance.tick).get x).state == .attending) = true
    rw [Attendance.tick_attending]; exact hx⟩ rfl

/-! ## Links (R3 to R7) -/

theorem Link.fall_offline_stays {k : Link} (h : k.state = .offline) : k.fall.state = .offline := by
  rw [Link.fall_offline h]; exact h

theorem Sound.riseUntaken (st : Station) (s : State) : Sound s (riseUntaken st s) := (Upheld.riseUntaken st s).sound rfl

/-- A transaction that carries no request to an owner. -/
theorem Sound.atFrameEnd {st : Station} {bytes : List Byte} {k : State → State} (hk : ∀ t, Upheld t (k t))
    (hw : ∀ t, (k t).work = t.work) (s : State) : Sound s (atFrameEnd st bytes k s) := by
  refine Upheld.sound ⟨fun h => h.atFrameEnd st bytes k fun t i _ => (hk t).laws i,
    fun h => h.atFrameEnd st bytes fun t i => (hk t).claims i⟩ ?_
  unfold Sys2Proof.Machine.atFrameEnd
  split
  · exact hw _
  · rfl

theorem Sound.placeBadFrame (st : Station) (bytes frame : List Byte) (s : State) :
    Sound s (Sys2Proof.Machine.atFrameEnd st bytes (placeBadFrame st frame) s) := .atFrameEnd (fun t => .place st _ t) (fun _ => rfl) s

theorem Sound.unknownRequest (st : Station) (code tag : Byte) (ps : List Byte) (s : State) :
    Sound s (Sys2Proof.Machine.atFrameEnd st (requestFrame code tag ps)
      (fun t => if 40 < ps.length then Sys2Proof.Machine.placeBadFrame st (requestFrame code tag ps) t
        else place st ⟨.unknownRequest, tag, code, .none⟩ (tell st t)) s) := by
  refine .atFrameEnd (fun t => ?_) (fun t => ?_) s
  · split
    · exact .place st _ t
    · exact (Upheld.tell st t).trans (.place st _ _)
  · split <;> rfl

/-- The answer of a ZONE_OVERRIDE put right is the sender's link alone (R141). -/
theorem Sound.answerZone (l : Station) (ps : List Byte) (s : State) : Sound s (answerZone l ps s) := by
  obtain ⟨d, e, _⟩ := answerZone_eq l ps s
  rw [e]
  exact (Upheld.modLink (s := s) l (fun k => { k with slot := { k.slot with data := d } }) id).sound rfl

theorem Sound.trans {s t u : State} (h : Sound s t) (k : Sound t u) : Sound s u :=
  ⟨k.laws ∘ h.laws, k.claims ∘ h.claims⟩

/-! ## Capture and switches (R73 to R80) -/

theorem Upheld.gateExpiry (ch : Channel) (s : State) : Upheld s (gateExpiry ch s) := by
  unfold Sys2Proof.Machine.gateExpiry
  dsimp only
  split
  · exact ((Upheld.modCapture s _).trans (.modCapture _ _)).trans (Cascade.publishWheel _ _ _).upheld
  · exact ((Upheld.modCapture s _).trans (.modCapture _ _)).trans (Cascade.armTakesBrush _ _ _).upheld
  · exact (Upheld.modCapture s _).trans (.modCapture _ _)

theorem Upheld.flowPulse {raise : Raiser} (hr : ∀ r u, Cascade u (raise r u)) (s : State) : Upheld s (flowPulse raise s) :=
  (Cascade.dryRunPulse s).upheld.trans ((Frame.waterTakesPulse hr _).upheld rfl)

theorem Switches.setInput_frost {w : Switches} {i : Switch} {x : SwitchInput}
    (h : i ≠ .frost ∨ x.level = w.frost.level) : (w.setInput i x).frost.level = w.frost.level := by
  cases i
  case frost => exact h.resolve_left fun e => e rfl
  all_goals rfl

theorem SwitchInput.takeRaw_level (i : SwitchInput) (running asserted : Bool) :
    (i.takeRaw running asserted).level = i.level := by
  unfold SwitchInput.takeRaw
  split
  · rfl
  · split <;> rfl

theorem Sound.rawLevel (i : Switch) (running asserted : Bool) (s : State) :
    Sound s (s.modSwitches fun w => w.setInput i ((w.input i).takeRaw running asserted)) :=
  (Upheld.modSwitches s _ (Switches.setInput_frost (by
    by_cases e : i = .frost
    · subst e
      exact .inr (SwitchInput.takeRaw_level _ _ _)
    · exact .inl e))).sound rfl

/-- R137, R140: FROST's level and the Spray Unit's copy of it change within one event. -/
theorem Inside.frostChanged {raise : Raiser} (hr : ∀ r u, Cascade u (raise r u)) {s : State} (h : Inside s)
    (w : Switches) : Inside (sprayTakesFrost raise w.frost.level (s.modSwitches fun _ => w)) := by
  have copied : Within ((s.modSwitches fun _ => w).modSpray fun v => { v with frost := w.frost.level }) := { h with
    copies := fun x a => match x with
      | .travel => h.copies .travel a
      | .spray => h.copies .spray a
      | .water => h.copies .water a
      | .supervision => h.copies .supervision a
    frostCopy := rfl }
  have f := Cascade.sprayTakesFrost hr w.frost.level (s.modSwitches fun _ => w)
  exact ⟨copied.of_frame f (safeStopLaw_of_calm rfl f copied.safeStop) (idleLaw_of_calm rfl f copied.idle),
    sprayTakesFrost_valveLaw hr _ _⟩

theorem Upheld.superTakesSeat {raise : Raiser} (hr : ∀ r u, Cascade u (raise r u)) (on : Bool) (s : State) :
    Upheld s (superTakesSeat raise on s) := by
  unfold Sys2Proof.Machine.superTakesSeat
  split
  · exact (Cascade.upheld (hr _ s)).trans (enterSafeStop_upheld hr _ _)
  · exact .refl s

/-- A switch event of an input other than FROST (R80). -/
theorem Upheld.switchEvent {raise : Raiser} (hr : ∀ r u, Cascade u (raise r u)) {i : Switch} (hi : i ≠ .frost) (on : Bool)
    (s : State) : Upheld s (switchEvent raise i on s) := by
  cases i with
  | up a => exact (Cascade.armTakesUp hr a on s).upheld
  | down a => exact (Cascade.armTakesDown hr a on s).upheld
  | contact a => exact (Cascade.armTakesContact hr a on s).upheld
  | full => exact (Frame.waterTakesFull hr on s).upheld rfl
  | low => exact (Frame.waterTakesLow hr on s).upheld rfl
  | frost => exact absurd rfl hi
  | seat =>
    exact (Cascade.upheld (Cascade.modTravel s (fun g => { g with seat := on }) id)).trans (.superTakesSeat hr on _)

theorem Upheld.debounceExpiry {raise : Raiser} (hr : ∀ r u, Cascade u (raise r u)) (i : Switch) (s : State) :
    Upheld s (debounceExpiry i raise s) := by
  by_cases e : i = .frost
  · subst e
    refine ⟨fun h => h.frostChanged hr (s.switches.setInput .frost s.switches.frost.settled), fun h => ?_⟩
    have f := Cascade.sprayTakesFrost hr s.switches.frost.settled.level
      (s.modSwitches fun _ => s.switches.setInput .frost s.switches.frost.settled)
    exact f.roll.claimLaw (RollKept.claimLaw ⟨rfl, rfl⟩ h)
  · exact (Upheld.modSwitches s _ (Switches.setInput_frost (.inl e))).trans (.switchEvent hr e _ _)

/-! ## Timers -/

theorem Upheld.dwellExpiry (s : State) : Upheld s (dwellExpiry s) :=
  (Cascade.evaluateZones s fun v => { v with dwell := .standing, dwellTimer := .stopped }).upheld

theorem Upheld.dryRunExpiry {raise : Raiser} (hr : ∀ r u, Cascade u (raise r u)) (s : State) :
    Upheld s (dryRunExpiry raise s) :=
  (Cascade.upheld (Cascade.modSpray s (fun v => { v with dryRunTimer := .stopped }) id)).trans
    ((Frame.waterRunsDry hr _).upheld rfl)

theorem Upheld.withdrawFlowCeiling (s : State) : Upheld s (withdrawFlowCeiling s) :=
  Cascade.upheld ((Cascade.modTravel s (fun g => { g with flowCeiling := none, releaseTimer := .stopped }) id).trans
    (Cascade.needCeiling _))

theorem Upheld.overspeedExpiry {raise : Raiser} (hr : ∀ r u, Cascade u (raise r u)) (s : State) :
    Upheld s (overspeedExpiry raise s) :=
  Cascade.upheld ((Cascade.modTravel s (fun g => { g with overspeedTimer := .stopped, overspeedExpired := true }) id).trans
    (hr _ _))

theorem Upheld.stalenessExpiry {raise : Raiser} (hr : ∀ r u, Cascade u (raise r u)) (s : State) :
    Upheld s (stalenessExpiry raise s) :=
  Cascade.upheld (((Cascade.modFlowIdle s (fun f => { f with mark := .stale, timer := .stopped }) id rfl id).trans
    (Cascade.recomputeCapacity _)).trans (hr _ _))

/-! ## Every command, and every step -/

theorem Sound.clockMonitor (cycles : Nat) (s : State) : Sound s
    (let t := s.modClock fun c => { c with lastCycles := cycles }
     if s.clock.phase = .running && s.clock.verdict = .sound && !soundCount cycles then Sys2Proof.Machine.event loseCrystal t
     else t) := by
  have counted : Upheld s (s.modClock fun c => { c with lastCycles := cycles }) := .modClock s _ Iff.rfl
  dsimp only
  split
  · have lost : Upheld (s.modClock fun c => { c with lastCycles := cycles }) (loseCrystal raiseFactor
        (s.modClock fun c => { c with lastCycles := cycles })) :=
      (Upheld.modClock _ (fun c => { c with selector := .internal, verdict := .lost }) Iff.rfl).trans
        (.clockFault Cascade.raiseFactor _)
    exact (counted.sound rfl).trans (.event lost)
  · exact counted.sound rfl

theorem Sound.releaseLine (s : State) : Sound s (s.modClock fun c => { c with
    resetLineAsserted := false, phase := if c.phase = .held then .settling else c.phase }) := by
  refine (Upheld.modClock s _ ?_).sound rfl
  show (if s.clock.phase = .held then ClockPhase.settling else s.clock.phase) ≠ .running ↔ _
  split
  · rename_i e
    rw [e]
    exact ⟨fun _ => nofun, fun _ => nofun⟩
  · exact Iff.rfl

theorem Sound.crystalSettled (s : State) : Sound s (s.modClock fun c => { c with
    phase := if c.phase = .settling then .locking else c.phase }) := by
  refine (Upheld.modClock s _ ?_).sound rfl
  show (if s.clock.phase = .settling then ClockPhase.locking else s.clock.phase) ≠ .running ↔ _
  split
  · rename_i e
    rw [e]
    exact ⟨fun _ => nofun, fun _ => nofun⟩
  · exact Iff.rfl

theorem Sound.lineReset (s : State) : Sound s
    (if s.clock.resetLineAsserted then s else afterReset .line (s.modClock fun c => { c with resetLineAsserted := true })) := by
  split
  · exact .refl s
  · exact ⟨fun h => afterReset_lawful .line (s := s.modClock fun c => { c with resetLineAsserted := true }) h.commission
      h.estimate, fun _ => afterReset_claimLaw _ _⟩

theorem Sound.capturePulse (ch : Channel) (high : Bool) (s : State) : Sound s
    (let t := countPulse ch high s
     if ch = .flow then Sys2Proof.Machine.event Sys2Proof.Machine.flowPulse t else t) := by
  have counted : Upheld s (countPulse ch high s) := .modCapture s _
  dsimp only
  split
  · exact (counted.sound rfl).trans (.event (.flowPulse Cascade.raiseFactor _))
  · exact counted.sound rfl

theorem readProfileOwner_state (st : Station) (ps : List Byte) (s : State) : (readProfileOwner st ps s).state = s := by
  unfold readProfileOwner
  dsimp only
  split
  · rfl
  · split <;> rfl

theorem forArm_reads {k : Arm → Owner} (h : ∀ a st ps s, (k a st ps s).state = s) (st : Station) (ps : List Byte)
    (s : State) : (forArm k st ps s).state = s := by
  unfold forArm
  split
  · exact h _ st ps s
  · rfl

theorem forGroup_reads {k : Group → Owner} (h : ∀ g st ps s, (k g st ps s).state = s) (st : Station) (ps : List Byte)
    (s : State) : (forGroup k st ps s).state = s := by
  unfold forGroup
  split
  · exact h _ st ps s
  · rfl

/-- A claim request that raises nothing opens no work. -/
theorem forGroup_work {k : Group → Owner} (h : ∀ g st ps s, (k g st ps s).state.work = s.work) (st : Station)
    (ps : List Byte) (s : State) : (forGroup k st ps s).state.work = s.work := by
  unfold forGroup
  split
  · exact h _ st ps s
  · rfl

theorem claimTryOwner_work (g : Group) (st : Station) (ps : List Byte) (s : State) :
    (claimTryOwner g st ps s).state.work = s.work := by
  unfold claimTryOwner
  dsimp only
  split
  · rfl
  · split <;> rfl

theorem claimWaitOwner_work (g : Group) (st : Station) (ps : List Byte) (s : State) :
    (claimWaitOwner g st ps s).state.work = s.work := by
  unfold claimWaitOwner
  dsimp only
  split
  · rfl
  · split <;> rfl

theorem withdrawOwner_work (g : Group) (st : Station) (ps : List Byte) (s : State) :
    (withdrawOwner g st ps s).state.work = s.work := by
  unfold withdrawOwner
  split <;> rfl

theorem keepCommit_sound (prepared : Bool) (l : Station) (tag : Byte) (ps : List Byte) (s : State) :
    Sound s (serve Form.keepCommit (fun st _ t =>
      if prepared then .ok (t.modAttend st Attendance.renew) else .refuse .refusedState t) l tag ps s) := by
  refine .serve (.always fun st _ t => ?_) (fun st _ t _ => ?_) l tag ps s
  · split
    · exact .modAttend t st _ fun h => by rw [renew_state]; exact h
    · exact .refl t
  · split <;> rfl

theorem claimTest_handled {g : Group} {k : Owner} {st : Station} {ps : List Byte} {s : State}
    (h : Handled s (k st ps s).state) : Handled s (claimTest g k st ps s).state := claimTest_state (.refl s) h

theorem claimTest_decided {g : Group} {k : Owner} {st : Station} {ps : List Byte} {s : State}
    (h : Decided s (k st ps s).state) : Decided s (claimTest g k st ps s).state := claimTest_state (.refl s) h

/-- Every command leaves a next state, and keeps the laws. -/
theorem exec_sound (c : Instr) (s : State) : ∃ t, exec c s = .next t ∧ Sound s t := by
  have hr := Cascade.raiseFactor
  cases c with
  | powerOnReset => exact ⟨_, rfl, .reset .powerOn s⟩
  | lineReset => exact ⟨_, rfl, .lineReset s⟩
  | resetLineReleased => exact ⟨_, rfl, .guarded fun _ => .releaseLine s⟩
  | crystalSettled => exact ⟨_, rfl, .crystalSettled s⟩
  | pllLocked => exact ⟨_, rfl, .guarded fun h => .event (.leaveStarting h false)⟩
  | pllLockTimeout => exact ⟨_, rfl, .guarded fun h => .event (.leaveStarting h true)⟩
  | clockMonitorInterval cycles => exact ⟨_, rfl, .guarded fun _ => .clockMonitor cycles s⟩
  | timebaseTick => exact ⟨_, rfl, .guarded fun _ => .tick s⟩
  | chipSelectFall l => exact ⟨_, rfl, (Upheld.modLink l _ Link.fall_offline_stays).sound rfl⟩
  | disregardEnd l => exact ⟨_, rfl, .riseUntaken l s⟩
  | emptyTransaction l => exact ⟨_, rfl, .atFrameEnd (fun t => .refl t) (fun _ => rfl) s⟩
  | badFrame l bytes =>
    refine ⟨_, rfl, ?_⟩
    split
    · exact .refl s
    · exact .placeBadFrame l bytes bytes s
  | unknownRequest l code tag ps =>
    refine ⟨_, rfl, ?_⟩
    split
    · exact .refl s
    · exact .unknownRequest l code tag ps s
  | nop l tag ps => exact ⟨_, rfl, .reads (fun _ _ _ => rfl) l tag ps s⟩
  | identify l tag ps => exact ⟨_, rfl, .reads (fun _ _ _ => rfl) l tag ps s⟩
  | reportIn l tag ps => exact ⟨_, rfl, .serveEvent (reportInOwner_upholds hr) l tag ps s⟩
  | keepPrepare l tag ps =>
    exact ⟨_, rfl, .serve (.always fun st _ t => .modAttend t st (fun v => { v with prepared := true }) id)
      (fun _ _ _ _ => rfl) l tag ps s⟩
  | keepCommit l tag ps => exact ⟨_, rfl, keepCommit_sound _ l tag ps s⟩
  | reportOut l tag ps =>
    exact ⟨_, rfl, .serveEvent (.always fun st _ t => teardown_upheld hr st .left t) l tag ps s⟩
  | windowCounterExpiry st => exact ⟨_, rfl, .guarded fun _ => .event (teardown_upheld hr st .expired s)⟩
  | claimTry l tag ps =>
    exact ⟨_, rfl, .serve claimTryOwner_upholds (fun st ps s _ => forGroup_work claimTryOwner_work st ps s) l tag ps s⟩
  | claimWait l tag ps =>
    exact ⟨_, rfl, .serve claimWaitOwner_upholds (fun st ps s _ => forGroup_work claimWaitOwner_work st ps s) l tag ps s⟩
  | release l tag ps => exact ⟨_, rfl, .serveEvent (releaseOwner_upholds hr) l tag ps s⟩
  | yield l tag ps => exact ⟨_, rfl, .serveEvent (yieldOwner_upholds hr) l tag ps s⟩
  | override l tag ps => exact ⟨_, rfl, .serveEvent (overrideOwner_upholds hr) l tag ps s⟩
  | withdrawWait l tag ps =>
    exact ⟨_, rfl, .serve withdrawOwner_upholds (fun st ps s _ => forGroup_work withdrawOwner_work st ps s) l tag ps s⟩
  | readClaim l tag ps => exact ⟨_, rfl, .reads (forGroup_reads fun _ _ _ _ => rfl) l tag ps s⟩
  | openDraft l tag ps =>
    exact ⟨_, rfl, .handled (fun st ps s ha => claimTest_handled (forSlot_state (.refl s) fun n =>
      openDraftOwner_handled n ps (ha.resolve_left (by decide)))) l tag ps s⟩
  | writeDraft l tag ps =>
    exact ⟨_, rfl, .handled (fun st ps s _ => claimTest_handled (writeDraftOwner_handled st ps s)) l tag ps s⟩
  | setPoints l tag ps =>
    exact ⟨_, rfl, .handled (fun st ps s _ => claimTest_handled (setPointsOwner_handled st ps s)) l tag ps s⟩
  | commitDraft l tag ps =>
    exact ⟨_, rfl, .handled (fun st ps s _ => claimTest_handled (commitDraftOwner_handled st ps s)) l tag ps s⟩
  | discardDraft l tag ps =>
    exact ⟨_, rfl, .handled (fun _ _ s _ => claimTest_handled (discardDraftOwner_handled s)) l tag ps s⟩
  | eraseProfile l tag ps =>
    exact ⟨_, rfl, .handled (fun st ps s _ => claimTest_handled (forSlot_state (.refl s) fun n =>
      eraseOwner_handled n st ps s)) l tag ps s⟩
  | readProfile l tag ps => exact ⟨_, rfl, .reads readProfileOwner_state l tag ps s⟩
  | selectProfile l tag ps =>
    exact ⟨_, rfl, .decided (fun st ps s => claimTest_decided (commissionTest_state (.refl s) fun hc =>
      selectOwner_decided hr st ps s hc)) l tag ps s⟩
  | abortChangeover l tag ps =>
    exact ⟨_, rfl, .decided (fun st ps s => claimTest_decided (abortOwner_decided hr st ps s)) l tag ps s⟩
  | readChangeover l tag ps => exact ⟨_, rfl, .reads (fun _ _ _ => rfl) l tag ps s⟩
  | capturePulse ch high => exact ⟨_, rfl, .guarded fun _ => .capturePulse ch high s⟩
  | gateExpiry ch => exact ⟨_, rfl, .guarded fun _ => .event (.gateExpiry ch s)⟩
  | rawLevelChange i asserted => exact ⟨_, rfl, .rawLevel i _ asserted s⟩
  | debounceExpiry i => exact ⟨_, rfl, .guarded fun _ => .event (.debounceExpiry hr i s)⟩
  | releasePark l tag ps => exact ⟨_, rfl, .handled (fun st ps s _ => releasePark_handled st ps s) l tag ps s⟩
  | applyPark l tag ps =>
    exact ⟨_, rfl, .handled (fun st ps s _ => claimTest_handled (applyParkOwner_handled st ps s)) l tag ps s⟩
  | setTravel l tag ps =>
    exact ⟨_, rfl, .decided (fun st ps s => claimTest_decided (setTravelOwner_decided hr st ps s)) l tag ps s⟩
  | engineReport l tag ps => exact ⟨_, rfl, .decided engineReportOwner_decided l tag ps s⟩
  | clearCap l tag ps =>
    exact ⟨_, rfl, .decided (fun _ _ s => claimTest_decided (Cascade.clearCaps s).decided) l tag ps s⟩
  | readTravel l tag ps => exact ⟨_, rfl, .reads (fun _ _ _ => rfl) l tag ps s⟩
  | rampTimerExpiry => exact ⟨_, rfl, .guarded fun _ => .event (Cascade.rampExpiry s).upheld⟩
  | flowCeilingReleaseExpiry => exact ⟨_, rfl, .guarded fun _ => .event (.withdrawFlowCeiling s)⟩
  | overspeedTimerExpiry => exact ⟨_, rfl, .guarded fun _ => .event (.overspeedExpiry hr s)⟩
  | armLower l tag ps =>
    exact ⟨_, rfl, .arm (fun st ps s => armOwner_state (P := Decided s) (Q := fun u => u.supervision.mode ≠ .commissioning)
      (fun _ => commissionTest_state (.refl s)) 0 (.refl s) fun a => lowerOwner_decided hr a st ps s) l tag ps s⟩
  | armRaise l tag ps => exact ⟨_, rfl, .armAlways (raiseOwner_decided hr) l tag ps s⟩
  | armHalt l tag ps => exact ⟨_, rfl, .armAlways (haltOwner_decided hr) l tag ps s⟩
  | armClearFault l tag ps => exact ⟨_, rfl, .armAlways (clearOwner_decided hr) l tag ps s⟩
  | readArm l tag ps => exact ⟨_, rfl, .reads (forArm_reads fun _ _ _ _ => rfl) l tag ps s⟩
  | motionTimerExpiry a => exact ⟨_, rfl, .guarded fun _ => .event (Cascade.motionExpiry hr a s).upheld⟩
  | settleTimerExpiry a =>
    exact ⟨_, rfl, .guarded fun h => .event
      (Cascade.settleExpiry hr a s (beq_iff_eq.mp (Bool.and_eq_true_iff.mp h).2)).upheld⟩
  | pinnedTimerExpiry a => exact ⟨_, rfl, .guarded fun _ => .event (Cascade.pinnedExpiry hr a s).upheld⟩
  | stallTimerExpiry a => exact ⟨_, rfl, .guarded fun _ => .event (Cascade.stallExpiry hr a s).upheld⟩
  | zoneOverride l tag ps =>
    have served : Sound s (serveEvent Form.zoneOverride (fun _ => claimTest .spray (forZone zoneOverrideOwner)) l tag ps s) :=
      .decided (fun st ps s => claimTest_decided (forZone_state (.refl s) fun z => zoneOverrideOwner_decided z st ps s)) l tag ps s
    refine ⟨_, rfl, ?_⟩
    split
    · exact served.trans (.answerZone l ps _)
    · exact served
  | dwellTimerExpiry => exact ⟨_, rfl, .guarded fun _ => .event (.dwellExpiry s)⟩
  | dryRunTimerExpiry => exact ⟨_, rfl, .guarded fun _ => .event (.dryRunExpiry hr s)⟩
  | refill l tag ps =>
    exact ⟨_, rfl, .decided (fun st ps s => claimTest_decided (refillOwner_decided hr st ps s)) l tag ps s⟩
  | readSpray l tag ps => exact ⟨_, rfl, .reads (fun _ _ _ => rfl) l tag ps s⟩
  | readWater l tag ps => exact ⟨_, rfl, .reads (fun _ _ _ => rfl) l tag ps s⟩
  | stalenessTimerExpiry => exact ⟨_, rfl, .guarded fun _ => .event (.stalenessExpiry hr s)⟩
  | readFlow l tag ps => exact ⟨_, rfl, .reads (fun _ _ _ => rfl) l tag ps s⟩
  | readNotices l tag ps =>
    exact ⟨_, rfl, .handled (fun st _ s _ => .modStation s st _ (StationNotices.read_length _)) l tag ps s⟩
  | ackFactors l tag ps => exact ⟨_, rfl, .handled (fun st ps s _ => .modStation s st (·.ack (factorSetAt ps)) id) l tag ps s⟩
  | setNoticeMask l tag ps =>
    exact ⟨_, rfl, .handled (fun st ps s _ => .modStation s st (·.setMasks (factorSetAt ps))
      (StationNotices.setMasks_length _ _)) l tag ps s⟩
  | setMasterMask l tag ps => exact ⟨_, rfl, .handled (fun st ps s _ => setMasterOwner_handled st ps s) l tag ps s⟩
  | bindReaction l tag ps => exact ⟨_, rfl, .handled (fun st ps s _ => bindOwner_handled st ps s) l tag ps s⟩
  | unbindReaction l tag ps => exact ⟨_, rfl, .decided unbindOwner_decided l tag ps s⟩
  | readReactions l tag ps => exact ⟨_, rfl, .reads (fun _ _ _ => rfl) l tag ps s⟩
  | commissionSet l tag ps => exact ⟨_, rfl, .decided (commissionSetOwner_decided hr) l tag ps s⟩
  | commissionCommit l tag ps => exact ⟨_, rfl, .decided commissionCommitOwner_decided l tag ps s⟩
  | readCommission l tag ps => exact ⟨_, rfl, .reads (fun _ _ _ => rfl) l tag ps s⟩
  | safeStop l tag ps => exact ⟨_, rfl, .decided (fun _ _ s => enterSafeStop_decided hr .request s) l tag ps s⟩
  | resume l tag ps => exact ⟨_, rfl, .decided (resumeOwner_decided hr) l tag ps s⟩
  | resetPartImmediate l tag ps => exact ⟨_, rfl, .resetPart immediateOwner_decided l tag ps s⟩
  | resetPartSettled l tag ps => exact ⟨_, rfl, .resetPart (settledOwner_decided hr) l tag ps s⟩
  | settledResetTimerExpiry => exact ⟨_, rfl, .guarded fun _ => .reset (.settled true) s⟩
  | readResetCause l tag ps => exact ⟨_, rfl, .handled (fun st ps s _ => readResetCauseOwner_handled st ps s) l tag ps s⟩

/-- A command taken from the queue leaves everything else as it was. -/
theorem Sound.dequeue (s : State) (q : List Instr) : Sound s { s with pending := q } :=
  (Upheld.rest s q s.time s.clock s.links s.capture s.reactions s.freeCount id).sound rfl

/-- Every step keeps the laws, and from any state the law of the claim table. -/
theorem step_sound {s t : State} (h : step s = .next t) : Sound s t := by
  unfold step at h
  split at h
  · cases h
    exact .refl s
  · rename_i c q _
    obtain ⟨u, hu, sound⟩ := exec_sound c { s with pending := q }
    rw [hu] at h
    cases h
    exact (Sound.dequeue s q).trans sound

/-- Settles O4: every command keeps the laws inside its event, and the end of the event closes its work. -/
theorem everyStepKeepsTheLaws : Obligations.EveryStepKeepsTheLaws := fun _ _ h hs => (step_sound hs).laws h

/-- Settles O5: the owners of the claim requests keep the law of one group's entry, a teardown takes the station out of
every group, a reset frees them, and nothing else touches claims or attendance. -/
theorem everyStepKeepsTheClaimLaw : Obligations.EveryStepKeepsTheClaimLaw := fun _ _ h hs => (step_sound hs).claims h

/-- The part at POWER_ON is what a POWER_ON reset leaves of it (R186). -/
theorem reset_afterReset : afterReset .powerOn State.reset = State.reset := rfl

/-- Settles O3: a POWER_ON reset leaves the laws, and is the state right after reset. -/
theorem lawsHoldAtReset : Obligations.LawsHoldAtReset := by
  have lawful : Lawful (afterReset .powerOn State.reset) :=
    afterReset_lawful .powerOn ⟨nofun, nofun⟩ (Nat.zero_le _)
  show Lawful State.reset
  rw [← reset_afterReset]
  exact lawful

end Sys2Proof.Machine
end

section
/-! PROOFS. The requests of the Claim Unit and of the Attendance Unit that change one entry. -/

namespace Sys2Proof.Machine

set_option Elab.async false

/-! ## Claims: the owner of the group a request names (R29 to R36) -/

theorem forGroup_of {k : Group → Owner} {ps : List Byte} {g : Group} (h : groupOf (byteAt ps 0) = some g) (l : Station)
    (s : State) : forGroup k l ps s = k g l ps s := by
  unfold forGroup
  rw [h]

section ClaimRequests

variable {f : Form} {l : Station} {tag : Byte} {ps : List Byte} {s : State} {g : Group}

theorem claimTryOwner_free (h : (s.claims.get g).holder = none) :
    claimTryOwner g l ps s = ⟨.ok, .previousHolder none, giveGroup g l s⟩ := by
  unfold claimTryOwner
  rw [h]; rfl

theorem claimTryOwner_own (h : (s.claims.get g).holder = some l) :
    claimTryOwner g l ps s = ⟨.ok, .previousHolder (some l), s⟩ := by
  unfold claimTryOwner
  rw [h]
  exact if_pos rfl

theorem claimTryOwner_taken {x : Station} (h : (s.claims.get g).holder = some x) (hx : x ≠ l) :
    claimTryOwner g l ps s = ⟨.refusedBusy, .previousHolder (some x), s⟩ := by
  unfold claimTryOwner
  rw [h]
  exact if_neg hx

theorem claimWaitOwner_free (h : (s.claims.get g).holder = none) :
    claimWaitOwner g l ps s = ⟨.ok, .previousHolder none, giveGroup g l s⟩ := by
  unfold claimWaitOwner
  simp only [h]
  rfl

theorem claimWaitOwner_refused {x : Station} (h : (s.claims.get g).holder = some x)
    (hx : x = l ∨ l ∈ (s.claims.get g).waiting) : claimWaitOwner g l ps s = ⟨.refusedState, .none, s⟩ := by
  unfold claimWaitOwner
  simp only [h]
  refine if_pos ?_
  rw [Bool.or_eq_true, decide_eq_true_eq, List.contains_eq_mem, decide_eq_true_eq]
  exact hx

theorem claimWaitOwner_waits {x : Station} (h : (s.claims.get g).holder = some x) (hx : x ≠ l)
    (hw : l ∉ (s.claims.get g).waiting) : claimWaitOwner g l ps s =
      ⟨.accepted, .none, s.modClaim g fun c => { c with waiting := c.waiting ++ [l] }⟩ := by
  unfold claimWaitOwner
  simp only [h]
  refine if_neg ?_
  rw [Bool.or_eq_true, decide_eq_true_eq, List.contains_eq_mem, decide_eq_true_eq]
  exact fun e => e.elim hx hw

theorem withdrawOwner_waiting (h : l ∈ (s.claims.get g).waiting) : withdrawOwner g l ps s =
    ⟨.ok, .none, s.modClaim g fun c => { c with waiting := c.waiting.filter (· != l) }⟩ :=
  if_pos (by rw [List.contains_eq_mem]; exact decide_eq_true h)

theorem withdrawOwner_refused (h : l ∉ (s.claims.get g).waiting) :
    withdrawOwner g l ps s = ⟨.refusedState, .none, s⟩ :=
  if_neg (by rw [List.contains_eq_mem]; exact fun e => h (of_decide_eq_true e))

/-- A claim request that its owner answers with the state as it stands. -/
theorem serve_claim_replied {k : Group → Owner} (h : Sent f l ps s) (hg : groupOf (byteAt ps 0) = some g) {st : Status}
    {d : Payload} (ho : k g l ps (heard f l tag ps s) = ⟨st, d, heard f l tag ps s⟩) :
    serve f (forGroup k) l tag ps s = replied f l tag ps st d s := serve_replied h tag ((forGroup_of hg l _).trans ho)

/-- A claim request that changes the group's entry. -/
theorem serve_claim_done {k : Group → Owner} (h : Sent f l ps s) (hg : groupOf (byteAt ps 0) = some g) {st : Status}
    {d : Payload} {c : Claim → Claim}
    (ho : k g l ps (heard f l tag ps s) = ⟨st, d, (heard f l tag ps s).modClaim g c⟩) :
    serve f (forGroup k) l tag ps s =
      { replied f l tag ps st d s with claims := s.claims.set g (c (s.claims.get g)) } :=
  serve_done h tag ((forGroup_of hg l _).trans ho) rfl

end ClaimRequests

/-- Settles O20: the three cases of the owner's answer. -/
theorem claimTryTakesAFreeGroup : Obligations.ClaimTryTakesAFreeGroup := fun _ _ _ _ _ sent hg =>
  ⟨fun free => congrArg Host.Outcome.next (serve_claim_done sent hg (claimTryOwner_free free)),
    fun own => congrArg Host.Outcome.next (serve_claim_replied sent hg (claimTryOwner_own own)),
    fun _ taken other => congrArg Host.Outcome.next (serve_claim_replied sent hg (claimTryOwner_taken taken other))⟩

/-- Settles O21: the three cases of the owner's answer. -/
theorem claimWaitQueuesTheSender : Obligations.ClaimWaitQueuesTheSender := fun l _ ps s g sent hg => by
  refine ⟨fun free => congrArg Host.Outcome.next (serve_claim_done sent hg (claimWaitOwner_free free)),
    fun refused => congrArg Host.Outcome.next (serve_claim_replied sent hg ?_),
    fun x taken other waits => congrArg Host.Outcome.next (serve_claim_done sent hg (claimWaitOwner_waits taken other waits))⟩
  rcases refused with own | ⟨held, waits⟩
  · exact claimWaitOwner_refused own (.inl rfl)
  · obtain ⟨x, hx⟩ := Option.ne_none_iff_exists'.mp held
    exact claimWaitOwner_refused hx (.inr waits)

/-- Settles O24: the two cases of the owner's answer. -/
theorem withdrawWaitLeavesTheList : Obligations.WithdrawWaitLeavesTheList := fun _ _ _ _ _ sent hg =>
  ⟨fun waiting => congrArg Host.Outcome.next (serve_claim_done sent hg (withdrawOwner_waiting waiting)),
    fun out => congrArg Host.Outcome.next (serve_claim_replied sent hg (withdrawOwner_refused out))⟩

/-! ## The renewal pair (R20 to R22) -/

theorem unprepared_set (l : Station) (s : State) (v : Attendance) :
    (unprepared l s).set l v = s.attendance.set l v := PerStation.set_get_same _ _ _ _

theorem unprepared_get (l : Station) (s : State) :
    (unprepared l s).get l = { s.attendance.get l with prepared := false } := PerStation.get_set_same _ _ _

/-- A request that changes the sender's own attendance record. -/
theorem serve_record_done {f : Form} {l : Station} {tag : Byte} {ps : List Byte} {s : State} (h : Sent f l ps s)
    {owner : Owner} {st : Status} {d : Payload} {v : Attendance → Attendance}
    (ho : owner l ps (heard f l tag ps s) = ⟨st, d, (heard f l tag ps s).modAttend l v⟩) :
    serve f owner l tag ps s = { replied f l tag ps st d s with
      attendance := s.attendance.set l (v { s.attendance.get l with prepared := false }) } := by
  rw [serve_done h tag ho rfl]
  have record : ((heard f l tag ps s).modAttend l v).attendance =
      s.attendance.set l (v { s.attendance.get l with prepared := false }) := by
    show (unprepared l s).set l (v ((unprepared l s).get l)) = _
    rw [unprepared_set, unprepared_get]
  show { (heard f l tag ps s).modAttend l v with links := linksAfter f l tag ps st d s } = _
  rw [← record]
  rfl

/-- Settles O18: the flag as it stood before the frame end decides KEEP_COMMIT. -/
theorem renewalPair : Obligations.RenewalPair := fun l tag s => by
  refine ⟨fun sent => congrArg Host.Outcome.next (serve_record_done (v := fun v => { v with prepared := true }) sent rfl),
    fun w sent prepared window => ?_, fun sent clear => ?_⟩
  · refine congrArg Host.Outcome.next ((serve_record_done (st := .ok) (d := .none) (v := Attendance.renew) sent ?_).trans ?_)
    · show (if (s.attendance.get l).prepared then _ else _) = _
      rw [prepared, if_pos rfl]; rfl
    · have renewed : Attendance.renew { s.attendance.get l with prepared := false } =
          { s.attendance.get l with counter := .running (windowMs w), prepared := false } := by
        unfold Attendance.renew
        dsimp only
        rw [window]
      rw [renewed]
  · refine congrArg Host.Outcome.next (serve_replied sent tag ?_)
    show (if (s.attendance.get l).prepared then _ else _) = _
    rw [clear, if_neg Bool.false_ne_true]; rfl

/-! ## A request with an event behind it -/

/-- The end of a request's event where no settled reset is pending: a cascade after the owner's state, answered. -/
theorem serveEvent_ends {f : Form} {l : Station} {tag : Byte} {ps : List Byte} {s : State} (h : Sent f l ps s)
    {owner : Raiser → Owner} {st : Status} {d : Payload} {w : State}
    (ho : owner raiseFactor l ps (heard f l tag ps s) = ⟨st, d, w⟩) (hl : w.links = (heard f l tag ps s).links)
    (hp : w.supervision.pendingReset = none) (hw : w.work.reset = none) :
    ∃ u, serveEvent f owner l tag ps s = u.modWork (fun _ => Work.clear) ∧
      Cascade { w with links := linksAfter f l tag ps st d s } u := by
  refine ⟨settleAll { w with links := linksAfter f l tag ps st d s }, ?_, Cascade.settleAll _⟩
  show finish (serve f (owner raiseFactor) l tag ps s) = _
  rw [serve_done h tag ho hl]
  exact finish_calm (settle_reset (s := { w with links := linksAfter f l tag ps st d s }) hp hw)

theorem heard_kept (f : Form) (l : Station) (tag : Byte) (ps : List Byte) (s : State) : Kept s (heard f l tag ps s) :=
  ⟨rfl, rfl, rfl, rfl, rfl, rfl, rfl, rfl, rfl⟩

/-- A raise that its event's owner makes last, over a state that is otherwise the request's own: what stands after it. -/
theorem serveEvent_raises {f : Form} {l : Station} {tag : Byte} {ps : List Byte} {s : State} (h : Sent f l ps s)
    (hq : Quiet s) {owner : Raiser → Owner} {st : Status} {d : Payload} {v : State} {r : Raise}
    (ho : owner raiseFactor l ps (heard f l tag ps s) = ⟨st, d, raiseFactor r v⟩) (hk : Kept s v)
    (hl : v.links = (heard f l tag ps s).links) (hp : v.supervision.pendingReset = s.supervision.pendingReset)
    (hw : v.work = s.work) (hr : v.reactions = s.reactions) :
    ∃ t, serveEvent f owner l tag ps s = t ∧ Kept s t ∧ t.attendance = v.attendance ∧
      t.links = linksAfter f l tag ps st d s ∧ t.claims = v.claims ∧ t.profile.draft = v.profile.draft ∧
      (NoReactions s → t = deliver r none { v with links := linksAfter f l tag ps st d s }) := by
  have raised : Cascade v (raiseFactor r v) := Cascade.raiseFactor r v
  have quiet : v.supervision.pendingReset = none := hp.trans hq.noReset
  obtain ⟨u, hu, ended⟩ := serveEvent_ends (tag := tag) h ho (raised.links.trans hl) (raised.pendingReset.trans quiet)
    (raised.reset quiet (by rw [hw, hq.work]; rfl))
  refine ⟨_, rfl, ?_, ?_, ?_, ?_, ?_, fun hn => ?_⟩
  · rw [hu]
    have answered : Kept s { raiseFactor r v with links := linksAfter f l tag ps st d s } := { hk.trans raised.kept with }
    exact { answered.trans ended.kept with }
  · rw [hu]; exact ended.attendance.trans raised.attendance
  · rw [hu]; exact ended.links
  · rw [hu]; exact ended.claims.trans raised.claims
  · rw [hu]; exact ended.draft.trans raised.draft
  · have unbound : NoReactions v := fun e => by rw [hr]; exact hn e
    have plain : raiseFactor r v = deliver r none v := raiseFactor_plain unbound r
    rw [plain] at ho
    exact serveEvent_done h tag ho hl (hw.trans hq.work)

/-! ## REPORT_IN (R18) -/

theorem windowOf_eq_some {n : Nat} {w : Window} (h : windowMs w = n) : windowOf n = some w := by
  subst h
  cases w <;> rfl

theorem windowOf_eq_none {n : Nat} (h : ∀ w, windowMs w ≠ n) : windowOf n = none := by
  unfold windowOf
  split
  · exact absurd rfl (h .ms50)
  · exact absurd rfl (h .ms100)
  · exact absurd rfl (h .ms200)
  · exact absurd rfl (h .ms500)
  · rfl

theorem reportInOwner_badWindow {raise : Raiser} {ps : List Byte} (h : windowOf (wordAt ps 0) = none) (l : Station)
    (s : State) : reportInOwner raise l ps s = ⟨.badParam, .none, s⟩ := by
  unfold reportInOwner
  rw [h]; rfl

theorem reportInOwner_attends {raise : Raiser} {l : Station} {ps : List Byte} {s : State} {w : Window}
    (h : windowOf (wordAt ps 0) = some w) (ha : s.attends l = true) :
    reportInOwner raise l ps s = ⟨.refusedState, .none, s⟩ := by
  unfold reportInOwner
  rw [h]
  exact if_pos ha

theorem reportInOwner_joins {raise : Raiser} {l : Station} {ps : List Byte} {s : State} {w : Window}
    (h : windowOf (wordAt ps 0) = some w) (ha : s.attends l = false) :
    reportInOwner raise l ps s = ⟨.ok, .none,
      raise ⟨.station l, .stationJoined w (s.attendance.get l).state, s.time, .every (some l)⟩
        (s.modAttend l fun _ => ⟨.attending, some w, .running (windowMs w), false⟩)⟩ := by
  unfold reportInOwner
  rw [h]
  exact if_neg (by rw [ha]; exact Bool.false_ne_true)

/-- Settles O17: the owner's three answers; a station that joins is raised for the others. -/
theorem reportInMakesAttending : Obligations.ReportInMakesAttending := fun l tag ps s sent quiet => by
  refine ⟨fun bad => ?_, fun w hw attends => ?_, fun w hw absent => ?_⟩
  · exact congrArg Host.Outcome.next (serveEvent_done sent tag (reportInOwner_badWindow (windowOf_eq_none bad) l _) rfl
      quiet.work)
  · exact congrArg Host.Outcome.next (serveEvent_done sent tag (reportInOwner_attends (windowOf_eq_some hw)
      ((heard_attends _ l tag ps s).trans attends)) rfl quiet.work)
  · obtain ⟨t, ht, kept, attendance, links, claims, draft, plain⟩ := serveEvent_raises (tag := tag) sent quiet
      (reportInOwner_joins (windowOf_eq_some hw) ((heard_attends _ l tag ps s).trans absent))
      { heard_kept Form.reportIn l tag ps s with } rfl rfl rfl rfl
    have record : ((heard Form.reportIn l tag ps s).modAttend l fun _ =>
        ⟨.attending, some w, .running (windowMs w), false⟩).attendance =
        s.attendance.set l ⟨.attending, some w, .running (windowMs w), false⟩ := unprepared_set l s _
    have before : ((heard Form.reportIn l tag ps s).attendance.get l).state = (s.attendance.get l).state := by
      show ((unprepared l s).get l).state = _
      rw [unprepared_get]
    refine ⟨t, congrArg Host.Outcome.next ht, kept, attendance.trans record, links, claims, draft, fun hn => ?_⟩
    rw [plain hn, before, ← record]
    rfl

/-! ## OVERRIDE (R35) -/

section Override

variable {raise : Raiser} {l x : Station} {ps : List Byte} {s : State} {g : Group}

theorem overrideOwner_free (h : (s.claims.get g).holder = none) :
    overrideOwner raise g l ps s = ⟨.ok, .previousHolder none, giveGroup g l s⟩ := by
  unfold overrideOwner
  rw [h]; rfl

theorem overrideOwner_own (h : (s.claims.get g).holder = some l) :
    overrideOwner raise g l ps s = ⟨.ok, .previousHolder (some l), s⟩ := by
  unfold overrideOwner
  rw [h]
  exact if_pos rfl

theorem overrideOwner_takes (h : (s.claims.get g).holder = some x) (hx : x ≠ l) :
    overrideOwner raise g l ps s = ⟨.ok, .previousHolder (some x), raise ⟨.group g, .claimLost, s.time, .only x⟩
      (s.modClaim g fun c => c.overrideBy l x s.time)⟩ := by
  unfold overrideOwner
  rw [h]
  exact if_neg hx

end Override

/-- Settles O23: the owner's three answers; the holder before is told. -/
theorem overrideTakesTheGroup : Obligations.OverrideTakesTheGroup := fun l tag ps s g sent quiet hg => by
  have owner := fun raise => forGroup_of (k := overrideOwner raise) hg l (heard Form.override l tag ps s)
  refine ⟨fun free => ?_, fun own => ?_, fun x taken other => ?_⟩
  · have answer := (owner raiseFactor).trans (overrideOwner_free (s := heard Form.override l tag ps s) free)
    exact congrArg Host.Outcome.next (serveEvent_done (owner := fun raise => forGroup (overrideOwner raise))
      (u := giveGroup g l (heard Form.override l tag ps s)) sent tag answer rfl quiet.work)
  · have answer := (owner raiseFactor).trans (overrideOwner_own (s := heard Form.override l tag ps s) own)
    exact congrArg Host.Outcome.next (serveEvent_done sent tag answer rfl quiet.work)
  · have answer := (owner raiseFactor).trans (overrideOwner_takes (s := heard Form.override l tag ps s) taken other)
    obtain ⟨t, ht, kept, attendance, links, claims, draft, plain⟩ := serveEvent_raises (tag := tag)
      (owner := fun raise => forGroup (overrideOwner raise))
      (v := (heard Form.override l tag ps s).modClaim g fun c => c.overrideBy l x s.time) sent quiet answer
      { heard_kept Form.override l tag ps s with } rfl rfl rfl rfl
    exact ⟨t, congrArg Host.Outcome.next ht, kept, links, attendance, draft, claims, plain⟩

end Sys2Proof.Machine
end

section
/-! PROOFS. The reads. -/

namespace Sys2Proof.Machine

set_option Elab.async false

/-! ## The caps in force (R99, R104) -/

/-- The least of a list that is not empty is a member, and no member is less. -/
theorem foldl_min_spec (v : Nat) (vs : List Nat) :
    vs.foldl min v ∈ v :: vs ∧ ∀ c ∈ v :: vs, vs.foldl min v ≤ c := by
  induction vs generalizing v with
  | nil => exact ⟨List.mem_singleton_self v, fun c hc => (List.mem_singleton.mp hc).ge⟩
  | cons w vs ih =>
    obtain ⟨member, least⟩ := ih (min v w)
    have below : vs.foldl min (min v w) ≤ min v w := least _ List.mem_cons_self
    refine ⟨?_, fun c hc => ?_⟩
    · rw [List.foldl_cons]
      rcases List.mem_cons.mp member with e | e
      · rw [e]
        rcases min_choice v w with m | m <;> rw [m] <;> simp
      · simp [e]
    · rw [List.foldl_cons]
      rcases List.mem_cons.mp hc with rfl | hc
      · exact below.trans (min_le_left _ _)
      · rcases List.mem_cons.mp hc with rfl | hc
        · exact below.trans (min_le_right _ _)
        · exact least c (List.mem_cons_of_mem _ hc)

theorem mem_caps (p : Vector (Option Nat) 8) (c : Nat) : c ∈ p.toList.filterMap id ↔ ∃ e : EntryNo, p[e] = some c := by
  rw [List.mem_filterMap]
  constructor
  · rintro ⟨o, ho, rfl⟩
    obtain ⟨i, hi, e⟩ := Vector.mem_iff_getElem.mp (Vector.mem_toList_iff.mp ho)
    exact ⟨⟨i, hi⟩, e⟩
  · rintro ⟨e, he⟩
    exact ⟨some c, Vector.mem_toList_iff.mpr (he ▸ Vector.getElem_mem e.isLt), rfl⟩

/-- CAP as READ_TRAVEL shows it: the lowest of the caps held (R99, R109). -/
theorem capSource_spec (s : State) : (s.capSource.inForce = true ↔ ∃ e : EntryNo, s.travel.caps[e] ≠ none) ∧
    (s.capSource.inForce = true → (∃ e : EntryNo, s.travel.caps[e] = some s.capSource.value) ∧
      ∀ (e : EntryNo) c, s.travel.caps[e] = some c → s.capSource.value ≤ c) := by
  have caps := mem_caps s.travel.caps
  unfold State.capSource
  cases h : s.travel.caps.toList.filterMap id with
  | nil =>
    rw [h] at caps
    refine ⟨⟨nofun, fun ⟨e, he⟩ => ?_⟩, nofun⟩
    obtain ⟨c, hc⟩ := Option.ne_none_iff_exists'.mp he
    exact nomatch (caps c).mpr ⟨e, hc⟩
  | cons v vs =>
    rw [h] at caps
    obtain ⟨member, least⟩ := foldl_min_spec v vs
    obtain ⟨e, he⟩ := (caps _).mp member
    exact ⟨⟨fun _ => ⟨e, by rw [he]; exact nofun⟩, fun _ => rfl⟩,
      fun _ => ⟨⟨e, he⟩, fun k c hc => least c ((caps c).mpr ⟨k, hc⟩)⟩⟩

/-- R91, in the counts of 0.1 km/h that READ_TRAVEL shows. -/
theorem toCounts_rampTarget (s : State) : toCounts s.rampTarget = if s.travel.state = .drive then
    (if 0 ≤ s.travel.demand then min s.travel.demand s.travel.ceiling
      else max s.travel.demand (-(s.reverseCeiling : Int))) else 0 := by
  have whole : ∀ v : Int, toCounts (v * 100) = v := fun v => Int.mul_tdiv_cancel v (by decide)
  unfold State.rampTarget
  split
  · rename_i drive
    rw [if_pos drive]
    split
    · exact whole _
    · exact whole _
  · rename_i other
    rw [if_neg other]
    rfl

/-! ## Reads answered from the state (R37 to R187) -/

section Reads

variable {f : Form} {l : Station} {tag : Byte} {ps : List Byte} {s : State}

theorem readProfileOwner_slot (st : Station) (s : State) {n : SlotNo} (h : n.val = byteAt ps 0) :
    readProfileOwner st ps s = ⟨.ok, .slot (s.slot n), s⟩ := by
  unfold readProfileOwner
  simp only [slotOf_of_val h]
  rfl

theorem readProfileOwner_draft (st : Station) (s : State) (h : byteAt ps 0 = 0xFE) :
    readProfileOwner st ps s = ⟨.ok, .draft s.profile.draft, s⟩ := by
  unfold readProfileOwner
  simp only [h, slotOf_of_ge (show 8 ≤ 0xFE by decide), if_true]
  rfl

theorem readProfileOwner_badParam (st : Station) (s : State) (h : 8 ≤ byteAt ps 0) (hd : byteAt ps 0 ≠ 0xFE) :
    readProfileOwner st ps s = ⟨.badParam, .none, s⟩ := by
  unfold readProfileOwner
  simp only [slotOf_of_ge h, if_neg hd]
  rfl

theorem changeoverData_record {c : Changeover} (h : s.profile.changeover = some c) : changeoverData s = .changeover c := by
  unfold changeoverData
  rw [h]

theorem changeoverData_none (h : s.profile.changeover = none) :
    changeoverData s = .noChangeover (s.slotUsed .active) := by
  unfold changeoverData
  rw [h]

theorem readCommissionOwner_status (st : Station) (s : State) (h : byteAt ps 0 = 0) :
    readCommissionOwner st ps s = ⟨.ok, .partStatus (partStatus s), s⟩ := by
  unfold readCommissionOwner
  simp only [if_pos h]
  rfl

theorem readCommissionOwner_item (st : Station) (s : State) (h : byteAt ps 0 ≠ 0) :
    readCommissionOwner st ps s = ⟨.ok, .item (s.item? (byteAt ps 0)), s⟩ := by
  unfold readCommissionOwner
  simp only [if_neg h]
  rfl

theorem forArm_of {k : Arm → Owner} {a : Arm} (h : armOf (byteAt ps 0) = some a) (l : Station) (s : State) :
    forArm k l ps s = k a l ps s := by
  unfold forArm
  rw [h]

/-- A read whose data are the state's, as the frame end finds it. -/
theorem serve_read {d : State → Payload} (h : Sent f l ps s) (hd : d (heard f l tag ps s) = d s) :
    serve f (fun _ _ t => .okWith (d t) t) l tag ps s = replied f l tag ps .ok (d s) s :=
  serve_replied h tag (congrArg (Answer.mk .ok · _) hd)

end Reads

/-- Settles O60: each read's data is an item of the state that the frame end leaves as it was. -/
theorem readsAnswerTheState : Obligations.ReadsAnswerTheState := fun l tag ps s => by
  refine ⟨fun g sent hg => ?_, fun sent => ⟨fun n hn => ?_, fun draft => ?_, fun high other => ?_⟩,
    fun sent => ⟨fun c hc => ?_, fun none => ?_⟩, fun sent => ?_, fun a sent ha => ?_, fun sent => ?_, fun sent => ?_,
    fun sent => ?_, fun sent => ?_, fun sent => ⟨fun status => ?_, fun item => ?_⟩, fun sent => ?_⟩
  · exact congrArg Host.Outcome.next (serve_claim_replied sent hg rfl)
  · exact congrArg Host.Outcome.next (serve_replied sent tag (readProfileOwner_slot l _ hn))
  · exact congrArg Host.Outcome.next (serve_replied sent tag (readProfileOwner_draft l _ draft))
  · exact congrArg Host.Outcome.next (serve_replied sent tag (readProfileOwner_badParam l _ high other))
  · rw [← changeoverData_record hc]
    exact congrArg Host.Outcome.next (serve_read sent rfl)
  · rw [← changeoverData_none none]
    exact congrArg Host.Outcome.next (serve_read sent rfl)
  · obtain ⟨inForce, lowest⟩ := capSource_spec s
    exact ⟨travelView s, congrArg Host.Outcome.next (serve_read sent rfl), rfl, rfl, rfl, toCounts_rampTarget s, rfl, rfl,
      rfl, rfl, inForce, lowest, fun e => Vector.getElem_map _ _, rfl, rfl, rfl, rfl, rfl, rfl, rfl, rfl, rfl, rfl, rfl,
      rfl, rfl, rfl⟩
  · exact congrArg Host.Outcome.next (serve_replied sent tag (forArm_of ha l _))
  · exact congrArg Host.Outcome.next (serve_read sent rfl)
  · exact congrArg Host.Outcome.next (serve_read sent rfl)
  · exact congrArg Host.Outcome.next (serve_read sent rfl)
  · exact congrArg Host.Outcome.next (serve_read sent rfl)
  · exact congrArg Host.Outcome.next (serve_replied sent tag (readCommissionOwner_status l _ status))
  · exact congrArg Host.Outcome.next (serve_replied sent tag (readCommissionOwner_item l _ item))
  · have answer : readResetCauseOwner l ps (heard Form.readResetCause l tag ps s) = ⟨.ok,
        .resetCauses (s.supervision.resetCauses.get l), (heard Form.readResetCause l tag ps s).modSupervision fun v =>
          { v with resetCauses := v.resetCauses.set l ResetCauses.empty }⟩ := rfl
    exact congrArg Host.Outcome.next (serve_done sent tag answer rfl)

end Sys2Proof.Machine
end

section
/-! PROOFS. Handing a group on, whatever is bound and with no reaction bound. -/

namespace Sys2Proof.Machine

set_option Elab.async false

/-! ## What the operations on claims, drafts and records leave of the other blocks -/

/-- What a change of claims, of attendance records or of the draft leaves, with the cascades it brings. -/
structure Aside (s t : State) : Prop extends Kept s t where
  links : t.links = s.links
  pendingReset : t.supervision.pendingReset = s.supervision.pendingReset
  reset : s.supervision.pendingReset = none → s.work.reset = none → t.work.reset = none
  parked : s.travel.state = .parked → t.travel.state = .parked
  safe : t.supervision.safeStop = s.supervision.safeStop
  causes : t.supervision.causes = s.supervision.causes

theorem Aside.trans {s t u : State} (h : Aside s t) (k : Aside t u) : Aside s u where
  toKept := h.toKept.trans k.toKept
  links := k.links.trans h.links
  pendingReset := k.pendingReset.trans h.pendingReset
  reset hp hw := k.reset (h.pendingReset.trans hp) (h.reset hp hw)
  parked := k.parked ∘ h.parked
  safe := k.safe.trans h.safe
  causes := k.causes.trans h.causes

theorem Cascade.aside {s t : State} (f : Cascade s t) : Aside s t where
  toKept := f.kept
  links := f.links
  pendingReset := f.pendingReset
  reset := f.reset
  parked := f.parked
  safe := (f.safe nofun).1
  causes := f.causes nofun

/-- Claims, attendance records, profiles and notices changed with nothing else. -/
theorem Aside.changed (s : State) (c : PerGroup Claim) (a : PerStation Attendance) (p : Profiles)
    (n : PerStation StationNotices) : Aside s { s with claims := c, attendance := a, profile := p, notices := n } :=
  ⟨⟨rfl, rfl, rfl, rfl, rfl, rfl, rfl, rfl, rfl⟩, rfl, rfl, fun _ => id, id, rfl, rfl⟩

theorem Aside.modClaim (s : State) (g : Group) (f : Claim → Claim) : Aside s (s.modClaim g f) :=
  .changed s _ s.attendance s.profile s.notices

theorem discardDraftOf_aside {raise : Raiser} (hr : ∀ r u, Cascade u (raise r u)) (st : Station) (s : State) :
    Aside s (discardDraftOf raise st s) := by
  unfold discardDraftOf
  split
  · split
    · exact Aside.trans (t := closeDraft s) (.changed s s.claims s.attendance _ s.notices) (hr _ _).aside
    · exact (Cascade.refl s).aside
  · exact (Cascade.refl s).aside

/-- R26, R52: a station's draft is closed, another's stays. -/
theorem discardDraftOf_draft {raise : Raiser} (hr : ∀ r u, Cascade u (raise r u)) (st : Station) {s : State} {d : Draft}
    (hd : s.profile.draft = some d) :
    (discardDraftOf raise st s).profile.draft = if d.owner = st then none else some d := by
  unfold discardDraftOf
  simp only [hd]
  split
  · exact (hr _ _).draft
  · exact hd

theorem discardDraftOf_owned {raise : Raiser} {st : Station} {s : State} {d : Draft} (hd : s.profile.draft = some d)
    (ho : d.owner = st) : discardDraftOf raise st s =
      raise ⟨.slot d.origin, .draftDiscarded, s.time, .only st⟩ (closeDraft s) := by
  unfold discardDraftOf
  simp only [hd]
  exact if_pos ho

theorem lostGroup_aside {raise : Raiser} (hr : ∀ r u, Cascade u (raise r u)) (g : Group) (st : Station) (s : State) :
    Aside s (lostGroup raise g st s) := by
  unfold lostGroup
  split
  · exact (Cascade.travelHolderGone s).aside
  · exact discardDraftOf_aside hr st s
  · exact (Cascade.refl s).aside

theorem lostGroup_roll {raise : Raiser} (hr : ∀ r u, Cascade u (raise r u)) (g : Group) (st : Station) (s : State) :
    RollKept s (lostGroup raise g st s) := by
  unfold lostGroup
  split
  · exact (Cascade.travelHolderGone s).roll
  · exact discardDraftOf_roll hr st s
  · exact .refl s

theorem lostGroup_draft {raise : Raiser} (hr : ∀ r u, Cascade u (raise r u)) (g : Group) (st : Station) {s : State}
    {d : Draft} (hd : s.profile.draft = some d) :
    (lostGroup raise g st s).profile.draft = if g = .profile ∧ d.owner = st then none else some d := by
  cases g
  case travel => exact (Cascade.travelHolderGone s).draft.trans (hd.trans (if_neg fun h => nomatch h.1).symm)
  case profile =>
    refine (discardDraftOf_draft hr st hd).trans ?_
    simp only [true_and]
  all_goals exact hd.trans (if_neg fun h => nomatch h.1).symm

/-! ## With no reaction bound: a raise is a delivery (R167, R176) -/

theorem StationNotices.take_held (v : StationNotices) (h : HeldRecord) (k : Fin 24) :
    (v.take h).held[k] = if k = h.detail.factor then some h else v.held[k] := by
  split
  · rename_i e
    subst e
    unfold StationNotices.take StationNotices.append
    dsimp only
    split
    · exact Vector.getElem_set_self _
    · split <;> exact Vector.getElem_set_self _
  · exact (StationNotices.take_other v h k ‹_›).1

/-- A delivery at a station and a factor: the raise is held where it reaches the station. -/
theorem deliver_held (r : Raise) (s : State) (x : Station) (k : Fin 24) :
    ((deliver r none s).notices.get x).held[k] =
      if s.reaches r.audience x = true ∧ k = r.detail.factor then some (r.record none) else (s.notices.get x).held[k] := by
  rw [deliver_get]
  by_cases h : s.reaches r.audience x = true
  · rw [if_pos h, StationNotices.take_held]
    simp only [h, true_and]
    rfl
  · rw [if_neg h, if_neg fun e => h e.1]

theorem reaches_only (s : State) (x w : Station) : s.reaches (.only w) x = true ↔ s.attends x = true ∧ x = w := by
  show (s.attends x && x == w) = true ↔ _
  rw [Bool.and_eq_true, beq_iff_eq]

/-- What is left, with no reaction bound, by the operations that hand a group on, but for the Travel Governor. -/
structure Telling (s t : State) : Prop where
  reactions : t.reactions = s.reactions
  supervision : t.supervision = s.supervision
  time : t.time = s.time
  work : ∃ r, t.work = { s.work with reset := r }

theorem Telling.refl (s : State) : Telling s s := ⟨rfl, rfl, rfl, s.work.reset, rfl⟩

theorem Telling.trans {s t u : State} (h : Telling s t) (k : Telling t u) : Telling s u := by
  obtain ⟨q, hq⟩ := h.work
  obtain ⟨r, hr⟩ := k.work
  exact ⟨k.reactions.trans h.reactions, k.supervision.trans h.supervision, k.time.trans h.time, r, by rw [hr, hq]⟩

theorem Telling.unbound {s t : State} (h : Telling s t) (hn : NoReactions s) : NoReactions t := fun e => by
  rw [h.reactions]; exact hn e

theorem Telling.modClaim (s : State) (g : Group) (f : Claim → Claim) : Telling s (s.modClaim g f) :=
  ⟨rfl, rfl, rfl, s.work.reset, rfl⟩

theorem Plainly.telling {raise : Raiser} (hr : Plainly raise) {s : State} (hn : NoReactions s) (r : Raise) :
    Telling s (raise r s) ∧ (raise r s).travel = s.travel := by
  rw [hr r s hn]
  exact ⟨⟨rfl, rfl, rfl, s.work.reset, rfl⟩, rfl⟩

/-! ## The TRAVEL holder gone (R98) -/

theorem Travel.holderGone.congr {g h h' : Travel} (k : g.holderGone h) (e : h'.course = h.course) : g.holderGone h' := by
  have state : h'.state = h.state := congrArg Course.state e
  have demand : h'.demand = h.demand := congrArg Course.demand e
  have causes : h'.causes = h.causes := congrArg Course.causes e
  unfold Travel.holderGone at k ⊢
  rw [state, demand, causes]
  exact k

/-- The TG alone takes the cause, and a settled reset may become due. -/
theorem travelHolderGone_plain {s : State} (hn : NoReactions s) : ∃ g r,
    travelHolderGone s = { s with travel := g, work := { s.work with reset := r } } ∧ s.travel.holderGone g := by
  unfold travelHolderGone
  split
  · rename_i h
    have drive : s.travel.state = .drive := beq_iff_eq.mp h
    obtain ⟨g, r, e, takes, resetPending, _⟩ := enterStopping_eq hn fun c => { c with holderGone := true }
    have safe : g.safeStop = s.travel.safeStop := by
      have kept := ((Cascade.enterStopping (fun c => { c with holderGone := true }) s).safe nofun).2.2
      rw [e] at kept
      exact kept
    obtain ⟨demand, atRest, moving⟩ := takes.drives (.inr drive)
    rw [safe, resetPending] at atRest
    exact ⟨g, r, e, fun other => absurd drive other, fun _ => ⟨demand, atRest, moving⟩⟩
  · rename_i h
    exact ⟨s.travel, s.work.reset, rfl, fun _ => ⟨rfl, rfl, rfl⟩, fun e => absurd (beq_iff_eq.mpr e) h⟩

theorem travelHolderGone_telling {s : State} (hn : NoReactions s) : Telling s (travelHolderGone s) ∧
    (travelHolderGone s).notices = s.notices := by
  obtain ⟨g, r, e, _⟩ := travelHolderGone_plain hn
  rw [e]
  exact ⟨⟨rfl, rfl, rfl, r, rfl⟩, rfl⟩

section Unbound

variable {raise : Raiser} (hr : Plainly raise) {s : State} (hn : NoReactions s)
include hr hn

theorem grantRaise_telling (g : Group) (why : Handover) (o : Option Station) :
    Telling s (grantRaise raise g why o s) ∧ (grantRaise raise g why o s).travel = s.travel := by
  unfold grantRaise
  split
  · exact hr.telling hn _
  · exact ⟨.refl s, rfl⟩

/-- CLAIM_GRANTED is held by the new holder, where it attends, and by no other. -/
theorem grantRaise_held (g : Group) (why : Handover) (o : Option Station) (x : Station) (k : Fin 24) :
    ((grantRaise raise g why o s).notices.get x).held[k] =
      if (s.attends x = true ∧ o = some x) ∧ k = 2 then some ⟨.group g, .claimGranted why, s.time, none⟩
      else (s.notices.get x).held[k] := by
  unfold grantRaise
  split
  · rename_i w
    rw [hr _ _ hn]
    refine (deliver_held _ s x k).trans ?_
    simp only [reaches_only, Option.some.injEq, eq_comm (a := w)]
    rfl
  · simp

theorem discardDraftOf_telling (st : Station) :
    Telling s (discardDraftOf raise st s) ∧ (discardDraftOf raise st s).travel = s.travel := by
  unfold discardDraftOf
  split
  · split
    · obtain ⟨told, same⟩ := hr.telling (s := closeDraft s) hn _
      exact ⟨Telling.trans (t := closeDraft s) ⟨rfl, rfl, rfl, s.work.reset, rfl⟩ told, same⟩
    · exact ⟨.refl s, rfl⟩
  · exact ⟨.refl s, rfl⟩

/-- DRAFT_DISCARDED is the only factor that a discarded draft raises. -/
theorem discardDraftOf_held (st : Station) (x : Station) (k : Fin 24) (hk : k ≠ 22) :
    ((discardDraftOf raise st s).notices.get x).held[k] = (s.notices.get x).held[k] := by
  unfold discardDraftOf
  split
  · split
    · rw [hr _ (closeDraft s) hn]
      exact (deliver_held _ (closeDraft s) x k).trans (if_neg fun h => hk h.2)
    · rfl
  · rfl

/-- The owner of a discarded draft holds DRAFT_DISCARDED with the origin slot. -/
theorem discardDraftOf_told {st : Station} {d : Draft} (hd : s.profile.draft = some d) (ho : d.owner = st)
    (ha : s.attends st = true) : ((discardDraftOf raise st s).notices.get st).held[(22 : Fin 24)] =
      some ⟨.slot d.origin, .draftDiscarded, s.time, none⟩ := by
  rw [discardDraftOf_owned hd ho, hr _ (closeDraft s) hn]
  exact (deliver_held _ (closeDraft s) st 22).trans (if_pos ⟨(reaches_only _ _ _).mpr ⟨ha, rfl⟩, rfl⟩)

theorem lostGroup_telling (g : Group) (st : Station) : Telling s (lostGroup raise g st s) := by
  unfold lostGroup
  split
  · exact (travelHolderGone_telling hn).1
  · exact (discardDraftOf_telling hr hn st).1
  · exact .refl s

theorem lostGroup_held (g : Group) (st x : Station) (k : Fin 24) (hk : k ≠ 22) :
    ((lostGroup raise g st s).notices.get x).held[k] = (s.notices.get x).held[k] := by
  unfold lostGroup
  split
  · rw [(travelHolderGone_telling hn).2]
  · exact discardDraftOf_held hr hn st x k hk
  · rfl

end Unbound

/-! ## The end of an event with no reaction bound -/

/-- What a station holds of a factor other than CEILING_CHANGED and FLOW_SHORT stands through the end of an event. -/
theorem finish_held {s : State} (hn : NoReactions s) (hp : s.supervision.pendingReset = none) (hw : s.work.reset = none)
    (hb : s.work.blocked = none) (hr : s.work.reached = []) (x : Station) {k : Fin 24} (h12 : k ≠ 12) (h13 : k ≠ 13) :
    ((finish s).notices.get x).held[k] = (s.notices.get x).held[k] :=
  ((Ended.finish hn hp hw hb hr).held x k h12 h13).1

/-- The TG's course and the Supervision Unit stand through the end of an event that resets nothing. -/
theorem finish_course {s : State} (hn : NoReactions s) (hp : s.supervision.pendingReset = none) (hw : s.work.reset = none) :
    (finish s).travel.course = s.travel.course ∧ (finish s).supervision = s.supervision := by
  rw [finish_calm (settle_reset hp hw)]
  exact ⟨(Calm.settleAll hn).travel, (Calm.settleAll hn).supervision⟩

/-! ## RELEASE and YIELD (R30, R33, R34) -/

/-- A group handed on: the entry changed, the new holder told, the consequences for the one before. -/
def handOn (raise : Raiser) (g : Group) (why : Handover) (c : Claim → Claim) (st : Station) (s : State) : State :=
  lostGroup raise g st (grantRaise raise g why (s.claims.get g).waiting.head? (s.modClaim g c))

theorem releaseOwner_refused {raise : Raiser} {g : Group} {l : Station} {ps : List Byte} {s : State}
    (h : (s.claims.get g).holder ≠ some l) : releaseOwner raise g l ps s = ⟨.refusedState, .none, s⟩ :=
  if_neg fun e => h ((holds_iff s l g).mp e)

theorem releaseOwner_passes {raise : Raiser} {g : Group} {l : Station} {ps : List Byte} {s : State}
    (h : (s.claims.get g).holder = some l) :
    releaseOwner raise g l ps s = ⟨.ok, .none, handOn raise g .released (fun c => c.passOn s.time) l s⟩ :=
  if_pos ((holds_iff s l g).mpr h)

theorem yields_iff (s : State) (l : Station) (g : Group) : (s.holds l g && !(s.claims.get g).waiting.isEmpty) = true ↔
    (s.claims.get g).holder = some l ∧ (s.claims.get g).waiting ≠ [] := by
  rw [Bool.and_eq_true, holds_iff, Bool.not_eq_true', List.isEmpty_eq_false_iff]

theorem yieldOwner_refused {raise : Raiser} {g : Group} {l : Station} {ps : List Byte} {s : State}
    (h : (s.claims.get g).holder ≠ some l ∨ (s.claims.get g).waiting = []) :
    yieldOwner raise g l ps s = ⟨.refusedState, .none, s⟩ :=
  if_neg fun e => by
    obtain ⟨holds, waits⟩ := (yields_iff s l g).mp e
    exact h.elim (fun k => k holds) waits

theorem yieldOwner_passes {raise : Raiser} {g : Group} {l : Station} {ps : List Byte} {s : State}
    (h : (s.claims.get g).holder = some l) (hw : (s.claims.get g).waiting ≠ []) :
    yieldOwner raise g l ps s = ⟨.ok, .none, handOn raise g .yielded (fun c => c.yieldBy l s.time) l s⟩ :=
  if_pos ((yields_iff s l g).mpr ⟨h, hw⟩)

theorem handOn_aside {raise : Raiser} (hr : ∀ r u, Cascade u (raise r u)) (g : Group) (why : Handover)
    (c : Claim → Claim) (st : Station) (s : State) : Aside s (handOn raise g why c st s) :=
  ((Aside.modClaim s g c).trans (grantRaise_frame hr g why _ _).aside).trans (lostGroup_aside hr g st _)

theorem handOn_roll {raise : Raiser} (hr : ∀ r u, Cascade u (raise r u)) (g : Group) (why : Handover)
    (c : Claim → Claim) (st : Station) (s : State) : RollKept (s.modClaim g c) (handOn raise g why c st s) :=
  (grantRaise_frame hr g why _ _).roll.trans (lostGroup_roll hr g st _)

theorem handOn_draft {raise : Raiser} (hr : ∀ r u, Cascade u (raise r u)) (g : Group) (why : Handover)
    (c : Claim → Claim) (st : Station) {s : State} {d : Draft} (hd : s.profile.draft = some d) :
    (handOn raise g why c st s).profile.draft = if g = .profile ∧ d.owner = st then none else some d :=
  lostGroup_draft hr g st ((grantRaise_frame hr g why _ _).draft.trans hd)

section HandedOn

variable {raise : Raiser} (hr : Plainly raise) (hc : ∀ r u, Cascade u (raise r u)) {s : State} (hn : NoReactions s)
  (g : Group) (why : Handover) (c : Claim → Claim) (st : Station)
include hr hn

theorem handOn_telling : Telling s (handOn raise g why c st s) := by
  have claimed : NoReactions (s.modClaim g c) := hn
  have granted := (grantRaise_telling hr claimed g why (s.claims.get g).waiting.head?).1
  exact ((Telling.modClaim s g c).trans granted).trans (lostGroup_telling hr (granted.unbound claimed) g st)

/-- The new holder of a group, where it attends, holds CLAIM_GRANTED. -/
theorem handOn_granted {w : Station} {ws : List Station} (hw : (s.claims.get g).waiting = w :: ws)
    (ha : s.attends w = true) : ((handOn raise g why c st s).notices.get w).held[(2 : Fin 24)] =
      some ⟨.group g, .claimGranted why, s.time, none⟩ := by
  have claimed : NoReactions (s.modClaim g c) := hn
  have granted := (grantRaise_telling hr claimed g why (s.claims.get g).waiting.head?).1
  refine (lostGroup_held hr (granted.unbound claimed) g st w 2 (by decide)).trans ?_
  refine (grantRaise_held hr claimed g why _ w 2).trans (if_pos ⟨⟨ha, ?_⟩, rfl⟩)
  rw [hw]; rfl

/-- R98: of the TRAVEL group. -/
theorem handOn_travel : s.travel.holderGone (handOn raise .travel why c st s).travel := by
  have claimed : NoReactions (s.modClaim .travel c) := hn
  obtain ⟨granted, same⟩ := grantRaise_telling hr claimed .travel why (s.claims.get .travel).waiting.head?
  obtain ⟨h, r, e, gone⟩ := travelHolderGone_plain (granted.unbound claimed)
  rw [same] at gone
  show s.travel.holderGone (travelHolderGone _).travel
  rw [e]
  exact gone

include hc in
/-- R52: of the PROFILE group, its holder's draft. -/
theorem handOn_discarded {d : Draft} (hd : s.profile.draft = some d) (ho : d.owner = st) (ha : s.attends st = true) :
    ((handOn raise .profile why c st s).notices.get st).held[(22 : Fin 24)] =
      some ⟨.slot d.origin, .draftDiscarded, s.time, none⟩ := by
  have claimed : NoReactions (s.modClaim .profile c) := hn
  have granted := (grantRaise_telling hr claimed .profile why (s.claims.get .profile).waiting.head?).1
  have f := grantRaise_frame hc .profile why (s.claims.get .profile).waiting.head? (s.modClaim .profile c)
  have told := discardDraftOf_told hr (granted.unbound claimed) (f.draft.trans hd) ho
    ((State.attends_congr f.attendance st).trans ha)
  rw [f.time] at told
  exact told

end HandedOn

end Sys2Proof.Machine
end

section
/-! PROOFS. RELEASE and YIELD as requests. -/

namespace Sys2Proof.Machine

set_option Elab.async false

/-- A request with an event behind it ends the event over its owner's state, answered. -/
theorem serveEvent_finish {f : Form} {l : Station} {tag : Byte} {ps : List Byte} {s : State} (h : Sent f l ps s)
    {owner : Raiser → Owner} {st : Status} {d : Payload} {w : State}
    (ho : owner raiseFactor l ps (heard f l tag ps s) = ⟨st, d, w⟩) (hl : w.links = (heard f l tag ps s).links) :
    serveEvent f owner l tag ps s = finish { w with links := linksAfter f l tag ps st d s } :=
  congrArg finish (serve_done h tag ho hl)

/-- The end of an event over a state whose links have been answered: the laws' cascade, nothing left to do. -/
theorem finish_ends {s : State} (hp : s.supervision.pendingReset = none) (hw : s.work.reset = none) :
    ∃ u, finish s = u.modWork (fun _ => Work.clear) ∧ Cascade s u :=
  ⟨settleAll s, finish_calm (settle_reset hp hw), Cascade.settleAll s⟩

theorem Work.clear_reset {w : Work} (h : w = Work.clear) {v : Work} (hv : ∃ r, v = { w with reset := r }) :
    v.blocked = none ∧ v.reached = [] := by
  obtain ⟨r, rfl⟩ := hv
  subst h
  exact ⟨rfl, rfl⟩

section

variable {f : Form} {l : Station} {tag : Byte} {ps : List Byte} {s : State} {g : Group} {why : Handover}
  {c : Claim → Claim}

/-- A request that hands a group on: what stands after its event, whatever is bound. -/
theorem serve_handOn (sent : Sent f l ps s) (quiet : Quiet s) {owner : Raiser → Owner}
    (ho : owner raiseFactor l ps (heard f l tag ps s) = ⟨.ok, .none, handOn raiseFactor g why c l (heard f l tag ps s)⟩) :
    let t := serveEvent f owner l tag ps s
    Kept s t ∧ t.links = linksAfter f l tag ps .ok .none s ∧ t.attendance = unprepared l s ∧
      t.claims = s.claims.set g (c (s.claims.get g)) ∧
      ∀ d, s.profile.draft = some d → t.profile.draft = if g = .profile ∧ d.owner = l then none else some d := by
  have aside := handOn_aside Cascade.raiseFactor g why c l (heard f l tag ps s)
  have roll := handOn_roll Cascade.raiseFactor g why c l (heard f l tag ps s)
  have draft := fun d => handOn_draft Cascade.raiseFactor g why c l (s := heard f l tag ps s) (d := d)
  have ended := serveEvent_finish sent ho aside.links
  generalize handOn raiseFactor g why c l (heard f l tag ps s) = w at aside roll draft ended
  obtain ⟨u, hu, k⟩ := finish_ends (s := { w with links := linksAfter f l tag ps .ok .none s })
    (aside.pendingReset.trans quiet.noReset) (aside.reset quiet.noReset (congrArg Work.reset quiet.work))
  dsimp only
  rw [ended, hu]
  have answered : Kept s { w with links := linksAfter f l tag ps .ok .none s } :=
    { (heard_kept f l tag ps s).trans aside.toKept with }
  exact ⟨{ answered.trans k.kept with }, k.links, k.attendance.trans roll.attendance, k.claims.trans roll.claims,
    fun d hd => k.draft.trans (draft d hd)⟩

/-- The same with no reaction bound: who is told, and the TG's stop. -/
theorem serve_handOn_plain (sent : Sent f l ps s) (hf : f.exempt = false) (quiet : Quiet s) (hn : NoReactions s)
    {owner : Raiser → Owner}
    (ho : owner raiseFactor l ps (heard f l tag ps s) = ⟨.ok, .none, handOn raiseFactor g why c l (heard f l tag ps s)⟩) :
    let t := serveEvent f owner l tag ps s
    (∀ w ws, (s.claims.get g).waiting = w :: ws → s.attends w = true →
      (t.notices.get w).held[(2 : Fin 24)] = some ⟨.group g, .claimGranted why, s.time, none⟩) ∧
    (∀ d, s.profile.draft = some d → g = .profile → d.owner = l →
      (t.notices.get l).held[(22 : Fin 24)] = some ⟨.slot d.origin, .draftDiscarded, s.time, none⟩) ∧
    (g = .travel → s.travel.holderGone t.travel) := by
  have unbound : NoReactions (heard f l tag ps s) := hn
  have aside := handOn_aside Cascade.raiseFactor g why c l (heard f l tag ps s)
  have telling := handOn_telling raiseFactor_plainly unbound g why c l
  have ended := serveEvent_finish sent ho aside.links
  have still : NoReactions { handOn raiseFactor g why c l (heard f l tag ps s) with
    links := linksAfter f l tag ps .ok .none s } := telling.unbound unbound
  have noReset := aside.pendingReset.trans quiet.noReset
  have notDue := aside.reset quiet.noReset (congrArg Work.reset quiet.work)
  obtain ⟨blocked, reached⟩ := Work.clear_reset quiet.work telling.work
  have held := fun x {k : Fin 24} => finish_held (x := x) (k := k) still noReset notDue blocked reached
  dsimp only
  rw [ended]
  refine ⟨fun w ws hw ha => ?_, fun d hd hg howner => ?_, fun hg => ?_⟩
  · rw [held w (by decide) (by decide)]
    exact handOn_granted raiseFactor_plainly unbound g why c l hw ((tell_attends l s w).trans ha)
  · subst hg
    rw [held l (by decide) (by decide)]
    refine handOn_discarded raiseFactor_plainly Cascade.raiseFactor unbound why c l hd howner ((tell_attends l s l).trans ?_)
    exact sent.attends.resolve_left (by rw [hf]; exact nofun)
  · subst hg
    exact (handOn_travel raiseFactor_plainly unbound why c l).congr (finish_course still noReset notDue).1

end

/-! ## The entry handed on (R30, R33, R34) -/

theorem Claim.passOn_free {c : Claim} (h : c.waiting = []) (now : Time) : c.passOn now = ⟨none, now, []⟩ := by
  unfold Claim.passOn
  rw [h]

theorem Claim.passOn_oldest {c : Claim} {w : Station} {ws : List Station} (h : c.waiting = w :: ws) (hw : w ∉ ws)
    (now : Time) : c.passOn now = ⟨some w, now, ws⟩ := by
  have rest : (w :: ws).filter (· != w) = ws := by
    rw [List.filter_cons_of_neg (by simp)]
    exact List.filter_eq_self.mpr fun x hx => bne_iff_ne.mpr fun e => hw (e ▸ hx)
  unfold Claim.passOn Claim.give
  simp only [h, rest]

theorem Claim.yieldBy_oldest {c : Claim} {w : Station} {ws : List Station} (h : c.waiting = w :: ws) (hw : w ∉ ws)
    (l : Station) (now : Time) : c.yieldBy l now = ⟨some w, now, ws ++ [l]⟩ := by
  unfold Claim.yieldBy
  rw [Claim.passOn_oldest h hw]

theorem release_handsOn {l : Station} {tag : Byte} {ps : List Byte} {s : State} {g : Group} (sent : Sent Form.release l ps s)
    (quiet : Quiet s) (hg : groupOf (byteAt ps 0) = some g) :
    ((s.claims.get g).holder ≠ some l →
      exec (.release l tag ps) s = .next (replied Form.release l tag ps .refusedState .none s)) ∧
    ((s.claims.get g).holder = some l → forGroup (releaseOwner raiseFactor) l ps (heard Form.release l tag ps s) =
      ⟨.ok, .none, handOn raiseFactor g .released (fun c => c.passOn s.time) l (heard Form.release l tag ps s)⟩) := by
  have owner := fun raise => forGroup_of (k := releaseOwner raise) hg l (heard Form.release l tag ps s)
  refine ⟨fun h => ?_, fun h => (owner _).trans (releaseOwner_passes (s := heard Form.release l tag ps s) h)⟩
  have answer := (owner raiseFactor).trans (releaseOwner_refused (s := heard Form.release l tag ps s) h)
  exact congrArg Host.Outcome.next (serveEvent_done (owner := fun raise => forGroup (releaseOwner raise))
    (u := heard Form.release l tag ps s) sent tag answer rfl quiet.work)

theorem yield_handsOn {l : Station} {tag : Byte} {ps : List Byte} {s : State} {g : Group}
    (sent : Sent Form.yieldGroup l ps s) (quiet : Quiet s) (hg : groupOf (byteAt ps 0) = some g) :
    ((s.claims.get g).holder ≠ some l ∨ (s.claims.get g).waiting = [] →
      exec (.yield l tag ps) s = .next (replied Form.yieldGroup l tag ps .refusedState .none s)) ∧
    ((s.claims.get g).holder = some l → (s.claims.get g).waiting ≠ [] →
      forGroup (yieldOwner raiseFactor) l ps (heard Form.yieldGroup l tag ps s) =
      ⟨.ok, .none, handOn raiseFactor g .yielded (fun c => c.yieldBy l s.time) l (heard Form.yieldGroup l tag ps s)⟩) := by
  have owner := fun raise => forGroup_of (k := yieldOwner raise) hg l (heard Form.yieldGroup l tag ps s)
  refine ⟨fun h => ?_, fun h hw => (owner _).trans (yieldOwner_passes (s := heard Form.yieldGroup l tag ps s) h hw)⟩
  have answer := (owner raiseFactor).trans (yieldOwner_refused (s := heard Form.yieldGroup l tag ps s) h)
  exact congrArg Host.Outcome.next (serveEvent_done (owner := fun raise => forGroup (yieldOwner raise))
    (u := heard Form.yieldGroup l tag ps s) sent tag answer rfl quiet.work)

/-- Settles O22: both requests hand the group on; they differ in the entry and in the hand-over told. -/
theorem releaseAndYieldHandOn : Obligations.ReleaseAndYieldHandOn := by
  intro l tag ps s g yielding f c sent quiet hg
  cases yielding with
  | false =>
    obtain ⟨refused, passes⟩ := release_handsOn (tag := tag) sent quiet hg
    refine ⟨fun h => refused (h.resolve_right fun e => nomatch e.1), fun holds _ => ?_⟩
    obtain ⟨kept, links, attendance, claims, draft⟩ := serve_handOn (tag := tag)
      (owner := fun raise => forGroup (releaseOwner raise)) sent quiet (passes holds)
    have plain := fun hn => serve_handOn_plain (tag := tag) (owner := fun raise => forGroup (releaseOwner raise)) sent rfl
      quiet hn (passes holds)
    refine ⟨_, rfl, kept, links, attendance, fun _ free => ?_, fun w ws hw out => ⟨?_, fun hn => (plain hn).1 w ws hw⟩, draft,
      fun hn => (plain hn).2.1, fun hn => (plain hn).2.2⟩
    · exact claims.trans (by rw [Claim.passOn_free free])
    · exact claims.trans (by rw [Claim.passOn_oldest hw out]; rfl)
  | true =>
    obtain ⟨refused, passes⟩ := yield_handsOn (tag := tag) sent quiet hg
    refine ⟨fun h => refused (h.imp_right fun e => e.2), fun holds waits => ?_⟩
    obtain ⟨kept, links, attendance, claims, draft⟩ := serve_handOn (tag := tag)
      (owner := fun raise => forGroup (yieldOwner raise)) sent quiet (passes holds (waits rfl))
    have plain := fun hn => serve_handOn_plain (tag := tag) (owner := fun raise => forGroup (yieldOwner raise)) sent rfl
      quiet hn (passes holds (waits rfl))
    refine ⟨_, rfl, kept, links, attendance, nofun, fun w ws hw out => ⟨?_, fun hn => (plain hn).1 w ws hw⟩, draft,
      fun hn => (plain hn).2.1, fun hn => (plain hn).2.2⟩
    exact claims.trans (by rw [Claim.yieldBy_oldest hw out]; rfl)

end Sys2Proof.Machine
end

section
/-! PROOFS. A station leaving, whatever is bound. -/

namespace Sys2Proof.Machine

set_option Elab.async false

/-! ## One group (R25) -/

/-- The station gone from one group's entry. -/
def dropClaim (st : Station) (s : State) (g : Group) : State := s.modClaim g fun c => c.leave st s.time

theorem modClaim_congr {s : State} {g : Group} {f h : Claim → Claim} (e : f (s.claims.get g) = h (s.claims.get g)) :
    s.modClaim g f = s.modClaim g h := by
  show { s with claims := s.claims.set g (f (s.claims.get g)) } = _
  rw [e]
  rfl

theorem leaveGroup_holder {raise : Raiser} {st : Station} {w : Handover} {s : State} {g : Group}
    (h : (s.claims.get g).holder = some st) : leaveGroup raise st w s g =
      if g = .travel then travelHolderGone (grantRaise raise g w (s.claims.get g).waiting.head? (dropClaim st s g))
      else grantRaise raise g w (s.claims.get g).waiting.head? (dropClaim st s g) := by
  have entry : s.modClaim g (fun c => c.passOn s.time) = dropClaim st s g := modClaim_congr (if_pos h).symm
  unfold leaveGroup
  dsimp only
  rw [if_pos h, entry]

theorem leaveGroup_other {raise : Raiser} {st : Station} {w : Handover} {s : State} {g : Group}
    (h : (s.claims.get g).holder ≠ some st) : leaveGroup raise st w s g = dropClaim st s g := by
  unfold leaveGroup
  dsimp only
  rw [if_neg h]
  exact modClaim_congr (if_neg h).symm

/-- All that follows the change of the entry is a cascade. -/
theorem leaveGroup_cascade {raise : Raiser} (hr : ∀ r u, Cascade u (raise r u)) (st : Station) (w : Handover) (s : State)
    (g : Group) : Cascade (dropClaim st s g) (leaveGroup raise st w s g) := by
  by_cases h : (s.claims.get g).holder = some st
  · rw [leaveGroup_holder h]
    have granted := grantRaise_frame hr g w (s.claims.get g).waiting.head? (dropClaim st s g)
    split
    · exact granted.trans (Cascade.travelHolderGone _)
    · exact granted
  · rw [leaveGroup_other h]
    exact .refl _

theorem leaveGroup_aside {raise : Raiser} (hr : ∀ r u, Cascade u (raise r u)) (st : Station) (w : Handover) (s : State)
    (g : Group) : Aside s (leaveGroup raise st w s g) ∧ (leaveGroup raise st w s g).profile.draft = s.profile.draft :=
  have f := leaveGroup_cascade hr st w s g
  ⟨(Aside.modClaim s g _).trans f.aside, f.draft⟩

theorem leaveGroups_aside {raise : Raiser} (hr : ∀ r u, Cascade u (raise r u)) (st : Station) (w : Handover)
    (l : List Group) (s : State) : Aside s (l.foldl (leaveGroup raise st w) s) ∧
      (l.foldl (leaveGroup raise st w) s).profile.draft = s.profile.draft := by
  induction l generalizing s with
  | nil => exact ⟨(Cascade.refl s).aside, rfl⟩
  | cons g l ih =>
    obtain ⟨first, draft⟩ := leaveGroup_aside hr st w s g
    obtain ⟨rest, restDraft⟩ := ih (leaveGroup raise st w s g)
    exact ⟨first.trans rest, restDraft.trans draft⟩

/-! ## The teardown up to the test of R27 -/

/-- The state that the test of R27 is made on (R25, R26, R172). -/
def departed (raise : Raiser) (st : Station) (why : Departure) (s : State) : State :=
  recordCleared st why (departureTold raise st why s)

theorem withoutStation_aside {raise : Raiser} (hr : ∀ r u, Cascade u (raise r u)) (st : Station) (why : Departure)
    (s : State) : Aside s (withoutStation raise st why s) :=
  (leaveGroups_aside hr st _ Group.list s).1.trans (discardDraftOf_aside hr st _)

theorem withoutStation_draft {raise : Raiser} (hr : ∀ r u, Cascade u (raise r u)) (st : Station) (why : Departure)
    {s : State} {d : Draft} (hd : s.profile.draft = some d) :
    (withoutStation raise st why s).profile.draft = if d.owner = st then none else some d :=
  discardDraftOf_draft hr st ((leaveGroups_aside hr st _ Group.list s).2.trans hd)

theorem departed_aside {raise : Raiser} (hr : ∀ r u, Cascade u (raise r u)) (st : Station) (why : Departure) (s : State) :
    Aside s (departed raise st why s) :=
  ((withoutStation_aside hr st why s).trans (hr _ _).aside).trans (.changed _ _ _ _ _)

theorem Attendance.departed_state (v : Attendance) (why : Departure) : (v.departed why).state ≠ .attending := by
  cases why <;> exact nofun

/-- The station no longer attends; the others do as they did. -/
theorem departed_attends {raise : Raiser} (hr : ∀ r u, Cascade u (raise r u)) (st : Station) (why : Departure) (s : State)
    (x : Station) : (departed raise st why s).attends x = (if x = st then false else s.attends x) := by
  have told := (hr ⟨.station st, .stationLapsed why (s.attendance.get st).window, (withoutStation raise st why s).time,
    .every (some st)⟩ (withoutStation raise st why s)).attendance
  have records : (departureTold raise st why s).attendance = s.attendance :=
    told.trans (withoutStation_claims hr st why s).2
  show ((((departureTold raise st why s).attendance.set st _).get x).state == .attending) = _
  rw [PerStation.get_set_eq, records]
  split
  · exact beq_eq_false_iff_ne.mpr (Attendance.departed_state _ why)
  · rfl

/-- R27 asks nothing while another station attends, outside OPERATIONAL, or of a parked vehicle. -/
theorem noStationTest_stands {raise : Raiser} {s : State}
    (h : (∃ x, s.attends x = true) ∨ s.supervision.mode ≠ .operational ∨ s.travel.state = .parked) :
    noStationTest raise s = s := by
  unfold noStationTest
  refine if_neg fun e => ?_
  simp only [Bool.and_eq_true, Bool.not_eq_true', bne_iff_ne, beq_iff_eq, List.any_eq_false] at e
  obtain ⟨⟨none, mode⟩, moving⟩ := e
  rcases h with ⟨x, hx⟩ | h | h
  · exact none x (by cases x <;> decide) hx
  · exact h mode
  · exact moving h

/-- R27: no station attends the moving vehicle. -/
theorem noStationTest_stops {raise : Raiser} {s : State} (h : ∀ x, s.attends x = false)
    (hm : s.supervision.mode = .operational) (hp : s.travel.state ≠ .parked) :
    noStationTest raise s = enterSafeStop raise .noStation s := by
  unfold noStationTest
  refine if_pos ?_
  simp only [Bool.and_eq_true, Bool.not_eq_true', bne_iff_ne, beq_iff_eq, List.any_eq_false]
  exact ⟨⟨fun x _ => by rw [h x]; exact Bool.false_ne_true, hm⟩, hp⟩

/-! ## The event of a departure -/

theorem Frame.kept {x : Exc} {k : Reach} {s t : State} (f : Frame x k s t) : Kept s t :=
  ⟨f.pending, f.time, f.clock, f.capture, f.switches, f.items, f.mode, f.committed, f.resetCauses⟩

/-- The state after a departure's event, the links as answered. -/
def afterDeparture (st : Station) (why : Departure) (k : PerStation Link) (s : State) : State :=
  finish { teardown raiseFactor st why s with links := k }

/-- Nothing resets the part in a departure's event where no settled reset is pending. -/
theorem teardown_noReset (st : Station) (why : Departure) {s : State} (hq : Quiet s) :
    (teardown raiseFactor st why s).supervision.pendingReset = none ∧
      (teardown raiseFactor st why s).work.reset = none := by
  have aside := departed_aside Cascade.raiseFactor st why s
  have f := noStationTest_frame Cascade.raiseFactor (departed raiseFactor st why s)
  have none := aside.pendingReset.trans hq.noReset
  rw [teardown_eq]
  exact ⟨f.pendingReset.trans none, f.reset none (aside.reset hq.noReset (congrArg Work.reset hq.work))⟩

/-- R23 to R26, R172: what a departure leaves, whatever is bound. -/
theorem afterDeparture_spec (st : Station) (why : Departure) (k : PerStation Link) {s : State} (hq : Quiet s) :
    let t := afterDeparture st why k s
    Kept s t ∧ t.links = k ∧ t.attendance = s.attendance.set st ((s.attendance.get st).departed why) ∧
      (∀ g, t.claims.get g = (s.claims.get g).leave st s.time) ∧
      (∀ d, s.profile.draft = some d → t.profile.draft = if d.owner = st then none else some d) ∧
      t.notices.get st = StationNotices.reset := by
  have hr := Cascade.raiseFactor
  have aside := departed_aside hr st why s
  have f := noStationTest_frame hr (departed raiseFactor st why s)
  obtain ⟨claims, attendance⟩ := teardown_claims hr st why s
  obtain ⟨noReset, notDue⟩ := teardown_noReset st why hq
  have draft : ∀ d, s.profile.draft = some d →
      (departed raiseFactor st why s).profile.draft = if d.owner = st then none else some d := fun d hd =>
    (hr _ _).draft.trans (withoutStation_draft hr st why hd)
  have away : (departed raiseFactor st why s).attends st = false :=
    (departed_attends hr st why s st).trans (if_pos rfl)
  have cleared : (departed raiseFactor st why s).notices.get st = StationNotices.reset := PerStation.get_set_same _ _ _
  have gone : (teardown raiseFactor st why s).notices.get st = StationNotices.reset := by
    rw [teardown_eq]
    exact (f.away st away).trans cleared
  have still : (teardown raiseFactor st why s).attends st = false := by
    rw [teardown_eq]
    exact (State.attends_congr f.attendance st).trans away
  obtain ⟨u, hu, c⟩ := finish_ends (s := { teardown raiseFactor st why s with links := k }) noReset notDue
  have kept : Kept s (teardown raiseFactor st why s) := by
    rw [teardown_eq]
    exact aside.toKept.trans f.kept
  have answered : Kept s { teardown raiseFactor st why s with links := k } := { kept with }
  dsimp only
  unfold afterDeparture
  rw [hu]
  refine ⟨{ answered.trans c.kept with }, c.links, c.attendance.trans attendance, fun g => ?_, fun d hd => ?_, ?_⟩
  · exact (congrArg (PerGroup.get · g) c.claims).trans (claims g)
  · refine c.draft.trans ?_
    show (teardown raiseFactor st why s).profile.draft = _
    rw [teardown_eq]
    exact f.draft.trans (draft d hd)
  · exact (c.away st still).trans gone

/-- R27: safe stop and its causes stand where the test asks nothing. -/
theorem afterDeparture_stands (st : Station) (why : Departure) (k : PerStation Link) {s : State} (hq : Quiet s)
    (h : (∃ x, x ≠ st ∧ s.attends x = true) ∨ s.supervision.mode ≠ .operational ∨ s.travel.state = .parked) :
    teardown raiseFactor st why s = departed raiseFactor st why s ∧
    (afterDeparture st why k s).supervision.safeStop = s.supervision.safeStop ∧
    (afterDeparture st why k s).supervision.causes = s.supervision.causes := by
  have aside := departed_aside Cascade.raiseFactor st why s
  obtain ⟨noReset, notDue⟩ := teardown_noReset st why hq
  have stands : teardown raiseFactor st why s = departed raiseFactor st why s := by
    rw [teardown_eq]
    refine noStationTest_stands ?_
    rcases h with ⟨x, hx, ha⟩ | hm | hp
    · exact .inl ⟨x, (departed_attends Cascade.raiseFactor st why s x).trans ((if_neg hx).trans ha)⟩
    · exact .inr (.inl fun e => hm (aside.mode.symm.trans e))
    · exact .inr (.inr (aside.parked hp))
  obtain ⟨u, hu, c⟩ := finish_ends (s := { teardown raiseFactor st why s with links := k }) noReset notDue
  unfold afterDeparture
  rw [hu]
  refine ⟨stands, (c.safe nofun).1.trans ?_, (c.causes nofun).trans ?_⟩
  · show (teardown raiseFactor st why s).supervision.safeStop = _
    rw [stands]
    exact aside.safe
  · show (teardown raiseFactor st why s).supervision.causes = _
    rw [stands]
    exact aside.causes

end Sys2Proof.Machine
end

section
/-! PROOFS. A station leaving with no reaction bound. -/

namespace Sys2Proof.Machine

set_option Elab.async false

/-! ## One group left: who is told, and the TG's stop (R25, R30, R98) -/

section Unbound

variable {raise : Raiser} (hr : Plainly raise) {s : State} (hn : NoReactions s) (st : Station) (why : Handover)
include hr hn

theorem leaveGroup_telling (g : Group) : Telling s (leaveGroup raise st why s g) := by
  by_cases h : (s.claims.get g).holder = some st
  · have claimed : NoReactions (dropClaim st s g) := hn
    have granted := (grantRaise_telling hr claimed g why (s.claims.get g).waiting.head?).1
    have told := (Telling.modClaim s g _).trans granted
    rw [leaveGroup_holder h]
    split
    · exact told.trans (travelHolderGone_telling (granted.unbound claimed)).1
    · exact told
  · rw [leaveGroup_other h]
    exact .modClaim s g _

/-- CLAIM_GRANTED is held by the oldest waiter of a group that the station held, where it attends, and by no other. -/
theorem leaveGroup_held (g : Group) (x : Station) (k : Fin 24) :
    ((leaveGroup raise st why s g).notices.get x).held[k] =
      if (s.claims.get g).holder = some st ∧ (s.attends x = true ∧ (s.claims.get g).waiting.head? = some x) ∧ k = 2 then
        some ⟨.group g, .claimGranted why, s.time, none⟩
      else (s.notices.get x).held[k] := by
  by_cases h : (s.claims.get g).holder = some st
  · have claimed : NoReactions (dropClaim st s g) := hn
    have granted := (grantRaise_telling hr claimed g why (s.claims.get g).waiting.head?).1
    have held := grantRaise_held hr claimed g why (s.claims.get g).waiting.head? x k
    have notices : (leaveGroup raise st why s g).notices =
        (grantRaise raise g why (s.claims.get g).waiting.head? (dropClaim st s g)).notices := by
      rw [leaveGroup_holder h]
      split
      · exact (travelHolderGone_telling (granted.unbound claimed)).2
      · rfl
    simp only [h, true_and]
    rw [notices]
    exact held
  · rw [leaveGroup_other h, if_neg fun e => h e.1]
    rfl

/-- The TG stands as it was, but where its group was held. -/
theorem leaveGroup_travel {g : Group} (h : g = .travel → (s.claims.get g).holder ≠ some st) :
    (leaveGroup raise st why s g).travel = s.travel := by
  by_cases holds : (s.claims.get g).holder = some st
  · have claimed : NoReactions (dropClaim st s g) := hn
    rw [leaveGroup_holder holds, if_neg fun e => h e holds]
    exact (grantRaise_telling hr claimed g why _).2
  · rw [leaveGroup_other holds]
    rfl

/-- R98: the holder of TRAVEL gone. -/
theorem leaveGroup_holderGone (h : (s.claims.get .travel).holder = some st) :
    s.travel.holderGone (leaveGroup raise st why s .travel).travel := by
  have claimed : NoReactions (dropClaim st s .travel) := hn
  obtain ⟨granted, same⟩ := grantRaise_telling hr claimed .travel why (s.claims.get .travel).waiting.head?
  obtain ⟨g, r, e, gone⟩ := travelHolderGone_plain (granted.unbound claimed)
  rw [leaveGroup_holder h, if_pos rfl, e]
  rw [same] at gone
  exact gone

/-! ## The groups in order -/

theorem leaveGroups_telling (l : List Group) : Telling s (l.foldl (leaveGroup raise st why) s) := by
  induction l generalizing s with
  | nil => exact .refl s
  | cons g l ih =>
    have first := leaveGroup_telling hr hn st why g
    exact first.trans (ih (first.unbound hn))

theorem leaveGroups_travel {l : List Group} (hl : Group.travel ∉ l) :
    (l.foldl (leaveGroup raise st why) s).travel = s.travel := by
  induction l generalizing s with
  | nil => rfl
  | cons g l ih =>
    have first := leaveGroup_travel hr hn st why (g := g) fun e => absurd (e ▸ List.mem_cons_self) hl
    exact (ih ((leaveGroup_telling hr hn st why g).unbound hn) fun e => hl (List.mem_cons_of_mem g e)).trans first

/-- TRAVEL is the first group of the order; the others leave the TG. -/
theorem leaveAll_travel : (Group.list.foldl (leaveGroup raise st why) s).travel =
    (leaveGroup raise st why s .travel).travel :=
  leaveGroups_travel hr ((leaveGroup_telling hr hn st why .travel).unbound hn) st why
    (l := [.armL, .armR, .armC, .spray, .profile, .account]) (by decide)

section Granted

variable (hc : ∀ r u, Cascade u (raise r u)) {w : Station}
include hc

/-- What a station holds of CLAIM_GRANTED stands where it is given no group. -/
theorem leaveGroups_ungranted {l : List Group} (hl : l.Nodup)
    (h : ∀ k ∈ l, (s.claims.get k).holder = some st → (s.claims.get k).waiting.head? ≠ some w) :
    ((l.foldl (leaveGroup raise st why) s).notices.get w).held[(2 : Fin 24)] = (s.notices.get w).held[(2 : Fin 24)] := by
  induction l generalizing s with
  | nil => rfl
  | cons a l ih =>
    obtain ⟨ha, hl⟩ := List.nodup_cons.mp hl
    have first := (leaveGroup_held hr hn st why a w 2).trans
      (if_neg fun e => h a List.mem_cons_self e.1 e.2.1.2)
    refine (ih ((leaveGroup_telling hr hn st why a).unbound hn) hl fun k hk => ?_).trans first
    have other : k ≠ a := fun e => ha (e ▸ hk)
    rw [leaveGroup_claims hc, PerGroup.get_set_eq, if_neg other]
    exact h k (List.mem_cons_of_mem a hk)

/-- R30: the oldest waiter of one group, given no other, holds CLAIM_GRANTED for it. -/
theorem leaveGroups_granted {l : List Group} (hl : l.Nodup) {g : Group} (hg : g ∈ l)
    (holds : (s.claims.get g).holder = some st) (oldest : (s.claims.get g).waiting.head? = some w)
    (ha : s.attends w = true)
    (h : ∀ k ∈ l, k ≠ g → (s.claims.get k).holder = some st → (s.claims.get k).waiting.head? ≠ some w) :
    ((l.foldl (leaveGroup raise st why) s).notices.get w).held[(2 : Fin 24)] =
      some ⟨.group g, .claimGranted why, s.time, none⟩ := by
  induction l generalizing s with
  | nil => cases hg
  | cons a l ih =>
    obtain ⟨notIn, rest⟩ := List.nodup_cons.mp hl
    have unbound := (leaveGroup_telling hr hn st why a).unbound hn
    obtain ⟨time, records⟩ := leaveGroup_time hc st why s a
    have others : ∀ k, k ≠ a → (leaveGroup raise st why s a).claims.get k = s.claims.get k := fun k hk => by
      rw [leaveGroup_claims hc, PerGroup.get_set_eq, if_neg hk]
    have later : ∀ k ∈ l, k ≠ a := fun k hk e => notIn (e ▸ hk)
    rw [List.foldl_cons]
    rcases List.mem_cons.mp hg with e | hg
    · subst e
      have given := (leaveGroup_held hr hn st why g w 2).trans (if_pos ⟨holds, ⟨ha, oldest⟩, rfl⟩)
      refine (leaveGroups_ungranted hr unbound st why hc rest fun k hk => ?_).trans given
      rw [others k (later k hk)]
      exact h k (List.mem_cons_of_mem g hk) (later k hk)
    · have entry := others g (later g hg)
      rw [ih unbound rest hg (by rw [entry]; exact holds) (by rw [entry]; exact oldest)
        ((State.attends_congr records w).trans ha) fun k hk other => ?_, time]
      rw [others k (later k hk)]
      exact h k (List.mem_cons_of_mem a hk) other

end Granted

end Unbound

end Sys2Proof.Machine
end

section
/-! PROOFS. Safe stop entered where no station attends, with no reaction bound. -/

namespace Sys2Proof.Machine

set_option Elab.async false

/-! ## The state that the test of R27 is made on, with no reaction bound -/

section Unbound

variable {raise : Raiser} (hr : Plainly raise) {s : State} (hn : NoReactions s) (st : Station) (why : Departure)
include hr hn

theorem withoutStation_telling : Telling s (withoutStation raise st why s) :=
  have left := leaveGroups_telling hr hn st (handoverOf why) Group.list
  left.trans (discardDraftOf_telling hr (left.unbound hn) st).1

/-- A factor other than DRAFT_DISCARDED is held as the groups have left it. -/
theorem withoutStation_held (x : Station) (k : Fin 24) (hk : k ≠ 22) :
    ((withoutStation raise st why s).notices.get x).held[k] =
      ((Group.list.foldl (leaveGroup raise st (handoverOf why)) s).notices.get x).held[k] :=
  discardDraftOf_held hr ((leaveGroups_telling hr hn st _ _).unbound hn) st x k hk

theorem departed_telling : Telling s (departed raise st why s) := by
  have left := withoutStation_telling hr hn st why
  have told := left.trans (hr.telling (left.unbound hn) ⟨.station st, .stationLapsed why (s.attendance.get st).window,
    (withoutStation raise st why s).time, .every (some st)⟩).1
  exact told.trans ⟨rfl, rfl, rfl, _, rfl⟩

/-- The TG is as the first group left it. -/
theorem departed_travel :
    (departed raise st why s).travel = (leaveGroup raise st (handoverOf why) s .travel).travel := by
  have groups := leaveGroups_telling hr hn st (handoverOf why) Group.list
  have left := withoutStation_telling hr hn st why
  have told := (hr.telling (left.unbound hn) ⟨.station st, .stationLapsed why (s.attendance.get st).window,
    (withoutStation raise st why s).time, .every (some st)⟩).2
  exact (told.trans (discardDraftOf_telling hr (groups.unbound hn) st).2).trans (leaveAll_travel hr hn st _)

/-- R98: the TG where its group was held, and where it was not. -/
theorem departed_holderGone (h : (s.claims.get .travel).holder = some st) :
    s.travel.holderGone (departed raise st why s).travel := by
  rw [departed_travel hr hn]
  exact leaveGroup_holderGone hr hn st _ h

theorem departed_travel_stands (h : (s.claims.get .travel).holder ≠ some st) :
    (departed raise st why s).travel = s.travel :=
  (departed_travel hr hn st why).trans (leaveGroup_travel hr hn st _ fun _ => h)

/-- R26: what another station holds after the departure. -/
theorem departed_held (hc : ∀ r u, Cascade u (raise r u)) {x : Station} (hx : x ≠ st) (k : Fin 24) :
    ((departed raise st why s).notices.get x).held[k] =
      if s.attends x = true ∧ k = 1 then
        some ⟨.station st, .stationLapsed why (s.attendance.get st).window, s.time, none⟩
      else ((withoutStation raise st why s).notices.get x).held[k] := by
  have left := withoutStation_telling hr hn st why
  have records := (withoutStation_claims hc st why s).2
  have others : (departed raise st why s).notices.get x = (departureTold raise st why s).notices.get x :=
    (PerStation.get_set_eq _ st x _).trans (if_neg hx)
  have reached : (withoutStation raise st why s).reaches (.every (some st)) x = s.attends x := by
    show ((withoutStation raise st why s).attends x && _) = _
    rw [State.attends_congr records x]
    simp [hx.symm]
  rw [others, departureTold, hr _ _ (left.unbound hn)]
  refine (deliver_held _ _ x k).trans ?_
  rw [reached, ← left.time]
  rfl

end Unbound

/-! ## Safe stop with no reaction bound: the TG's course (R96, R182) -/

theorem Calm.cutShort {raise : Raiser} (hr : Plainly raise) {s : State} (hn : NoReactions s) :
    Calm none s (cutShort raise s) := by
  unfold Sys2Proof.Machine.cutShort
  split
  · exact .refl _ _
  · rename_i c _
    have h : Calm none s
        (Sys2Proof.Machine.handValues ((s.moveSlots .incoming .ready).moveSlots .outgoing .active).dropRecord) :=
      (((Calm.moveSlots s _ _).trans (Calm.moveSlots _ _ _)).trans (Calm.modProfile _ _)).trans (Calm.handValues _)
    exact h.trans (hr.calm (h.unbound hn) _)

theorem Steady.stowOrders {raise : Raiser} (hr : Plainly raise) (l : List Arm) {s : State} (hn : NoReactions s) :
    Steady s (l.foldl (fun t a => stowOrder raise a t) s) := by
  induction l generalizing s with
  | nil => exact .refl s
  | cons a l ih =>
    have first := (stowOrder_steady hr hn a).1
    exact first.trans (ih (first.unbound hn))

/-- STOPPING takes the cause and stands otherwise. -/
theorem travelTakesCause_stopping {s : State} (h : s.travel.state = .stopping) : travelTakesCause s =
    s.modTravel fun g => { g with causes := { g.causes with safeStop := true } } := by
  unfold travelTakesCause enterStopping
  rw [h]

/-- Safe stop handed on leaves a stopping TG with the cause added. -/
theorem handSafeStop_stopping {raise : Raiser} (hr : Plainly raise) {s : State} (hn : NoReactions s)
    (h : s.travel.state = .stopping) : (handSafeStop raise s).travel.course =
      { s.travel.course with causes := { s.travel.causes with safeStop := true }, safeStop := true } := by
  have taken := travelTakesCause_stopping (s := s.modTravel fun g => { g with safeStop := true }) h
  have unbound : NoReactions (travelTakesCause (s.modTravel fun g => { g with safeStop := true })) := by
    rw [taken]; exact hn
  have cut := Calm.cutShort hr unbound
  have stowed := Steady.stowOrders hr Arm.list (cut.unbound unbound)
  have sprayed := congrArg Travel.course (sprayTakesSafeStop_rest true (Arm.list.foldl (fun t a => stowOrder raise a t)
    (cutShort raise (travelTakesCause (s.modTravel fun g => { g with safeStop := true }))))).1
  refine sprayed.trans ((stowed.travel.trans cut.travel).trans ?_)
  rw [taken]
  rfl

/-- R181: a stopping TG after safe stop is entered, or a cause added to it. -/
theorem enterSafeStop_stopping {raise : Raiser} (hr : Plainly raise) {s : State} (hn : NoReactions s) (c : SafeCause)
    (h : s.travel.state = .stopping) : (enterSafeStop raise c s).travel.state = .stopping ∧
      (enterSafeStop raise c s).travel.demand = s.travel.demand ∧
      (enterSafeStop raise c s).travel.causes = { s.travel.causes with safeStop := true } := by
  have marked : NoReactions (s.modSupervision fun v => { v with safeStop := true, causes := v.causes.add c }) := hn
  have told := fun r => hr.telling marked r
  unfold enterSafeStop
  dsimp only
  generalize (s.modSupervision fun v => { v with safeStop := true, causes := v.causes.add c }).raiseOf _ _ = r
  obtain ⟨telling, same⟩ := told r
  generalize raise r _ = u at telling same
  have travel : u.travel = s.travel := same
  have stopping : u.travel.state = .stopping := by rw [travel]; exact h
  have demand : u.travel.demand = s.travel.demand := congrArg Travel.demand travel
  split
  · rw [travelTakesCause_stopping stopping]
    exact ⟨stopping, demand, by rw [← travel]; rfl⟩
  · have course := handSafeStop_stopping hr (telling.unbound marked) stopping
    refine ⟨(congrArg Course.state course).trans stopping, ?_, ?_⟩
    · exact (congrArg Course.demand course).trans demand
    · rw [← travel]
      exact congrArg Course.causes course

end Sys2Proof.Machine
end

section
/-! PROOFS. REPORT_OUT and WINDOW_COUNTER_EXPIRY, whole. -/

namespace Sys2Proof.Machine

set_option Elab.async false

theorem Frame.unbound {x : Exc} {k : Reach} {s t : State} (f : Frame x k s t) (hn : NoReactions s) : NoReactions t :=
  fun e => Option.eq_none_iff_forall_ne_some.mpr fun c hc => by
    obtain ⟨b, hb, _⟩ := f.reactions.old e c hc
    exact nomatch (hn e).symm.trans hb

/-! ## After a departure's event, with no reaction bound -/

section Unbound

variable {st : Station} {why : Departure} {k : PerStation Link} {s : State} (hq : Quiet s) (hn : NoReactions s)
include hq hn

/-- The TG's course and the Supervision Unit are as the teardown leaves them. -/
theorem afterDeparture_course : (afterDeparture st why k s).travel.course = (teardown raiseFactor st why s).travel.course ∧
    (afterDeparture st why k s).supervision = (teardown raiseFactor st why s).supervision := by
  have unbound : NoReactions (teardown raiseFactor st why s) := by
    rw [teardown_eq]
    exact (noStationTest_frame Cascade.raiseFactor _).unbound ((departed_telling raiseFactor_plainly hn st why).unbound hn)
  obtain ⟨noReset, notDue⟩ := teardown_noReset st why hq
  exact finish_course (s := { teardown raiseFactor st why s with links := k }) unbound noReset notDue

/-- R98: the TG where nothing but its own group's loss stops it. -/
theorem afterDeparture_travel (h : (∃ x, x ≠ st ∧ s.attends x = true) ∨ s.supervision.mode ≠ .operational) :
    ((s.claims.get .travel).holder = some st → s.travel.holderGone (afterDeparture st why k s).travel) ∧
    ((s.claims.get .travel).holder ≠ some st → (afterDeparture st why k s).travel.course = s.travel.course) := by
  have stands := (afterDeparture_stands st why k hq (h.imp_right .inl)).1
  have course := (afterDeparture_course (st := st) (why := why) (k := k) hq hn).1
  rw [stands] at course
  refine ⟨fun holds => (departed_holderGone raiseFactor_plainly hn st why holds).congr course, fun holds => ?_⟩
  rw [course, departed_travel_stands raiseFactor_plainly hn st why holds]

/-- What another attending station holds, but for CEILING_CHANGED and FLOW_SHORT. -/
theorem afterDeparture_held {x : Station} (hx : x ≠ st) (ha : s.attends x = true) {j : Fin 24} (h12 : j ≠ 12)
    (h13 : j ≠ 13) : ((afterDeparture st why k s).notices.get x).held[j] =
      ((departed raiseFactor st why s).notices.get x).held[j] := by
  have stands := (afterDeparture_stands st why k hq (.inl ⟨x, hx, ha⟩)).1
  have telling := departed_telling raiseFactor_plainly hn st why
  obtain ⟨noReset, notDue⟩ := teardown_noReset st why hq
  obtain ⟨blocked, reached⟩ := Work.clear_reset hq.work telling.work
  unfold afterDeparture
  rw [stands] at noReset notDue ⊢
  exact finish_held (s := { departed raiseFactor st why s with links := k }) (telling.unbound hn) noReset notDue blocked
    reached x h12 h13

/-- R26: the others hold STATION_LAPSED. -/
theorem afterDeparture_lapsed {x : Station} (hx : x ≠ st) (ha : s.attends x = true) :
    ((afterDeparture st why k s).notices.get x).held[(1 : Fin 24)] =
      some ⟨.station st, .stationLapsed why (s.attendance.get st).window, s.time, none⟩ :=
  (afterDeparture_held hq hn hx ha (by decide) (by decide)).trans
    ((departed_held raiseFactor_plainly hn st why Cascade.raiseFactor hx 1).trans (if_pos ⟨ha, rfl⟩))

/-- R25, R30: the oldest waiter of a group that the station held, given no other, holds CLAIM_GRANTED. -/
theorem afterDeparture_granted {g : Group} {w : Station} (holds : (s.claims.get g).holder = some st)
    (oldest : (s.claims.get g).waiting.head? = some w) (hw : w ≠ st) (ha : s.attends w = true)
    (h : ∀ k, k ≠ g → (s.claims.get k).holder = some st → (s.claims.get k).waiting.head? ≠ some w) :
    ((afterDeparture st why k s).notices.get w).held[(2 : Fin 24)] =
      some ⟨.group g, .claimGranted (handoverOf why), s.time, none⟩ := by
  have told := (departed_held raiseFactor_plainly hn st why Cascade.raiseFactor hw 2).trans (if_neg fun e => nomatch e.2)
  have groups := told.trans (withoutStation_held raiseFactor_plainly hn st why w 2 (by decide))
  refine ((afterDeparture_held hq hn hw ha (by decide) (by decide)).trans groups).trans ?_
  have nodup : Group.list.Nodup := by decide
  exact leaveGroups_granted raiseFactor_plainly hn st (handoverOf why) Cascade.raiseFactor nodup (mem_groupList g) holds
    oldest ha fun k _ => h k

section Last

variable (hm : s.supervision.mode = .operational) (hp : s.travel.state ≠ .parked) (hs : s.travel.safeStop = false)
  (hd : s.travel.resetPending = false) (ha : ∀ x, x ≠ st → s.attends x = false)
include hm hp hs hd ha

omit hq hm ha in
/-- A vehicle with no safe stop and no reset pending does not park when its holder goes. -/
theorem departed_notParked : (departed raiseFactor st why s).travel.state ≠ .parked := by
  by_cases holds : (s.claims.get .travel).holder = some st
  · obtain ⟨other, drive⟩ := departed_holderGone raiseFactor_plainly hn st why holds
    by_cases hdrive : s.travel.state = .drive
    · obtain ⟨_, atRest, moving⟩ := drive hdrive
      by_cases rest : s.travel.setpoint = 0 ∧ s.travel.wheelSpeed = 0
      · rw [(atRest rest).1, hs, hd]
        exact nofun
      · rw [(moving rest).1]
        exact nofun
    · rw [(other hdrive).1]
      exact hp
  · rw [departed_travel_stands raiseFactor_plainly hn st why holds]
    exact hp

omit hq in
/-- R27: the last station gone from the moving vehicle enters safe stop. -/
theorem teardown_last : teardown raiseFactor st why s = enterSafeStop raiseFactor .noStation (departed raiseFactor st why s) := by
  rw [teardown_eq]
  refine noStationTest_stops (fun x => ?_) ((departed_aside Cascade.raiseFactor st why s).mode.trans hm)
    (departed_notParked hn hp hs hd)
  refine (departed_attends Cascade.raiseFactor st why s x).trans ?_
  split
  · rfl
  · exact ha x ‹_›

/-- R27: safe stop in force with NO_STATION, and the driving vehicle of the TRAVEL holder stopping for both causes. -/
theorem afterDeparture_last : (afterDeparture st why k s).supervision.safeStop = true ∧
    (afterDeparture st why k s).supervision.causes = { s.supervision.causes with noStation := true } ∧
    ((s.claims.get .travel).holder = some st → s.travel.state = .drive →
      ¬(s.travel.setpoint = 0 ∧ s.travel.wheelSpeed = 0) →
      (afterDeparture st why k s).travel.state = .stopping ∧ (afterDeparture st why k s).travel.demand = 0 ∧
        (afterDeparture st why k s).travel.causes = { s.travel.causes with holderGone := true, safeStop := true }) := by
  have telling := departed_telling raiseFactor_plainly hn st why
  obtain ⟨course, supervision⟩ := afterDeparture_course (st := st) (why := why) (k := k) hq hn
  rw [teardown_last hn hm hp hs hd ha] at course supervision
  obtain ⟨inForce, causes⟩ := enterSafeStop_marks Cascade.raiseFactor .noStation (departed raiseFactor st why s)
  rw [telling.supervision] at causes
  rw [supervision]
  refine ⟨inForce, causes, fun holds drive moving => ?_⟩
  obtain ⟨demand, _, stops⟩ := (departed_holderGone raiseFactor_plainly hn st why holds).2 drive
  obtain ⟨stopping, gone⟩ := stops moving
  obtain ⟨state, same, added⟩ := enterSafeStop_stopping raiseFactor_plainly (telling.unbound hn) .noStation stopping
  rw [gone] at added
  exact ⟨(congrArg Course.state course).trans state, (congrArg Course.demand course).trans (same.trans demand),
    (congrArg Course.causes course).trans added⟩

end Last

end Unbound

/-! ## The two departures (R23, R24) -/

/-- How a station leaves: by its own request, or by its window. -/
def departureOf (left : Bool) : Departure := if left then .left else .expired

/-- The attendance records as heard before a departure's event: the station's own may differ, but not in its window, and
the same stations attend. -/
structure HeardRecords (st : Station) (s : State) (a : PerStation Attendance) : Prop where
  record : ∀ v, a.set st v = s.attendance.set st v
  window : (a.get st).window = (s.attendance.get st).window
  attends : ∀ x, { s with attendance := a }.attends x = s.attends x

theorem HeardRecords.unprepared (st : Station) (s : State) : HeardRecords st s (unprepared st s) where
  record := unprepared_set st s
  window := by rw [unprepared_get]
  attends := tell_attends st s

theorem teardown_links (st : Station) (why : Departure) (s : State) :
    (teardown raiseFactor st why s).links = s.links := by
  rw [teardown_eq]
  exact (noStationTest_frame Cascade.raiseFactor _).links.trans (departed_aside Cascade.raiseFactor st why s).links

/-- The event of an expiry answers nobody. -/
theorem departure_unanswered (st : Station) (why : Departure) (s : State) :
    event (fun raise => teardown raise st why) s = afterDeparture st why s.links s := by
  unfold afterDeparture
  rw [← teardown_links st why s]
  rfl

/-- Both departures end in the same event. -/
theorem departure_event {st : Station} {tag : Byte} {s : State} {left : Bool}
    (h : if left then Sent Form.reportOut st [] s else (s.attendance.get st).counter = .running 0) :
    ∃ l a, HeardRecords st s a ∧ exec (if left then .reportOut st tag [] else .windowCounterExpiry st) s =
      .next (afterDeparture st (departureOf left)
        (if left then linksAfter Form.reportOut st tag [] .ok .none s else s.links) { s with links := l, attendance := a }) := by
  cases left with
  | false =>
    exact ⟨s.links, s.attendance, ⟨fun _ => rfl, rfl, fun _ => rfl⟩, congrArg Host.Outcome.next
      ((if_pos (Timer.due_of_running_zero h)).trans (departure_unanswered st .expired s))⟩
  | true =>
    exact ⟨_, _, .unprepared st s, congrArg Host.Outcome.next
      (serveEvent_finish (owner := fun raise st _ t => .ok (teardown raise st .left t)) h rfl (teardown_links st .left _))⟩

/-! ## The entry left (R25) -/

theorem Claim.leave_oldest {c : Claim} {st w : Station} {ws : List Station} (h : c.holder = some st)
    (hw : c.waiting = w :: ws) (out : w ∉ ws) (now : Time) : c.leave st now = ⟨some w, now, ws⟩ :=
  (if_pos h).trans (Claim.passOn_oldest hw out now)

theorem Claim.leave_free {c : Claim} {st : Station} (h : c.holder = some st) (hw : c.waiting = []) (now : Time) :
    c.leave st now = ⟨none, now, []⟩ := (if_pos h).trans (Claim.passOn_free hw now)

theorem Claim.leave_other {c : Claim} {st : Station} (h : c.holder ≠ some st) (now : Time) :
    c.leave st now = { c with waiting := c.waiting.filter (· != st) } := if_neg h

theorem Attendance.departed_departureOf (v : Attendance) (left : Bool) : v.departed (departureOf left) =
    if left then ⟨.absent, none, .stopped, false⟩ else ⟨.lapsed, v.window, .stopped, false⟩ := by
  cases left <;> rfl

theorem handoverOf_departureOf (left : Bool) :
    handoverOf (departureOf left) = if left then .holderLeft else .holderLapsed := by
  cases left <;> rfl

/-- Settles O19: either departure is one event on the state as heard, and its clauses are what the teardown does to the
claim table, the records, the draft, the notices, the TG and the Supervision Unit. -/
theorem teardownClearsTheStation : Obligations.TeardownClearsTheStation := by
  intro st tag s left quiet given
  obtain ⟨l, a, ⟨record, window, attends⟩, run⟩ := departure_event (tag := tag) given
  have hq : Quiet { s with links := l, attendance := a } := ⟨quiet.work, quiet.noReset⟩
  have others : (∃ x, x ≠ st ∧ s.attends x = true) →
      ∃ x, x ≠ st ∧ { s with links := l, attendance := a }.attends x = true := fun ⟨x, hx, ha⟩ => ⟨x, hx, (attends x).trans ha⟩
  generalize (if left then linksAfter Form.reportOut st tag [] .ok .none s else s.links) = k at run ⊢
  obtain ⟨kept, links, records, claims, draft, cleared⟩ := afterDeparture_spec st (departureOf left) k hq
  refine ⟨_, run, { kept with }, ?_, links, fun g holds free => ?_, fun g w ws holds waits out => ?_, fun g other => ?_,
    fun d hd own => ?_, fun d hd other => ?_, cleared, fun hn x hx ha => ?_, fun hn g w ws holds waits hw ha alone => ?_,
    fun hm hp hs hd hn ha => ?_, fun h hn => ?_, fun h => ?_⟩
  · rw [records, record, ← window]
    exact congrArg (s.attendance.set st) (Attendance.departed_departureOf _ left)
  · exact (claims g).trans (Claim.leave_free holds free _)
  · exact (claims g).trans (Claim.leave_oldest holds waits out _)
  · exact (claims g).trans (Claim.leave_other other _)
  · exact (draft d hd).trans (if_pos own)
  · exact (draft d hd).trans (if_neg other)
  · rw [← window]
    exact afterDeparture_lapsed hq hn hx ((attends x).trans ha)
  · rw [← handoverOf_departureOf]
    exact afterDeparture_granted hq hn holds (congrArg List.head? waits) hw ((attends w).trans ha) alone
  · exact afterDeparture_last hq hn hm hp hs hd fun x hx => (attends x).trans (ha x hx)
  · obtain ⟨gone, stands⟩ := afterDeparture_travel (st := st) (why := departureOf left) (k := k) hq hn (h.imp_left others)
    refine ⟨gone, fun other => ?_⟩
    have course := stands other
    exact ⟨congrArg Course.state course, congrArg Course.demand course, congrArg Course.causes course⟩
  · exact (afterDeparture_stands st (departureOf left) k hq (h.imp_left others)).2

end Sys2Proof.Machine
end

section
/-! PROOFS. The draft and the slots: OPEN_DRAFT, WRITE_DRAFT, SET_POINTS, COMMIT_DRAFT, DISCARD_DRAFT, ERASE_PROFILE. -/

namespace Sys2Proof.Machine

/-! ## A request of the PROFILE holder about the draft or a slot (R10, R46) -/

section ProfileRequests
variable {f : Form} {l : Station} {tag : Byte} {ps : List Byte} {s : State}

/-- The holder's request is decided by the owner behind the claim test, and leaves the state as it was. -/
theorem serve_held_replied {g : Group} {k : Owner} (sent : Sent f l ps s) (holds : (s.claims.get g).holder = some l)
    {st : Status} {d : Payload} (ho : k l ps (heard f l tag ps s) = ⟨st, d, heard f l tag ps s⟩) :
    serve f (claimTest g k) l tag ps s = replied f l tag ps st d s :=
  serve_replied sent tag (claimTest_heard.trans ((if_pos holds).trans ho))

/-- The holder's request is decided by the owner behind the claim test, and changes the profile store. -/
theorem serve_held_stores {g : Group} {k : Owner} (sent : Sent f l ps s) (holds : (s.claims.get g).holder = some l)
    {st : Status} {d : Payload} {c : Profiles → Profiles}
    (ho : k l ps (heard f l tag ps s) = ⟨st, d, (heard f l tag ps s).modProfile c⟩) :
    serve f (claimTest g k) l tag ps s = { replied f l tag ps st d s with profile := c s.profile } :=
  serve_done sent tag (claimTest_heard.trans ((if_pos holds).trans ho)) rfl

theorem forSlot_outside {k : SlotNo → Owner} (h : 8 ≤ byteAt ps 0) (t : State) : forSlot k l ps t = .refuse .badParam t := by
  unfold forSlot
  rw [slotOf_of_ge h]

theorem forSlot_of {k : SlotNo → Owner} {n : SlotNo} (h : n.val = byteAt ps 0) (t : State) :
    forSlot k l ps t = k n l ps t := by
  unfold forSlot
  rw [slotOf_of_val h]

theorem withDraft_closed {k : Draft → State → Answer} (h : s.profile.draft = none) :
    withDraft k s = .refuse .refusedState s := by
  unfold withDraft
  rw [h]

theorem withDraft_open {k : Draft → State → Answer} {d : Draft} (h : s.profile.draft = some d) :
    withDraft k s = k d s := by
  unfold withDraft
  rw [h]

end ProfileRequests

/-! ## OPEN_DRAFT (R47) -/

theorem openDraftOwner_empty {n : SlotNo} {l : Station} {ps : List Byte} {s : State} (h : s.slot n = .empty) :
    openDraftOwner n l ps s = .ok (setDraft (Draft.blank l n) s) := by
  unfold openDraftOwner
  rw [h]

theorem openDraftOwner_ready {n : SlotNo} {l : Station} {ps : List Byte} {s : State} {r : Profile}
    (h : s.slot n = .held .ready r) : openDraftOwner n l ps s = .ok (setDraft (Draft.ofRecord l n r) s) := by
  unfold openDraftOwner
  rw [h]

theorem openDraftOwner_inUse {n : SlotNo} {l : Station} {ps : List Byte} {s : State} {u : SlotUse} {r : Profile}
    (h : s.slot n = .held u r) (hu : u ≠ .ready) : openDraftOwner n l ps s = .refuse .refusedState s := by
  unfold openDraftOwner
  rw [h]
  cases u with
  | ready => exact absurd rfl hu
  | active | incoming | outgoing => rfl

/-- Settles O25: the slot the request names decides its owner's answer. -/
theorem openDraftCopiesTheSlot : Obligations.OpenDraftCopiesTheSlot := by
  intro l tag ps s sent holds
  refine ⟨fun outside => congrArg Host.Outcome.next (serve_held_replied sent holds (forSlot_outside outside _)),
    fun n hn => ⟨fun empty => ?_, fun r ready => ?_, fun u r used hu => ?_⟩⟩ <;> refine congrArg Host.Outcome.next ?_
  · exact serve_held_stores sent holds ((forSlot_of hn _).trans (openDraftOwner_empty empty))
  · exact serve_held_stores sent holds ((forSlot_of hn _).trans (openDraftOwner_ready ready))
  · exact serve_held_replied sent holds ((forSlot_of hn _).trans (openDraftOwner_inUse used hu))

/-! ## WRITE_DRAFT (R48) -/

section WriteDraft
variable {l : Station} {ps : List Byte} {s : State}

/-- The parameters name no field, or a set with a member outside its set (R48). -/
def writeOutside (code v : Nat) : Prop := code = 0 ∨ 9 < code ∨ (code = 3 ∧ 8 ≤ v) ∨ (code = 7 ∧ 16 ≤ v)

theorem draftFieldOf_outside {n : Nat} (h : n = 0 ∨ 9 < n) : draftFieldOf n = none := by
  rcases h with rfl | h
  · rfl
  · obtain ⟨k, rfl⟩ := Nat.exists_eq_add_of_le' (Nat.succ_le_of_lt h)
    rfl

theorem draftFieldOf_inside {n : Nat} (h : 1 ≤ n) (h' : n ≤ 9) : ∃ f, draftFieldOf n = some f ∧ f.code = n := by
  interval_cases n <;> exact ⟨_, rfl, rfl⟩

/-- A value that names a set is taken where it has no bit outside the set; every other value is taken. -/
theorem writeOk_iff (f : DraftField) (v : Nat) : writeOk f v = true ↔ ¬(f = .armSet ∧ 8 ≤ v ∨ f = .zoneSet ∧ 16 ≤ v) := by
  cases f <;> simp [writeOk, armSetOf, zoneSetOf, apply_ite]

theorem writeDraftOwner_outside (h : writeOutside (byteAt ps 0) (wordAt ps 1)) :
    writeDraftOwner l ps s = .refuse .badParam s := by
  unfold writeDraftOwner
  rcases h with h | h | ⟨h, hv⟩ | ⟨h, hv⟩
  · rw [draftFieldOf_outside (.inl h)]
  · rw [draftFieldOf_outside (.inr h)]
  · rw [h]
    exact if_neg fun k => (writeOk_iff .armSet _).mp k (.inl ⟨rfl, hv⟩)
  · rw [h]
    exact if_neg fun k => (writeOk_iff .zoneSet _).mp k (.inr ⟨rfl, hv⟩)

/-- The field named takes the value where a draft is open. -/
theorem writeDraftOwner_field {x : DraftField} (hf : draftFieldOf (byteAt ps 0) = some x)
    (hv : writeOk x (wordAt ps 1) = true) : writeDraftOwner l ps s =
      withDraft (fun d t => match d.write x (wordAt ps 1) with
        | some e => .ok (setDraft e t)
        | none => .refuse .badParam t) s := by
  unfold writeDraftOwner
  rw [hf]
  exact if_pos hv

theorem writeDraftOwner_closed (h : ¬writeOutside (byteAt ps 0) (wordAt ps 1)) (hd : s.profile.draft = none) :
    writeDraftOwner l ps s = .refuse .refusedState s := by
  simp only [writeOutside, not_or, not_and, not_le, not_lt] at h
  obtain ⟨h0, h9, h3, h7⟩ := h
  obtain ⟨x, hx, hc⟩ := draftFieldOf_inside (Nat.one_le_iff_ne_zero.mpr h0) h9
  have hv : writeOk x (wordAt ps 1) = true := (writeOk_iff _ _).mpr (by
    rintro (⟨rfl, hv⟩ | ⟨rfl, hv⟩)
    · exact absurd (h3 hc.symm) (Nat.not_lt.mpr hv)
    · exact absurd (h7 hc.symm) (Nat.not_lt.mpr hv))
  exact (writeDraftOwner_field hx hv).trans (withDraft_closed hd)

theorem writeDraftOwner_writes {x : DraftField} {d e : Draft} (hd : s.profile.draft = some d)
    (hf : draftFieldOf (byteAt ps 0) = some x) (hv : writeOk x (wordAt ps 1) = true)
    (he : d.write x (wordAt ps 1) = some e) : writeDraftOwner l ps s = .ok (setDraft e s) := by
  rw [writeDraftOwner_field hf hv, withDraft_open hd, he]

end WriteDraft

/-! ## SET_POINTS (R49, R188) -/

/-- Four bytes to a point, in order. -/
theorem pointsOf_spec (n : Nat) : ∀ ps : List Byte, ps.length = 4 * n → (pointsOf ps).length = n ∧
    ∀ i (h : i < (pointsOf ps).length),
      (pointsOf ps)[i] = ⟨wordAt ps (4 * i), byteAt ps (4 * i + 2), byteAt ps (4 * i + 3)⟩ := by
  induction n with
  | zero => intro ps h; obtain rfl := List.length_eq_zero_iff.mp h; exact ⟨rfl, fun i h => absurd h (Nat.not_lt_zero i)⟩
  | succ n ih =>
    intro ps h
    match ps, h with
    | a :: b :: c :: d :: rest, h =>
      obtain ⟨len, points⟩ := ih rest (by simp only [List.length_cons] at h; omega)
      refine ⟨congrArg (· + 1) len, fun i hi => ?_⟩
      cases i with
      | zero => rfl
      | succ i =>
        have hi' : i < (pointsOf rest).length := Nat.lt_of_succ_lt_succ hi
        calc (pointsOf (a :: b :: c :: d :: rest))[i + 1] = (pointsOf rest)[i] := rfl
          _ = _ := points i hi'
          _ = _ := by simp [wordAt, byteAt, Nat.mul_add, Nat.add_right_comm]

theorem setPointsOwner_open {l : Station} {ps : List Byte} {s : State} {d : Draft} (hd : s.profile.draft = some d) :
    setPointsOwner l ps s = .ok (setDraft { d with points := some (pointsOf ps) } s) := withDraft_open hd

/-- Settles O26: the field code decides what WRITE_DRAFT writes; SET_POINTS reads four bytes to a point. -/
theorem draftFieldsAreWritten : Obligations.DraftFieldsAreWritten := by
  intro l tag ps s holds
  refine ⟨fun sent => ⟨fun outside => ?_, fun inside closed => ?_, fun d hd => ?_⟩,
    fun sent => ⟨fun closed => ?_, fun d hd => ?_⟩⟩
  · exact congrArg Host.Outcome.next (serve_held_replied sent holds (writeDraftOwner_outside outside))
  · exact congrArg Host.Outcome.next (serve_held_replied sent holds (writeDraftOwner_closed inside closed))
  · intro v becomes
    have writes : ∀ x e, draftFieldOf (byteAt ps 0) = some x → writeOk x v = true → d.write x v = some e → becomes e :=
      fun x e hx hv he => congrArg Host.Outcome.next
        (serve_held_stores sent holds (writeDraftOwner_writes (s := heard Form.writeDraft l tag ps s) hd hx hv he))
    refine ⟨fun h => writes .name _ (by rw [h]; rfl) rfl rfl, fun h => writes .ceiling _ (by rw [h]; rfl) rfl rfl,
      fun h hv => writes .armSet _ (by rw [h]; rfl) ((writeOk_iff _ _).mpr (by simpa using hv)) (by
        rw [show d.write .armSet v = (armSetOf v).map _ from rfl, show armSetOf v = _ from if_pos hv]; rfl),
      fun h => writes (.force .l) _ (by rw [h]; rfl) rfl rfl, fun h => writes (.force .r) _ (by rw [h]; rfl) rfl rfl,
      fun h => writes (.force .c) _ (by rw [h]; rfl) rfl rfl,
      fun h hv => writes .zoneSet _ (by rw [h]; rfl) ((writeOk_iff _ _).mpr (by simpa using hv)) (by
        rw [show d.write .zoneSet v = (zoneSetOf v).map _ from rfl, show zoneSetOf v = _ from if_pos hv]; rfl),
      fun h => writes .dwell _ (by rw [h]; rfl) rfl rfl, fun h => writes .reserve _ (by rw [h]; rfl) rfl rfl⟩
  · exact congrArg Host.Outcome.next (serve_held_replied sent holds (withDraft_closed closed))
  · have form : 8 ≤ ps.length ∧ ps.length ≤ 32 ∧ ps.length % 4 = 0 := by
      simpa [Form.setPoints, and_assoc] using sent.form
    obtain ⟨len, points⟩ := pointsOf_spec (ps.length / 4) ps (by omega)
    refine ⟨pointsOf ps, congrArg Host.Outcome.next (serve_held_stores sent holds (setPointsOwner_open hd)), ?_, ?_, ?_,
      points⟩ <;> omega

/-! ## COMMIT_DRAFT and DISCARD_DRAFT (R50 to R52) -/

section CommitDraft
variable {l : Station} {ps : List Byte} {s : State} {d : Draft}

theorem commitDraftOwner_inUse {u : SlotUse} {r : Profile} (hd : s.profile.draft = some d)
    (h : s.slot d.origin = .held u r) (hu : u ≠ .ready) : commitDraftOwner l ps s = .refuse .refusedState s := by
  refine (withDraft_open hd).trans (if_neg ?_)
  rw [h]
  cases u with
  | ready => exact absurd rfl hu
  | active | incoming | outgoing => exact Bool.false_ne_true

/-- A slot that is EMPTY or READY: the validation decides. -/
theorem commitDraftOwner_open (hd : s.profile.draft = some d) (h : (s.slot d.origin).open = true) :
    commitDraftOwner l ps s = match d.validate with
      | some v => ⟨.badParam, .verdict v, setDraft { d with verdict := some v } s⟩
      | none => .ok (closeDraft (s.setSlot d.origin (.held .ready d.record))) :=
  (withDraft_open hd).trans (if_pos h)

theorem commitDraftOwner_fails {v : Verdict} (hd : s.profile.draft = some d) (h : (s.slot d.origin).open = true)
    (hv : d.validate = some v) :
    commitDraftOwner l ps s = ⟨.badParam, .verdict v, setDraft { d with verdict := some v } s⟩ := by
  rw [commitDraftOwner_open hd h, hv]

theorem commitDraftOwner_fills (hd : s.profile.draft = some d) (h : (s.slot d.origin).open = true)
    (hv : d.validate = none) : commitDraftOwner l ps s =
      .ok (s.modProfile fun p => { p with slots := p.slots.set d.origin (.held .ready d.record), draft := none }) := by
  rw [commitDraftOwner_open hd h, hv]
  rfl

theorem discardOwner_open (hd : s.profile.draft = some d) :
    withDraft (fun _ u => .ok (closeDraft u)) s = .ok (s.modProfile fun p => { p with draft := none }) :=
  withDraft_open hd

theorem Slot.open_of {x : Slot} (h : x = .empty ∨ ∃ r, x = .held .ready r) : x.open = true := by
  rcases h with rfl | ⟨r, rfl⟩ <;> rfl

/-- The record of a draft whose fields are all written. -/
theorem Draft.record_of {name ceiling dwell reserve : Nat} {arms : ArmSet} {zones : ZoneSet} {points : List Point}
    (hn : d.name = some name) (hc : d.ceiling = some ceiling) (ha : d.arms = some arms) (hz : d.zones = some zones)
    (hw : d.dwell = some dwell) (hr : d.reserve = some reserve) (hp : d.points = some points) :
    d.record = ⟨name, ceiling, arms, ⟨d.levels.l.value, d.levels.r.value, d.levels.c.value⟩, zones, dwell, reserve,
      points⟩ := by
  unfold Draft.record
  rw [hn, hc, ha, hz, hw, hr, hp]
  rfl

end CommitDraft

/-- Settles O28: the draft, its slot and its validation decide, in this order. -/
theorem commitDraftFillsTheSlot : Obligations.CommitDraftFillsTheSlot := by
  intro l tag s holds
  refine ⟨fun sent => ⟨fun closed => ?_, fun d hd => ⟨fun u r used hu => ?_, fun free => ⟨fun v hv => ?_, ?_⟩⟩⟩,
    fun sent => ⟨fun closed => ?_, fun open' => ?_⟩⟩
  · exact congrArg Host.Outcome.next (serve_held_replied sent holds (withDraft_closed closed))
  · exact congrArg Host.Outcome.next (serve_held_replied sent holds (commitDraftOwner_inUse hd used hu))
  · exact congrArg Host.Outcome.next (serve_held_stores sent holds (commitDraftOwner_fails hd (Slot.open_of free) hv))
  · intro name ceiling arms zones dwell reserve points hn hc ha hz hw hr hp valid
    rw [← Draft.record_of hn hc ha hz hw hr hp]
    exact congrArg Host.Outcome.next (serve_held_stores sent holds (commitDraftOwner_fills hd (Slot.open_of free) valid))
  · exact congrArg Host.Outcome.next (serve_held_replied sent holds (withDraft_closed closed))
  · obtain ⟨d, hd⟩ := Option.ne_none_iff_exists'.mp open'
    exact congrArg Host.Outcome.next (serve_held_stores (c := fun p => { p with draft := none }) sent holds
      (discardOwner_open hd))

/-! ## ERASE_PROFILE (R53) -/

theorem Slot.usedAs_iff (x : Slot) (u : SlotUse) : x.usedAs u = true ↔ ∃ r, x = .held u r := by
  cases x <;> simp [Slot.usedAs]

theorem eraseOwner_ready {n : SlotNo} {l : Station} {ps : List Byte} {s : State} {r : Profile}
    (h : s.slot n = .held .ready r) : eraseOwner n l ps s = .ok (s.setSlot n .empty) :=
  if_pos ((Slot.usedAs_iff _ _).mpr ⟨r, h⟩)

theorem eraseOwner_refused {n : SlotNo} {l : Station} {ps : List Byte} {s : State}
    (h : ¬∃ r, s.slot n = .held .ready r) : eraseOwner n l ps s = .refuse .refusedState s :=
  if_neg fun k => h ((Slot.usedAs_iff _ _).mp k)

/-- Settles O29: the slot named decides; a draft of an EMPTY slot is one that a commit can fill. -/
theorem eraseProfileEmptiesAReadySlot : Obligations.EraseProfileEmptiesAReadySlot := by
  intro l tag ps s sent holds
  refine ⟨fun outside => congrArg Host.Outcome.next (serve_held_replied sent holds (forSlot_outside outside _)),
    fun n hn => ⟨fun other => ?_, fun r ready => ⟨_, ?_, rfl, fun d hd origin => ⟨hd, ?_, ?_⟩⟩⟩⟩
  · exact congrArg Host.Outcome.next (serve_held_replied sent holds ((forSlot_of hn _).trans (eraseOwner_refused other)))
  · exact congrArg Host.Outcome.next (serve_held_stores sent holds ((forSlot_of hn _).trans (eraseOwner_ready ready)))
  · exact Vector.getElem_set_self _
  · intro u hu uholds usent valid
    have hud : u.profile.draft = some d := hu ▸ hd
    have empty : u.slot d.origin = .empty := by
      unfold State.slot
      rw [hu, origin]
      exact Vector.getElem_set_self _
    refine ⟨_, congrArg Host.Outcome.next
      (serve_held_stores usent uholds (commitDraftOwner_fills hud (Slot.open_of (.inl empty)) valid)), ?_⟩
    rw [← origin]
    exact Vector.getElem_set_self _

end Sys2Proof.Machine
end

section
/-! PROOFS. Validation of a draft (R50), and the coupling between its points (R43). -/

namespace Sys2Proof.Machine

/-! ## The points' row (R50) -/

/-- Point i of a list fails: out of its ranges, not at speed 0 as the first, or not above the point before it. -/
def PointFails (ps : List Point) (i : Nat) : Prop :=
  ∃ p, ps[i]? = some p ∧ (200 < p.speed ∨ 100 < p.rotation ∨ 100 < p.spray ∨ (i = 0 ∧ p.speed ≠ 0) ∨
    ∃ q, 0 < i ∧ ps[i - 1]? = some q ∧ p.speed ≤ q.speed)

/-- The test of one point, given the speed of the point before it. -/
def pointPasses (before : Option Nat) (p : Point) : Bool :=
  (match before with
    | none => p.speed == 0
    | some v => decide (v < p.speed)) && decide (p.speed ≤ 200) && decide (p.rotation ≤ 100) && decide (p.spray ≤ 100)

theorem badPoint_cons (k : Nat) (before : Option Nat) (p : Point) (rest : List Point) :
    badPoint k before (p :: rest) =
      if pointPasses before p then badPoint (k + 1) (some p.speed) rest else some k := by
  cases before <;> rfl

/-- The test of a point behind others fails where the point does. -/
theorem pointPasses_iff (pre : List Point) (p : Point) (rest : List Point) :
    pointPasses (pre.getLast?.map Point.speed) p = true ↔ ¬PointFails (pre ++ p :: rest) pre.length := by
  have here : (pre ++ p :: rest)[pre.length]? = some p := by simp
  have fails : PointFails (pre ++ p :: rest) pre.length ↔ 200 < p.speed ∨ 100 < p.rotation ∨ 100 < p.spray ∨
      (pre = [] ∧ p.speed ≠ 0) ∨ ∃ q, pre.getLast? = some q ∧ p.speed ≤ q.speed := by
    simp only [PointFails, here, Option.some.injEq, exists_eq_left', List.length_eq_zero_iff]
    refine or_congr .rfl (or_congr .rfl (or_congr .rfl (or_congr .rfl (exists_congr fun q => ?_))))
    rcases pre.eq_nil_or_concat with rfl | ⟨init, x, rfl⟩
    · simp
    · simp
  rw [fails]
  unfold pointPasses
  rcases pre.eq_nil_or_concat with rfl | ⟨init, x, rfl⟩
  · simp only [List.getLast?_nil, Option.map_none, Bool.and_eq_true, beq_iff_eq, decide_eq_true_eq, true_and, reduceCtorEq,
      false_and, exists_false, or_false]
    omega
  · simp only [List.concat_eq_append, List.getLast?_append, List.getLast?_singleton, Option.some_or, Option.map_some,
      Bool.and_eq_true, decide_eq_true_eq, List.append_eq_nil_iff, List.cons_ne_self, and_false, false_and, false_or,
      Option.some.injEq, exists_eq_left']
    omega

/-- The search from a point on, the points before it being `pre`: it finds the first point that fails from there. -/
theorem badPoint_spec (rest : List Point) : ∀ pre : List Point,
    (badPoint (pre.length + 1) (pre.getLast?.map Point.speed) rest = none →
      ∀ i, pre.length ≤ i → ¬PointFails (pre ++ rest) i) ∧
    ∀ n, badPoint (pre.length + 1) (pre.getLast?.map Point.speed) rest = some n →
      pre.length < n ∧ PointFails (pre ++ rest) (n - 1) ∧ ∀ i, pre.length ≤ i → i + 1 < n → ¬PointFails (pre ++ rest) i := by
  induction rest with
  | nil =>
    refine fun pre => ⟨fun _ i hi => ?_, fun n h => absurd h nofun⟩
    rintro ⟨p, hp, -⟩
    rw [List.append_nil, List.getElem?_eq_none hi] at hp
    exact absurd hp nofun
  | cons p rest ih =>
    intro pre
    have guard := pointPasses_iff pre p rest
    have next := ih (pre ++ [p])
    simp only [List.length_append, List.length_singleton, List.getLast?_append, List.getLast?_singleton, Option.some_or,
      Option.map_some, List.append_assoc, List.singleton_append] at next
    have from_next : ∀ {i}, pre.length ≤ i → i ≠ pre.length → pre.length + 1 ≤ i := fun h h' => by omega
    rw [badPoint_cons]
    by_cases ok : pointPasses (pre.getLast?.map Point.speed) p = true
    · rw [if_pos ok]
      refine ⟨fun h i hi => ?_, fun n h => ?_⟩
      · by_cases first : i = pre.length
        · exact first ▸ guard.mp ok
        · exact next.1 h i (from_next hi first)
      · obtain ⟨later, fails, before⟩ := next.2 n h
        refine ⟨Nat.lt_of_succ_lt later, fails, fun i hi hn => ?_⟩
        by_cases first : i = pre.length
        · exact first ▸ guard.mp ok
        · exact before i (from_next hi first) hn
    · rw [if_neg ok]
      refine ⟨fun h => absurd h nofun, fun n h => ?_⟩
      obtain rfl : pre.length + 1 = n := Option.some.inj h
      exact ⟨Nat.lt_succ_self _, not_not.mp (mt guard.mpr ok), fun i hi hn => by omega⟩

/-- R50's row of the points: it passes exactly where no point fails, and else names the first that does. -/
theorem badPoint_first (ps : List Point) : (badPoint 1 none ps = none ↔ ∀ i, ¬PointFails ps i) ∧
    ∀ n, badPoint 1 none ps = some n → 1 ≤ n ∧ PointFails ps (n - 1) ∧ ∀ i, i + 1 < n → ¬PointFails ps i := by
  obtain ⟨passes, fails⟩ := badPoint_spec ps []
  refine ⟨⟨fun h i => passes h i (Nat.zero_le i), fun h => ?_⟩, fun n h => ?_⟩
  · cases hb : badPoint 1 none ps with
    | none => rfl
    | some n => exact absurd (fails n hb).2.1 (h _)
  · obtain ⟨pos, bad, first⟩ := fails n h
    exact ⟨pos, bad, fun i hi => first i (Nat.zero_le i) hi⟩

/-- No point fails where the first speed is 0, the speeds rise, and every point is in its ranges. -/
theorem no_point_fails_iff (ps : List Point) : (∀ i, ¬PointFails ps i) ↔
    (∀ p, ps.head? = some p → p.speed = 0) ∧ (ps.map Point.speed).Pairwise (· < ·) ∧
      ∀ p ∈ ps, p.speed ≤ 200 ∧ p.rotation ≤ 100 ∧ p.spray ≤ 100 := by
  rw [← List.isChain_iff_pairwise, List.isChain_iff_getElem]
  constructor
  · intro h
    refine ⟨fun p hp => ?_, fun i hi => ?_, fun p hp => ?_⟩
    · by_contra first
      exact h 0 ⟨p, by rwa [← List.head?_eq_getElem?], .inr (.inr (.inr (.inl ⟨rfl, first⟩)))⟩
    · rw [List.length_map] at hi
      by_contra falls
      refine h (i + 1) ⟨ps[i + 1], List.getElem?_eq_getElem hi, .inr (.inr (.inr (.inr
        ⟨ps[i], Nat.succ_pos i, List.getElem?_eq_getElem (Nat.lt_of_succ_lt hi), ?_⟩)))⟩
      simpa using falls
    · obtain ⟨i, hi, rfl⟩ := List.mem_iff_getElem.mp hp
      by_contra out
      exact h i ⟨ps[i], List.getElem?_eq_getElem hi, by omega⟩
  · rintro ⟨first, rises, ranges⟩ i ⟨p, hp, fails⟩
    obtain ⟨hi, rfl⟩ := List.getElem?_eq_some_iff.mp hp
    have range := ranges _ (List.getElem_mem hi)
    rcases fails with h | h | h | ⟨rfl, h⟩ | ⟨q, pos, hq, h⟩
    · omega
    · omega
    · omega
    · exact h (first _ (by rw [List.head?_eq_getElem?]; exact hp))
    · obtain ⟨j, rfl⟩ := Nat.exists_eq_add_of_lt pos
      obtain ⟨hj, rfl⟩ := List.getElem?_eq_some_iff.mp hq
      have rise := rises j (by rw [List.length_map]; simpa using hi)
      simp only [List.getElem_map] at rise
      simp only [Nat.zero_add, Nat.add_sub_cancel] at h
      omega

/-! ## The rows of a draft (R50) -/

/-- The row of R50's table for a field fails. -/
def Draft.FieldFails (d : Draft) (f : DraftField) : Prop :=
  match f with
  | .name => d.name = none
  | .ceiling => ∀ v, d.ceiling = some v → v < 10 ∨ 200 < v
  | .armSet => d.arms = none
  | .force a => ∃ set, d.arms = some set ∧ set.get a = true ∧ ((d.levels.get a).value < 1 ∨ 15 < (d.levels.get a).value)
  | .zoneSet => d.zones = none
  | .dwell => ∀ v, d.dwell = some v → 5000 < v
  | .reserve => ∀ v, d.reserve = some v → v < 25 ∨ 100 < v
  | .points => ∀ ps, d.points = some ps → ∃ i, PointFails ps i

theorem within_iff (lo hi : Nat) (o : Option Nat) : within lo hi o = true ↔ ∃ v, o = some v ∧ lo ≤ v ∧ v ≤ hi := by
  cases o <;> simp [within]

theorem within_eq_false_iff (lo hi : Nat) (o : Option Nat) :
    within lo hi o = false ↔ ∀ v, o = some v → v < lo ∨ hi < v := by
  cases o with
  | none => simp [within]
  | some v => simp only [within, Bool.and_eq_false_iff, decide_eq_false_iff_not, not_le, Option.some.injEq, forall_eq']

/-- The test of a field's row. -/
def Draft.passes (d : Draft) : DraftField → Bool
  | .name => d.name.isSome
  | .ceiling => within 10 200 d.ceiling
  | .armSet => d.arms.isSome
  | .force a => d.forceOk a
  | .zoneSet => d.zones.isSome
  | .dwell => within 0 5000 d.dwell
  | .reserve => within 25 100 d.reserve
  | .points => d.points.any fun ps => (badPoint 1 none ps).isNone

theorem Draft.passes_iff (d : Draft) (f : DraftField) : d.passes f = false ↔ d.FieldFails f := by
  cases f with
  | name => exact Option.isSome_eq_false_iff.trans Option.isNone_iff_eq_none
  | ceiling => exact within_eq_false_iff 10 200 d.ceiling
  | armSet => exact Option.isSome_eq_false_iff.trans Option.isNone_iff_eq_none
  | force a => cases h : d.arms with
    | none => simp [Draft.passes, Draft.forceOk, Draft.FieldFails, h]
    | some set => simp [Draft.passes, Draft.forceOk, Draft.FieldFails, h, within_eq_false_iff]
  | zoneSet => exact Option.isSome_eq_false_iff.trans Option.isNone_iff_eq_none
  | dwell => exact (within_eq_false_iff 0 5000 d.dwell).trans (by simp [Draft.FieldFails])
  | reserve => exact within_eq_false_iff 25 100 d.reserve
  | points => cases h : d.points with
    | none => simp [Draft.passes, Draft.FieldFails, h]
    | some ps => simp [Draft.passes, Draft.FieldFails, h, ← not_iff_not, (badPoint_first ps).1]

/-- The verdict of the last row. -/
def Draft.pointsVerdict (d : Draft) : Option Verdict :=
  match d.points with
  | none => some ⟨.points, 0⟩
  | some ps => (badPoint 1 none ps).map fun k => ⟨.points, k⟩

/-- Validation takes the rows in the table's order. -/
theorem Draft.validate_rows (d : Draft) : d.validate =
    if d.passes .name = false then some ⟨.name, 0⟩
    else if d.passes .ceiling = false then some ⟨.ceiling, 0⟩
    else if d.passes .armSet = false then some ⟨.armSet, 0⟩
    else if d.passes (.force .l) = false then some ⟨.force .l, 0⟩
    else if d.passes (.force .r) = false then some ⟨.force .r, 0⟩
    else if d.passes (.force .c) = false then some ⟨.force .c, 0⟩
    else if d.passes .zoneSet = false then some ⟨.zoneSet, 0⟩
    else if d.passes .dwell = false then some ⟨.dwell, 0⟩
    else if d.passes .reserve = false then some ⟨.reserve, 0⟩
    else d.pointsVerdict := by
  simp only [Draft.validate, Draft.passes, Bool.not_eq_true', Option.isSome_eq_false_iff]
  rfl

theorem Draft.pointsVerdict_passes {d : Draft} (h : d.passes .points = true) : d.pointsVerdict = none := by
  unfold Draft.pointsVerdict
  unfold Draft.passes at h
  cases hp : d.points with
  | none => simp [hp] at h
  | some ps => simpa [hp] using h

theorem Draft.pointsVerdict_fails {d : Draft} (h : d.FieldFails .points) : ∃ n, d.pointsVerdict = some ⟨.points, n⟩ ∧
    (d.points = none → n = 0) ∧ ∀ ps, d.points = some ps → badPoint 1 none ps = some n := by
  unfold Draft.pointsVerdict
  cases hp : d.points with
  | none => exact ⟨0, rfl, fun _ => rfl, fun ps h => absurd h nofun⟩
  | some ps =>
    cases hb : badPoint 1 none ps with
    | none =>
      obtain ⟨i, hi⟩ := h ps hp
      exact absurd hi ((badPoint_first ps).1.mp hb i)
    | some n => exact ⟨n, congrArg (Option.map _) hb, fun h => absurd h nofun, fun qs hq => Option.some.inj hq ▸ hb⟩

/-- The first row that fails gives the verdict. -/
theorem Draft.validate_first {d : Draft} {f : DraftField} (passes : ∀ g : DraftField, g.code < f.code → ¬d.FieldFails g)
    (fails : d.FieldFails f) : d.validate = if f = .points then d.pointsVerdict else some ⟨f, 0⟩ := by
  have earlier : ∀ g : DraftField, g.code < f.code → d.passes g = true := fun g hg =>
    Bool.eq_true_of_not_eq_false (mt (d.passes_iff g).mp (passes g hg))
  have this := (d.passes_iff f).mpr fails
  rw [Draft.validate_rows]
  cases f with
  | force a => cases a <;> simp (discharger := decide) [earlier, this]
  | _ => simp (discharger := decide) [earlier, this]

theorem Draft.validate_none_iff (d : Draft) : d.validate = none ↔ ∀ f, ¬d.FieldFails f := by
  constructor
  · intro valid f
    induction hn : f.code using Nat.strong_induction_on generalizing f with
    | _ n ih =>
      intro fails
      have first := Draft.validate_first (fun g hg => ih g.code (hn ▸ hg) g rfl) fails
      obtain rfl | other := eq_or_ne f .points
      · obtain ⟨k, hk, -⟩ := Draft.pointsVerdict_fails fails
        rw [valid, if_pos rfl, hk] at first
        exact absurd first nofun
      · rw [valid, if_neg other] at first
        exact absurd first nofun
  · intro none_fails
    have passes : ∀ f, d.passes f = true := fun f => Bool.eq_true_of_not_eq_false (mt (d.passes_iff f).mp (none_fails f))
    rw [Draft.validate_rows]
    simp only [passes, Bool.true_eq_false, if_false]
    exact Draft.pointsVerdict_passes (passes .points)

/-- The rows of R50's table in order. -/
def draftRows : List DraftField :=
  [.name, .ceiling, .armSet, .force .l, .force .r, .force .c, .zoneSet, .dwell, .reserve, .points]

/-- A row of a smaller code stands before in the table. -/
theorem draftRows_before {f g : DraftField} {before after : List DraftField} (h : draftRows = before ++ f :: after)
    (hg : g.code < f.code) : g ∈ before := by
  have sorted : (draftRows.map DraftField.code).Pairwise (· < ·) := by decide
  have all : g ∈ draftRows := by
    cases g with
    | force a => cases a <;> decide
    | _ => decide
  rw [h, List.map_append, List.map_cons, List.pairwise_append, List.pairwise_cons] at sorted
  obtain ⟨-, ⟨later, -⟩, -⟩ := sorted
  rcases List.mem_append.mp (h ▸ all) with early | late
  · exact early
  · rcases List.mem_cons.mp late with rfl | late
    · exact absurd hg (Nat.lt_irrefl _)
    · exact absurd hg (Nat.lt_asymm (later _ (List.mem_map_of_mem late)))

/-- Settles O27: validation is the first row of the table that fails, and none where none does. -/
theorem validationPassesValidDrafts : Obligations.ValidationPassesValidDrafts := by
  refine ⟨fun d => d.validate_none_iff.trans ⟨fun passes => ?_, ?_⟩, fun d f before after => ?_⟩
  · have ok : ∀ f, d.passes f = true := fun f => Bool.eq_true_of_not_eq_false (mt (d.passes_iff f).mp (passes f))
    obtain ⟨set, hset⟩ := Option.isSome_iff_exists.mp (ok .armSet)
    obtain ⟨v, hv, -, hd⟩ := (within_iff _ _ _).mp (ok .dwell)
    have points := passes .points
    simp only [Draft.FieldFails, not_forall, not_exists] at points
    obtain ⟨ps, hps, none_fails⟩ := points
    refine ⟨Option.isSome_iff_exists.mp (ok .name), (within_iff _ _ _).mp (ok .ceiling), ⟨set, hset, fun a ha => ?_⟩,
      Option.isSome_iff_exists.mp (ok .zoneSet), ⟨v, hv, hd⟩, (within_iff _ _ _).mp (ok .reserve),
      ⟨ps, hps, (no_point_fails_iff ps).mp none_fails⟩⟩
    by_contra out
    exact passes (.force a) ⟨set, hset, ha, by omega⟩
  · rintro ⟨⟨n, hn⟩, ⟨c, hc, hc1, hc2⟩, ⟨set, hset, levels⟩, ⟨z, hz⟩, ⟨w, hw, hw1⟩, ⟨r, hr, hr1, hr2⟩, ⟨ps, hps, points⟩⟩ f
    rw [← d.passes_iff, Bool.not_eq_false]
    cases f with
    | name => exact Option.isSome_iff_exists.mpr ⟨n, hn⟩
    | ceiling => exact (within_iff _ _ _).mpr ⟨c, hc, hc1, hc2⟩
    | armSet => exact Option.isSome_iff_exists.mpr ⟨set, hset⟩
    | force a =>
      rw [← Bool.not_eq_false, d.passes_iff]
      rintro ⟨set', hset', ha, out⟩
      have := levels a (Option.some.inj (hset.symm.trans hset') ▸ ha)
      omega
    | zoneSet => exact Option.isSome_iff_exists.mpr ⟨z, hz⟩
    | dwell => exact (within_iff _ _ _).mpr ⟨w, hw, Nat.zero_le w, hw1⟩
    | reserve => exact (within_iff _ _ _).mpr ⟨r, hr, hr1, hr2⟩
    | points =>
      rw [← Bool.not_eq_false, d.passes_iff]
      intro fails
      obtain ⟨i, hi⟩ := fails ps hps
      exact (no_point_fails_iff ps).mpr points i hi
  · intro bad fails rows passes this
    have first := Draft.validate_first (fun g hg => passes g (draftRows_before rows hg)) this
    obtain rfl | other := eq_or_ne f .points
    · obtain ⟨n, hn, unset, found⟩ := Draft.pointsVerdict_fails this
      refine ⟨n, first.trans ((if_pos rfl).trans hn), fun h => unset (h.resolve_left (not_not.mpr rfl)), fun ps _ hps => ?_⟩
      exact (badPoint_first ps).2 n (found ps hps)
    · exact ⟨0, first.trans (if_neg other), fun _ => rfl, fun ps h => absurd h other⟩

/-! ## The coupling (R43) -/

section Coupling
variable (f : Point → Nat)

theorem coupling_cons_cons (p q : Point) (rest : List Point) (v : Nat) : coupling f v (p :: q :: rest) =
    if q.speed ≤ v then coupling f v (q :: rest) else between f p q v := rfl

/-- At the lower point's speed the interpolation is that point's value. -/
theorem between_lower {p q : Point} (h : p.speed < q.speed) : between f p q p.speed = f p := by
  unfold between
  rw [Nat.sub_self, Nat.mul_zero, Nat.add_zero]
  exact Nat.mul_div_cancel _ (Nat.sub_pos_of_lt h)

/-- Between two points the interpolation stays within a bound on both values. -/
theorem between_le {p q : Point} {v m : Nat} (hp : f p ≤ m) (hq : f q ≤ m) (h : p.speed ≤ v) (h' : v ≤ q.speed) :
    between f p q v ≤ m := by
  refine Nat.div_le_of_le_mul ?_
  calc f p * (q.speed - v) + f q * (v - p.speed) ≤ m * (q.speed - v) + m * (v - p.speed) := by gcongr
    _ = (q.speed - p.speed) * m := by rw [← Nat.mul_add, Nat.mul_comm]; congr 1; omega

/-- From the first point's speed on, the points before the last one at or below a speed do not count. -/
theorem coupling_append (pre : List Point) (p : Point) (rest : List Point) {v : Nat} (h : p.speed ≤ v)
    (rises : ((pre ++ p :: rest).map Point.speed).Pairwise (· < ·)) :
    coupling f v (pre ++ p :: rest) = coupling f v (p :: rest) := by
  induction pre with
  | nil => rfl
  | cons a pre ih =>
    rw [List.cons_append, List.map_cons, List.pairwise_cons] at rises
    obtain ⟨-, rises⟩ := rises
    rw [← ih rises]
    cases pre with
    | nil => exact (coupling_cons_cons f a p rest v).trans (if_pos h)
    | cons b pre =>
      refine (coupling_cons_cons f a b _ v).trans (if_pos (le_of_lt (lt_of_lt_of_le ?_ h)))
      rw [List.cons_append, List.map_cons, List.pairwise_cons] at rises
      exact rises.1 _ (List.mem_map_of_mem (List.mem_append_right _ List.mem_cons_self))

theorem coupling_first {p : Point} {rest : List Point} (rises : ((p :: rest).map Point.speed).Pairwise (· < ·)) :
    coupling f p.speed (p :: rest) = f p := by
  cases rest with
  | nil => rfl
  | cons q rest =>
    have next : p.speed < q.speed := (List.pairwise_cons.mp rises).1 _ (List.mem_cons_self)
    exact (coupling_cons_cons f p q rest _).trans ((if_neg (Nat.not_le.mpr next)).trans (between_lower f next))

/-- From the first point's speed on, the coupling stays within a bound on the points' values. -/
theorem coupling_le {m v : Nat} (p : Point) (rest : List Point) (h : p.speed ≤ v) (bound : ∀ q ∈ p :: rest, f q ≤ m) :
    coupling f v (p :: rest) ≤ m := by
  induction rest generalizing p with
  | nil => exact bound p List.mem_cons_self
  | cons q rest ih =>
    rw [coupling_cons_cons]
    split
    · next above => exact ih q above fun x hx => bound x (List.mem_cons_of_mem _ hx)
    · next below =>
      exact between_le f (bound p List.mem_cons_self) (bound q (List.mem_cons_of_mem _ List.mem_cons_self)) h
        (Nat.le_of_not_le below)

end Coupling

/-- Settles O48: the points at or below the speed but the last of them do not count, and the rest of the list decides. -/
theorem couplingMeetsItsPoints : Obligations.CouplingMeetsItsPoints := by
  intro f ps rises
  refine ⟨fun p hp => ?_, fun m first bound v => ?_, fun p q pre rest v hps low high => ?_, fun p pre v hps high => ?_⟩
  · obtain ⟨pre, rest, rfl⟩ := List.append_of_mem hp
    rw [coupling_append f pre p rest le_rfl rises]
    exact coupling_first f (by rw [List.map_append] at rises; exact (List.pairwise_append.mp rises).2.1)
  · cases ps with
    | nil => exact Nat.zero_le m
    | cons p rest => exact coupling_le f p rest ((first p rfl).symm ▸ Nat.zero_le v) bound
  · subst hps
    rw [coupling_append f pre p _ low rises]
    exact (coupling_cons_cons f p q rest v).trans (if_neg (Nat.not_le.mpr high))
  · subst hps
    exact coupling_append f pre p [] high rises

end Sys2Proof.Machine
end

section
/-! PROOFS. The tick of the timebase, the resets of power and of the line, and raw switch levels. -/

namespace Sys2Proof.Machine

set_option Elab.async false

/-! ## The timebase (R71, R72) -/

/-- Settles O15: the phase decides, and each timer's rule is an equation of `Timer.tick`. -/
theorem tickAdvancesTheTimebase : Obligations.TickAdvancesTheTimebase :=
  ⟨fun _ running => congrArg Host.Outcome.next (if_pos running), fun _ starting => congrArg Host.Outcome.next (if_neg starting),
    fun _ => rfl, rfl, fun _ => rfl⟩

/-! ## Power and the reset line (R83, R186) -/

/-- R179: with no item kept, every gate interval is the one of reset (R85). -/
theorem captureAfterReset_unwritten {v : Supervision} (h : v.items = Supervision.reset.items) :
    captureAfterReset v = Capture.reset := by
  have unwritten : ∀ k, v.item k = none := fun k => by
    have same : v.item k = Supervision.reset.item k := by unfold Supervision.item; rw [h]
    exact same.trans (reset_item k)
  unfold captureAfterReset
  simp only [unwritten, Option.getD_none]
  rfl

/-- R186: a reset that keeps no store leaves the reset state but for the pins and the reset-cause records. -/
theorem afterReset_clears {k : ResetKind} (h : k.keeps = false) (s : State) : afterReset k s = { State.reset with
    pending := s.pending
    freeCount := s.freeCount
    clock := { State.reset.clock with
      phase := if s.clock.resetLineAsserted then .held else .settling
      resetLineAsserted := s.clock.resetLineAsserted }
    links := s.links.map fun k => ⟨.offline, k.chipSelectLow, [], 0, none, ⟨.none, 0, 0, .none⟩⟩
    switches := s.switches.map fun i => ⟨i.raw, false, .stopped⟩
    supervision := { State.reset.supervision with resetCauses := s.supervision.resetCauses.map (·.after k) } } := by
  have stores : superAfterReset k s.supervision =
      { Supervision.reset with resetCauses := s.supervision.resetCauses.map (·.after k) } ∧
      waterAfterReset k s.water = Water.reset ∧ profileAfterReset k s.profile = Profiles.reset := by
    simp [superAfterReset, waterAfterReset, profileAfterReset, h]
  obtain ⟨supervision, water, profile⟩ := stores
  unfold afterReset
  simp only [supervision, water, profile, h, captureAfterReset_unwritten]
  rfl

/-- Settles O16: neither kind keeps a store; they differ in the line's level and in what the records take. -/
theorem powerAndLineResets : Obligations.PowerAndLineResets := by
  refine fun s => ⟨congrArg Host.Outcome.next (afterReset_clears rfl s), fun released => ?_, fun asserted => ?_⟩
  · have held := afterReset_clears (k := .line) rfl (s.modClock fun c => { c with resetLineAsserted := true })
    exact congrArg Host.Outcome.next ((if_neg (by rw [released]; exact nofun)).trans held)
  · exact congrArg Host.Outcome.next (if_pos asserted)

/-! ## Raw levels (R80) -/

theorem Switches.setInput_input (w : Switches) (i : Switch) : w.setInput i (w.input i) = w := by
  cases i with
  | up a => exact congrArg (fun p => { w with up := p }) (PerArm.set_get w.up a)
  | down a => exact congrArg (fun p => { w with down := p }) (PerArm.set_get w.down a)
  | contact a => exact congrArg (fun p => { w with contact := p }) (PerArm.set_get w.contact a)
  | full => rfl
  | low => rfl
  | frost => rfl
  | seat => rfl

theorem SwitchInput.takeRaw_same (i : SwitchInput) (running : Bool) : i.takeRaw running i.raw = i := if_pos rfl

theorem SwitchInput.takeRaw_starting {i : SwitchInput} {on : Bool} (change : on ≠ i.raw) :
    i.takeRaw false on = { i with raw := on } := if_neg change.symm

theorem SwitchInput.takeRaw_running {i : SwitchInput} {on : Bool} (change : on ≠ i.raw) :
    i.takeRaw true on = ⟨on, i.level, if on = i.level then .stopped else .running 20⟩ := if_neg change.symm

theorem exec_rawLevelChange (i : Switch) (on : Bool) (s : State) : exec (.rawLevelChange i on) s = .next { s with
    switches := s.switches.setInput i ((s.switches.input i).takeRaw (s.clock.phase == .running) on) } := rfl

/-- Settles O34: the input takes the level by the phase of the clock and by its debounced level. -/
theorem rawLevelsLoadTheDebounceCounter : Obligations.RawLevelsLoadTheDebounceCounter := by
  intro i on s w
  rw [exec_rawLevelChange]
  refine ⟨fun same => ?_, fun change starting => ?_, fun change running away => ?_, fun change running back => ?_⟩
  · rw [same, SwitchInput.takeRaw_same, Switches.setInput_input]
  · rw [beq_eq_false_iff_ne.mpr starting, SwitchInput.takeRaw_starting change]
  · rw [beq_iff_eq.mpr running, SwitchInput.takeRaw_running change, if_neg away]
  · rw [beq_iff_eq.mpr running, SwitchInput.takeRaw_running change, if_pos back]

end Sys2Proof.Machine
end

section
/-! PROOFS. What a field event leaves alone, and what its end does to the arms and the Spray Unit. -/

namespace Sys2Proof.Machine

set_option Elab.async false

/-! ## What a field event leaves alone -/

theorem Untouched.trans {s t u : State} (h : Untouched s t) (k : Untouched t u) : Untouched s u where
  pending := k.pending.trans h.pending
  time := k.time.trans h.time
  clock := k.clock.trans h.clock
  links := k.links.trans h.links
  attendance := k.attendance.trans h.attendance
  claims := k.claims.trans h.claims
  draft := k.draft.trans h.draft
  items := k.items.trans h.items
  mode := k.mode.trans h.mode
  committed := k.committed.trans h.committed
  resetCauses := k.resetCauses.trans h.resetCauses

theorem Frame.untouched {x : Exc} {k : Reach} {s t : State} (h : Frame x k s t) : Untouched s t :=
  ⟨h.pending, h.time, h.clock, h.links, h.attendance, h.claims, h.draft, h.items, h.mode, h.committed, h.resetCauses⟩

/-- An event that no reset ends leaves the same parts alone as its cascade, the channels and the switches too. -/
theorem Frame.finish_untouched {x : Exc} {k : Reach} {s t : State} (h : Frame x k s t)
    (hp : s.supervision.pendingReset = none) (hw : s.work.reset = none) :
    Untouched s (finish t) ∧ (finish t).capture = s.capture ∧ (finish t).switches = s.switches := by
  have settled := Cascade.settleAll t
  rw [finish_calm (settle_reset (h.pendingReset.trans hp) (h.reset hp hw))]
  exact ⟨(h.untouched.trans settled.untouched).trans ⟨rfl, rfl, rfl, rfl, rfl, rfl, rfl, rfl, rfl, rfl, rfl⟩,
    settled.capture.trans h.capture, settled.switches.trans h.switches⟩

theorem Untouched.item? {s t : State} (h : Untouched s t) (k : Nat) : t.item? k = s.item? k := by
  unfold State.item? Supervision.item
  rw [h.items]

/-! ## The grants at the end of an event, with no reaction bound -/

/-- A property of the arms and the Spray Unit that depends on them and on the commissioning alone, and that grants posted
keep (R121, R131, R140, R144). -/
structure GrantProof (P : State → Prop) : Prop where
  congr : ∀ s t : State, t.arms = s.arms → t.spray = s.spray → t.supervision = s.supervision → P s → P t
  posted : ∀ s, P s → P (postGrants s)

section
variable {P : State → Prop} (hP : GrantProof P)
include hP

theorem GrantProof.raiseAll {raise : Raiser} (hr : Plainly raise) (l : List Raise) {s : State} (hn : NoReactions s)
    (h : P s) : P (raiseAll raise l s) := by
  induction l generalizing s with
  | nil => exact h
  | cons r l ih =>
    have told : P (raise r s) := by
      rw [hr r s hn]
      exact hP.congr s _ rfl rfl rfl h
    exact ih ((hr.calm hn r).unbound hn) told

theorem GrantProof.ceilingCheck {raise : Raiser} (hr : Plainly raise) {s : State} (hn : NoReactions s) (h : P s) :
    P (ceilingCheck raise s) := by
  by_cases due : s.work.ceiling = true
  · rw [ceilingCheck_raise hr hn due]
    split <;> exact hP.congr s _ rfl rfl rfl h
  · unfold Sys2Proof.Machine.ceilingCheck
    rwa [if_neg due]

theorem GrantProof.reallocate {s : State} (h : P s) : P (reallocate s).1 := by
  have ordered : ∀ u : State, P u → P (orderPosted u) := fun u hu => by
    unfold orderPosted
    dsimp only
    split <;> exact hP.congr u _ rfl rfl rfl hu
  have offered : ∀ (was : Bool) (u : State), P u → P (handOffer was u) := fun was u hu => by
    unfold handOffer
    split
    · dsimp only
      split <;> exact hP.congr u _ rfl rfl rfl hu
    · split
      · exact hP.congr u _ rfl rfl rfl hu
      · exact hu
  have queue := ordered _ (hP.congr s (s.modWork fun w => { w with realloc := false }) rfl rfl rfl h)
  unfold Sys2Proof.Machine.reallocate
  generalize orderPosted (s.modWork fun w => { w with realloc := false }) = u at queue
  have settled := hP.posted _ (hP.congr u (u.modFlow Flow.settle) rfl rfl rfl queue)
  exact offered _ _ (hP.congr (postGrants (u.modFlow Flow.settle)) (setShortFlags _) rfl rfl rfl settled)

theorem GrantProof.reallocPass {raise : Raiser} (hr : Plainly raise) {s : State} (hn : NoReactions s) (h : P s) :
    P (reallocPass raise s) :=
  hP.raiseAll hr _ ((Ended.reallocate s).unbound hn) (hP.reallocate h)

theorem GrantProof.settlePass {raise : Raiser} (hr : Plainly raise) {s : State} (hn : NoReactions s) (h : P s) :
    P (settlePass raise s) := by
  unfold Sys2Proof.Machine.settlePass
  split
  · split
    · exact hP.reallocPass hr hn h
    · exact hP.reallocPass hr ((Calm.ceilingCheck hr hn).unbound hn) (hP.ceilingCheck hr hn h)
  · exact hP.ceilingCheck hr hn h

theorem GrantProof.settle (n : Nat) {s : State} (hn : NoReactions s) (h : P s) : P (settle n s) := by
  induction n generalizing s with
  | zero =>
    have plain : Plainly deliverPlain := fun _ _ _ => rfl
    unfold Sys2Proof.Machine.settle
    split
    · exact hP.ceilingCheck plain ((Calm.reallocPass plain hn).unbound hn) (hP.reallocPass plain hn h)
    · exact hP.ceilingCheck plain hn h
  | succ n ih =>
    unfold Sys2Proof.Machine.settle
    split
    · exact ih ((Calm.settlePass raiseFactor_plainly hn).unbound hn) (hP.settlePass raiseFactor_plainly hn h)
    · exact h

/-- What grants keep stands through the end of an event that resets nothing. -/
theorem GrantProof.finish {s : State} (hn : NoReactions s) (hp : s.supervision.pendingReset = none)
    (hw : s.work.reset = none) (hb : s.work.blocked = none) (hr : s.work.reached = []) (h : P s) : P (finish s) := by
  rw [finish_calm (settle_reset hp hw), settleAll_plain hn hb hr]
  exact hP.congr (Sys2Proof.Machine.settle 16 s) _ rfl rfl rfl (hP.settle 16 hn h)

end

/-- R144: the dry-run timer that runs its whole time while the pump has a grant. -/
def State.dryRunFull (s : State) : Prop :=
  s.spray.dryRunTimer = if s.spray.pumpGrant = 0 then .stopped else .running (s.item 29)

/-- R140, R144: a grant that comes loads the timer, one that goes stops it, one that stays leaves it. -/
theorem dryRunFull_grantProof : GrantProof State.dryRunFull where
  congr s t _ spray supervision h := by
    unfold State.dryRunFull State.item State.item? at h ⊢
    rwa [spray, supervision]
  posted s h := by
    have full : s.spray.dryRunTimer = if s.spray.pumpGrant = 0 then .stopped else .running (s.item 29) := h
    show (if s.flow.pumpGrant = 0 then Timer.stopped
      else if s.spray.pumpGrant = 0 then .running (s.item 29) else s.spray.dryRunTimer) = _
    rw [full]
    by_cases idle : s.spray.pumpGrant = 0
    · rw [if_pos idle]; rfl
    · rw [if_neg idle, if_neg idle]; rfl

/-- R121: the lift valves by the motion, whatever the grant starts or pauses. -/
theorem ArmUnit.Commands.takeLift {u : ArmUnit} {full : Nat} (h : u.Commands full) (g m : Nat) :
    (u.takeLift g m).Commands full := by
  have rest := ArmUnit.takeLift_rest u g m
  have valves : (u.takeLift g m).liftDownOpen = (u.state == .lowering && (u.takeLift g m).sub == .moving) ∧
      (u.takeLift g m).liftUpOpen = (u.state == .raising && (u.takeLift g m).sub == .moving) := by
    unfold ArmUnit.takeLift
    split
    · exact ⟨(Bool.and_true _).symm, (Bool.and_true _).symm⟩
    · split
      · exact ⟨(Bool.and_false _).symm, (Bool.and_false _).symm⟩
      · exact h.valves
  rw [rest]
  exact { h with valves := valves }

theorem percentOf_full (a : Nat) {b : Nat} (h : 0 < b) : percentOf a b = a / b := by
  unfold percentOf
  split
  · next zero => rw [zero, Nat.zero_div]
  · exact if_neg (Nat.pos_iff_ne_zero.mp h)

/-- R131: the brush turns by its grant while it is down. -/
theorem ArmUnit.rotOut_turns {u : ArmUnit} (down : u.state = .working ∨ u.state = .deflected) {full : Nat} (h : 0 < full) :
    u.rotOut full = u.rotGrant * 100 / full := by
  unfold ArmUnit.rotOut
  rw [if_pos (by simpa using down), percentOf_full _ h]

theorem ArmUnit.rotOut_still {u : ArmUnit} (h : u.state ≠ .working) (h' : u.state ≠ .deflected) (full : Nat) :
    u.rotOut full = 0 := if_neg (by simp [h, h'])

theorem ArmUnit.Commands.takeRotation {u : ArmUnit} {full : Nat} (h : u.Commands full) (g : Nat) :
    (u.takeRotation g full).Commands full where
  force := h.force
  target := h.target
  demand := h.demand
  turns down pos := ArmUnit.rotOut_turns (u := { u with rotGrant := g }) down pos
  still up up' := ArmUnit.rotOut_still (u := { u with rotGrant := g }) up up' full
  valves := h.valves

/-- R111: every arm's outputs are those of its state. -/
def State.armsCommand (s : State) : Prop := ∀ a, (s.arm a).Commands (s.item 12)

theorem armsCommand_grantProof : GrantProof State.armsCommand where
  congr s t arms _ supervision h a := by
    have same : t.arm a = s.arm a ∧ t.item 12 = s.item 12 := by
      unfold State.arm State.item State.item?
      exact ⟨by rw [arms], by rw [supervision]⟩
    rw [same.1, same.2]
    exact h a
  posted s h a := by
    rw [postGrants_arm]
    exact ((h a).takeLift _ _).takeRotation _

end Sys2Proof.Machine
end

section
/-! PROOFS. Pulses counted, and the water state that a litre may change. -/

namespace Sys2Proof.Machine

set_option Elab.async false

/-! ## Values taken by the TG, the arms and the Spray Unit -/

/-- What the end of an event depends on but for what it has to do: the bindings, the Supervision Unit, and no reset, no
REVERSE_BLOCKED and no cap met that were not there before. -/
structure EndKept (s t : State) : Prop where
  reactions : t.reactions = s.reactions
  supervision : t.supervision = s.supervision
  reset : t.work.reset = s.work.reset
  blocked : t.work.blocked = s.work.blocked
  reached : t.work.reached = s.work.reached

theorem EndKept.trans {s t u : State} (h : EndKept s t) (k : EndKept t u) : EndKept s u where
  reactions := k.reactions.trans h.reactions
  supervision := k.supervision.trans h.supervision
  reset := k.reset.trans h.reset
  blocked := k.blocked.trans h.blocked
  reached := k.reached.trans h.reached

section
variable {s t : State} (h : EndKept s t)
include h

theorem EndKept.unbound (hn : NoReactions s) : NoReactions t := fun e => by rw [h.reactions]; exact hn e

theorem EndKept.item (k : Nat) : t.item k = s.item k := congrArg (fun v => (Supervision.item v k).getD 0) h.supervision

/-- With no reaction bound and nothing left over, the event ends plainly. -/
theorem EndKept.ended (hn : NoReactions s) (hq : Quiet s) : Ended t (finish t) :=
  Ended.finish (h.unbound hn) (h.supervision ▸ hq.noReset) (h.reset.trans (congrArg Work.reset hq.work))
    (h.blocked.trans (congrArg Work.blocked hq.work)) (h.reached.trans (congrArg Work.reached hq.work))

theorem EndKept.finish {P : State → Prop} (hP : GrantProof P) (hn : NoReactions s) (hq : Quiet s) (ht : P t) : P (finish t) :=
  hP.finish (h.unbound hn) (h.supervision ▸ hq.noReset) (h.reset.trans (congrArg Work.reset hq.work))
    (h.blocked.trans (congrArg Work.blocked hq.work)) (h.reached.trans (congrArg Work.reached hq.work)) ht

end

/-- What an operation that hands a value to the TG, an arm or the Spray Unit leaves besides: the account and the notices. -/
structure Posts (s t : State) : Prop extends EndKept s t where
  water : t.water = s.water
  notices : t.notices = s.notices

theorem Posts.trans {s t u : State} (h : Posts s t) (k : Posts t u) : Posts s u where
  toEndKept := h.toEndKept.trans k.toEndKept
  water := k.water.trans h.water
  notices := k.notices.trans h.notices

theorem Posts.postPump (d : Nat) (s : State) : Posts s (postPump d s) := by
  unfold Sys2Proof.Machine.postPump
  split <;> exact ⟨⟨rfl, rfl, rfl, rfl, rfl⟩, rfl, rfl⟩

theorem Posts.modSpray (s : State) (f : Spray → Spray) : Posts s (s.modSpray f) := ⟨⟨rfl, rfl, rfl, rfl, rfl⟩, rfl, rfl⟩

theorem Posts.evaluateZones (s : State) : Posts s (evaluateZones s) := (Posts.modSpray s _).trans (Posts.postPump _ _)

/-- An evaluation sets the zones, the duties, the valves and the pump's demand (R136 to R140). -/
theorem evaluateZones_spray (s : State) : (evaluateZones s).spray = { s.spray with
    zones := (evaluateZones s).spray.zones, duty := (evaluateZones s).spray.duty, valves := (evaluateZones s).spray.valves
    pumpDuty := (evaluateZones s).spray.pumpDuty, pumpDemand := (evaluateZones s).spray.pumpDemand } := by
  unfold evaluateZones postPump
  dsimp only
  split <;> rfl

theorem Posts.handWater (s : State) : Posts s (handWater s) := by
  have taken : Posts s (sprayTakesWater s.water.state s) := (Posts.modSpray s _).trans (Posts.evaluateZones _)
  unfold Sys2Proof.Machine.handWater
  dsimp only
  split
  · exact taken
  · exact taken.trans ⟨⟨rfl, rfl, rfl, rfl, rfl⟩, rfl, rfl⟩

/-- R148: the Spray Unit takes the water state; the pump's grant and the dry-run timer stand. -/
theorem handWater_spray (s : State) : (handWater s).spray.waterState = s.water.state ∧
    (handWater s).spray.pumpGrant = s.spray.pumpGrant ∧ (handWater s).spray.dryRunTimer = s.spray.dryRunTimer := by
  have same : (handWater s).spray = (sprayTakesWater s.water.state s).spray := by
    unfold handWater
    dsimp only
    split <;> rfl
  rw [same, show (sprayTakesWater s.water.state s).spray = _ from evaluateZones_spray _]
  exact ⟨rfl, rfl, rfl⟩

/-! ## The water state (R148) -/

theorem Water.stateFor_eq (w : Water) (lowVolume : Nat) : w.stateFor lowVolume =
    if w.dryLatch = true ∨ w.estimate = 0 then .empty
    else if lowVolume < w.estimate ∧ w.low = false then .ample else .reserve := by
  simp [Water.stateFor]

theorem recomputeWater_stays {raise : Raiser} {s : State} (h : s.water.stateFor (s.item 23) = s.water.state) :
    recomputeWater raise s = s := if_pos h

/-- The state with its new water state, and the factor of that state told (R148). -/
def tellWater (raise : Raiser) (s : State) (now : WaterState) : State :=
  let t := s.modWater fun w => { w with state := now }
  match t.water.factor now with
  | some d => raise (t.raiseOf .none d) t
  | none => t

theorem recomputeWater_changes {raise : Raiser} {s : State} (h : s.water.stateFor (s.item 23) ≠ s.water.state) :
    recomputeWater raise s = handWater (tellWater raise s (s.water.stateFor (s.item 23))) := if_neg h

section
variable {raise : Raiser} (hr : Plainly raise) {s : State} (hn : NoReactions s) (now : WaterState)
include hr hn

/-- With no reaction bound the water state changes, and notices besides it. -/
theorem tellWater_plain : EndKept s (tellWater raise s now) ∧
    (tellWater raise s now).water = { s.water with state := now } ∧ (tellWater raise s now).spray = s.spray := by
  unfold tellWater
  dsimp only
  split
  · rw [hr _ (s.modWater _) hn]
    exact ⟨⟨rfl, rfl, rfl, rfl, rfl⟩, rfl, rfl⟩
  · exact ⟨⟨rfl, rfl, rfl, rfl, rfl⟩, rfl, rfl⟩

theorem tellWater_held {d : Detail} (hd : s.water.factor now = some d) {x : Station} (hx : s.attends x = true) :
    ((tellWater raise s now).notices.get x).held[d.factor] = some ⟨.none, d, s.time, none⟩ := by
  have factor : (s.modWater fun w => { w with state := now }).water.factor now = some d := by
    rw [← hd]; cases now <;> rfl
  have raised : tellWater raise s now = deliver (s.raiseOf .none d) none (s.modWater fun w => { w with state := now }) := by
    unfold tellWater
    simp only [factor]
    exact hr _ (s.modWater _) hn
  rw [raised]
  exact (deliver_held _ (s.modWater _) x _).trans (if_pos ⟨(Bool.and_true _).trans hx, rfl⟩)

end

/-! ## A FLOW pulse (R79, R144, R146) -/

/-- A litre passed (R146). -/
def Water.litre (w : Water) : Water :=
  { w with pulses := 0, dispensed := min (w.dispensed + 1) 4294967295, estimate := w.estimate - 1 }

theorem Water.pulse_short {w : Water} {n : Nat} (h : w.pulses + 1 < n) : w.pulse n = { w with pulses := w.pulses + 1 } :=
  if_pos h

theorem Water.pulse_litre {w : Water} {n : Nat} (h : n ≤ w.pulses + 1) : w.pulse n = w.litre := if_neg (Nat.not_lt.mpr h)

theorem waterTakesPulse_unwritten {raise : Raiser} {s : State} (h : s.item? 24 = none) : waterTakesPulse raise s = s := by
  unfold waterTakesPulse
  rw [h]

theorem waterTakesPulse_short {raise : Raiser} {s : State} {n : Nat} (h : s.item? 24 = some n) (short : s.water.pulses + 1 < n) :
    waterTakesPulse raise s = { s with water := { s.water with pulses := s.water.pulses + 1 } } := by
  unfold waterTakesPulse
  simp only [h, if_pos short, State.modWater, Water.pulse_short short]

/-- With a litre passed the water state is recomputed. -/
theorem waterTakesPulse_litre {raise : Raiser} {s : State} {n : Nat} (h : s.item? 24 = some n) (full : n ≤ s.water.pulses + 1) :
    waterTakesPulse raise s = recomputeWater raise { s with water := s.water.litre } := by
  unfold waterTakesPulse
  simp only [h, if_neg (Nat.not_lt.mpr full), State.modWater, Water.pulse_litre full]

/-- The state with the pulse counted, and the dry-run timer reloaded while the pump has a grant (R144). -/
def State.wet (s : State) (counted : Capture) : State := { s with
  capture := counted
  spray := { s.spray with dryRunTimer := if 0 < s.spray.pumpGrant then .running (s.item 29) else s.spray.dryRunTimer } }

theorem dryRunPulse_eq (s : State) : dryRunPulse s = s.wet s.capture := by
  unfold dryRunPulse State.wet State.modSpray
  dsimp only
  split <;> rfl

theorem countPulse_eq (ch : Channel) (high : Bool) (s : State) : countPulse ch high s = { s with
    capture := { s.capture.setChannel ch { s.capture.channel ch with
        counter := min ((s.capture.channel ch).counter + 1) 65535 } with
      direction := if ch = .wheel then (if high then .reverse else .forward) else s.capture.direction } } := by
  cases ch <;> rfl

theorem exec_capturePulse_other {ch : Channel} {s : State} (running : s.clock.phase = .running) (h : ch ≠ .flow) (high : Bool) :
    exec (.capturePulse ch high) s = .next (countPulse ch high s) :=
  congrArg Host.Outcome.next ((if_pos running).trans (if_neg h))

theorem exec_capturePulse_flow {s : State} (running : s.clock.phase = .running) {high : Bool} {counted : Capture}
    (hc : (countPulse .flow high s).capture = counted) :
    exec (.capturePulse .flow high) s = .next (finish (waterTakesPulse raiseFactor (s.wet counted))) := by
  have pulse : dryRunPulse (countPulse .flow high s) = s.wet counted := hc ▸ dryRunPulse_eq (countPulse .flow high s)
  rw [← pulse]
  exact congrArg Host.Outcome.next (if_pos running)

/-- A litre that changes the water state, as the statement says it. -/
theorem finish_litre {w : State} (hq : Quiet w) (changed : w.water.stateFor (w.item 23) ≠ w.water.state) :
    let now := w.water.stateFor (w.item 23)
    let t := finish (recomputeWater raiseFactor w)
    Untouched w t ∧ t.capture = w.capture ∧ t.switches = w.switches ∧
      (NoReactions w → t.water = { w.water with state := now } ∧ t.spray.waterState = now ∧
        (w.dryRunFull → t.dryRunFull) ∧
        ∀ x, w.attends x = true → ∀ d (k : Fin 24), w.water.factor now = some d → d.factor = k → k ≠ 12 → k ≠ 13 →
          (t.notices.get x).held[k] = some ⟨.none, d, w.time, none⟩) := by
  intro now t
  obtain ⟨untouched, capture, switches⟩ := (Frame.recomputeWater Cascade.raiseFactor w).finish_untouched hq.noReset
    (congrArg Work.reset hq.work)
  refine ⟨untouched, capture, switches, fun hn => ?_⟩
  have changes : t = finish (handWater (tellWater raiseFactor w now)) := congrArg finish (recomputeWater_changes changed)
  have held := fun x hx d hd => tellWater_held raiseFactor_plainly hn now (d := d) hd (x := x) hx
  obtain ⟨kept, water, spray⟩ := tellWater_plain raiseFactor_plainly hn now
  rw [changes]
  generalize tellWater raiseFactor w now = u at kept water spray held
  have posts := Posts.handWater u
  have kept := kept.trans posts.toEndKept
  have ended := kept.ended hn hq
  obtain ⟨state, grant, timer⟩ := handWater_spray u
  refine ⟨ended.water.trans (posts.water.trans water), ?_, fun full => ?_, fun x hx d k hd hk h12 h13 => ?_⟩
  · exact (congrArg Spray.waterState ended.spray).trans (state.trans (congrArg Water.state water))
  · refine kept.finish dryRunFull_grantProof hn hq ?_
    unfold State.dryRunFull
    rw [timer, grant, kept.item, spray]
    exact full
  · subst hk
    rw [(ended.held x d.factor h12 h13).1, posts.notices]
    exact held x hx d hd

/-- Settles O32: the phase, the channel, item 24 and the litre decide. -/
theorem capturePulsesAreCounted : Obligations.CapturePulsesAreCounted := by
  refine fun ch high s => ⟨fun starting => congrArg Host.Outcome.next (if_neg starting), fun running => ?_⟩
  intro counted
  refine ⟨fun other => (exec_capturePulse_other running other high).trans (congrArg _ (countPulse_eq ch high s)), fun flow work => ?_⟩
  subst flow
  intro wet
  have pulse : exec (.capturePulse .flow high) s = .next (finish (waterTakesPulse raiseFactor wet)) :=
    exec_capturePulse_flow running (congrArg State.capture (countPulse_eq .flow high s))
  refine ⟨fun unwritten => ?_, fun n hn => ⟨fun short => ?_, fun full => ?_⟩⟩
  · have same : waterTakesPulse raiseFactor wet = wet := waterTakesPulse_unwritten unwritten
    exact pulse.trans (congrArg _ ((congrArg finish same).trans (finish_clear work)))
  · have same := waterTakesPulse_short (raise := raiseFactor) (s := wet) hn short
    exact pulse.trans (congrArg _ ((congrArg finish same).trans (finish_clear work)))
  · intro litre now
    have passed : waterTakesPulse raiseFactor wet = recomputeWater raiseFactor { wet with water := litre } :=
      waterTakesPulse_litre hn full
    have state : litre.stateFor (s.item 23) = now := Water.stateFor_eq _ _
    refine ⟨fun same => ?_, fun changed noReset => ?_⟩
    · have stays := passed.trans (recomputeWater_stays (state.trans same))
      exact pulse.trans (congrArg _ ((congrArg finish stays).trans (finish_clear work)))
    · obtain ⟨untouched, capture, switches, plain⟩ := finish_litre (w := { wet with water := litre }) ⟨work, noReset⟩
        fun same => changed (state.symm.trans same)
      have alone : Untouched s { wet with water := litre } := ⟨rfl, rfl, rfl, rfl, rfl, rfl, rfl, rfl, rfl, rfl, rfl⟩
      refine ⟨_, pulse.trans (congrArg _ (congrArg finish passed)), alone.trans untouched, capture, switches, fun unbound => ?_⟩
      obtain ⟨water, spray, timer, told⟩ := plain unbound
      have entered : litre.stateFor (({ wet with water := litre } : State).item 23) = now := state
      rw [entered] at water spray told
      refine ⟨water, spray, fun grant => ?_, fun x attends => ⟨fun reserve => ?_, fun empty => ?_⟩⟩
      · have full := timer ((if_pos grant).trans (if_neg (Nat.pos_iff_ne_zero.mp grant)).symm)
        unfold State.dryRunFull State.item at full
        rwa [untouched.item?] at full
      · exact told x attends _ 15 (by rw [reserve]; rfl) rfl (by decide) (by decide)
      · exact told x attends _ 16 (by rw [empty]; rfl) rfl (by decide) (by decide)

end Sys2Proof.Machine
end

section
/-! PROOFS. A gate's end: the measured values, and a wheel speed taken by the four blocks. -/

namespace Sys2Proof.Machine

set_option Elab.async false

/-! ## The window and the measured values (R75, R76, R78, R79) -/

theorem CaptureChannel.close_eq (c : CaptureChannel) (gate : Nat) : c.close gate =
    if gate = c.interval then ⟨0, c.older, c.newer, c.newest, c.counter, gate, .running gate⟩
    else ⟨0, 0, 0, 0, 0, gate, .running gate⟩ := by
  unfold CaptureChannel.close
  split
  · next same => rw [same]
  · rfl

theorem CaptureChannel.close_interval (c : CaptureChannel) (gate : Nat) : (c.close gate).interval = gate := by
  rw [CaptureChannel.close_eq]
  split <;> rfl

theorem measured_rest {c : CaptureChannel} {item : Option Nat} (h : item = none ∨ c.sum = 0) (scale : Nat) :
    measured c.sum scale c.interval item = 0 := by
  unfold measured
  cases item with
  | none => rfl
  | some p => exact if_pos (h.resolve_left nofun)

theorem measured_pulses {c : CaptureChannel} (h : 0 < c.sum) (scale p : Nat) :
    measured c.sum scale c.interval (some p) = max 1 (c.sum * scale / (p * 4 * c.interval)) :=
  if_neg (Nat.pos_iff_ne_zero.mp h)

theorem wheelSpeedOf_eq (c : CaptureChannel) (d : Direction) (item : Option Nat) : wheelSpeedOf c d item =
    (if d = .forward then 1 else -1) * (min 500 (measured c.sum 36000 c.interval item) : Nat) := by
  cases d with
  | forward => exact (Int.one_mul _).symm
  | reverse => exact (Int.neg_one_mul _).symm

/-- The channels and the published values once a gate has ended. -/
def State.gateCapture (s : State) (ch : Channel) : Capture :=
  let c := (s.capture.channel ch).close ((s.item? (gateItem ch)).getD 100)
  match ch with
  | .wheel => { s.capture.setChannel ch c with wheelSpeed := wheelSpeedOf c s.capture.direction (s.item? 1) }
  | .brush a => { s.capture.setChannel ch c with
      brushSpeed := s.capture.brushSpeed.set a (brushSpeedOf c (s.item? 11)) }
  | .flow => { s.capture.setChannel ch c with waterFlow := waterFlowOf c (s.item? 24) }

/-- The state with its measure published, before the blocks take it. -/
def State.gated (s : State) (ch : Channel) : State := { s with capture := s.gateCapture ch }

theorem gateExpiry_wheel (s : State) : gateExpiry .wheel s = publishWheel (s.gateCapture .wheel).wheelSpeed
    (s.gateCapture .wheel).wheel.newest (s.gated .wheel) := rfl

theorem gateExpiry_brush (a : Arm) (s : State) : gateExpiry (.brush a) s =
    armTakesBrush (brushSpeedOf ((s.capture.channel (.brush a)).close ((s.item? (gateItem (.brush a))).getD 100)) (s.item? 11)) a
      (s.gated (.brush a)) := rfl

theorem gateExpiry_cascade (ch : Channel) (s : State) : Cascade (s.gated ch) (gateExpiry ch s) := by
  cases ch with
  | wheel => exact Cascade.publishWheel _ _ _
  | brush a => exact Cascade.armTakesBrush _ _ _
  | flow => exact Cascade.refl _

theorem gateCapture_channel (s : State) (ch : Channel) : (s.gateCapture ch).channel ch =
    (s.capture.channel ch).close ((s.item? (gateItem ch)).getD 100) := by
  cases ch with
  | wheel => rfl
  | brush a => exact (PerArm.get_set _ _ _ _).trans (if_pos rfl)
  | flow => rfl

/-- The other channels stand (R75). -/
theorem gateCapture_others (s : State) {ch k : Channel} (h : k ≠ ch) : (s.gateCapture ch).channel k = s.capture.channel k := by
  cases ch with
  | wheel => cases k with
    | wheel => exact absurd rfl h
    | brush a => rfl
    | flow => rfl
  | brush a => cases k with
    | wheel => rfl
    | brush b => exact (PerArm.get_set _ _ _ _).trans (if_neg fun e => h (congrArg _ e))
    | flow => rfl
  | flow => cases k with
    | wheel => rfl
    | brush a => rfl
    | flow => exact absurd rfl h

/-- A gate's end publishes the value of its own channel alone. -/
theorem gateCapture_values (s : State) (ch : Channel) : (s.gateCapture ch).direction = s.capture.direction ∧
    (ch ≠ .wheel → (s.gateCapture ch).wheelSpeed = s.capture.wheelSpeed) ∧
    (ch ≠ .flow → (s.gateCapture ch).waterFlow = s.capture.waterFlow) ∧
    ∀ a, ch ≠ .brush a → (s.gateCapture ch).brushSpeed.get a = s.capture.brushSpeed.get a := by
  cases ch with
  | wheel => exact ⟨rfl, fun h => absurd rfl h, fun _ => rfl, fun _ _ => rfl⟩
  | brush b =>
    exact ⟨rfl, fun _ => rfl, fun _ => rfl, fun a h => (PerArm.get_set _ _ _ _).trans (if_neg fun e => h (by rw [e]))⟩
  | flow => exact ⟨rfl, fun _ => rfl, fun h => absurd rfl h, fun _ _ => rfl⟩

theorem gateCapture_brushSpeed (s : State) (a : Arm) : (s.gateCapture (.brush a)).brushSpeed.get a =
    brushSpeedOf ((s.capture.channel (.brush a)).close ((s.item? (gateItem (.brush a))).getD 100)) (s.item? 11) :=
  (PerArm.get_set _ _ _ _).trans (if_pos rfl)

theorem exec_gateExpiry {ch : Channel} {s : State} (h : (s.capture.channel ch).timer = .running 0) :
    exec (.gateExpiry ch) s = .next (finish (gateExpiry ch s)) :=
  congrArg Host.Outcome.next (if_pos (Timer.due_of_running_zero h))

/-! ## The Travel Governor takes the speed (R97, R107) -/

/-- R97 over the TG's record: the end of STOPPING. -/
def Travel.endStop (g : Travel) : Travel :=
  if g.state = .stopping ∧ g.setpoint = 0 ∧ g.wheelSpeed = 0 then
    if g.safeStop || g.resetPending then { g.park with causes := StopCauses.empty }
    else { g with state := .hold, causes := StopCauses.empty }
  else g

/-- With no settled reset pending the test of R185 does nothing. -/
theorem settledTest_none {s : State} (h : s.supervision.pendingReset = none) : settledTest s = s := by
  unfold settledTest
  rw [h]
  rfl

theorem stopTest_plain {s : State} (hn : NoReactions s) (hp : s.supervision.pendingReset = none) :
    stopTest s = s.modTravel Travel.endStop := by
  rw [stopTest_eq hn, settledTest_none (s := s.modTravel _) hp]
  unfold State.modTravel Travel.endStop
  split
  · split <;> rfl
  · rfl

theorem travelTakesSpeed_plain {s : State} (hn : NoReactions s) (hp : s.supervision.pendingReset = none) (v : Int) :
    travelTakesSpeed v s = s.modTravel fun g => Travel.testOverspeed (Travel.endStop { g with wheelSpeed := v }) :=
  congrArg overspeedTest (stopTest_plain (s := s.modTravel _) hn hp)

theorem Travel.endStop_state (g : Travel) : g.endStop.state =
    if g.state = .stopping ∧ g.setpoint = 0 ∧ g.wheelSpeed = 0 then (if g.safeStop || g.resetPending then .parked else .hold)
    else g.state := by
  unfold Travel.endStop
  split
  · split <;> rfl
  · rfl

theorem Travel.endStop_wheelSpeed (g : Travel) : g.endStop.wheelSpeed = g.wheelSpeed := by
  unfold Travel.endStop
  split
  · split <;> rfl
  · rfl

/-- Where the TG does not park, the end of STOPPING leaves what the overspeed test is made on. -/
theorem Travel.endStop_speeds {g : Travel} (h : g.endStop.state ≠ .parked) : g.endStop.setpoint = g.setpoint ∧
    g.endStop.overspeedTimer = g.overspeedTimer ∧ g.endStop.overspeedExpired = g.overspeedExpired := by
  unfold Travel.endStop at h ⊢
  split
  · next rest =>
    rw [if_pos rest] at h
    split
    · next parks => exact absurd (congrArg Travel.state (if_pos parks)) h
    · exact ⟨rfl, rfl, rfl⟩
  · exact ⟨rfl, rfl, rfl⟩

theorem Travel.testOverspeed_state (g : Travel) : g.testOverspeed.state = g.state := by
  obtain ⟨m, b, h⟩ := Travel.testOverspeed_eq g
  rw [h]

theorem Travel.testOverspeed_wheelSpeed (g : Travel) : g.testOverspeed.wheelSpeed = g.wheelSpeed := by
  obtain ⟨m, b, h⟩ := Travel.testOverspeed_eq g
  rw [h]

/-- R107: the test outside PARKED. -/
theorem Travel.testOverspeed_moves {g : Travel} (h : g.state ≠ .parked) :
    (0 < g.wheelSpeed ∧ 20 < g.wheelSpeed - g.setpoint.tdiv 100 →
      g.testOverspeed.overspeedExpired = g.overspeedExpired ∧ g.testOverspeed.overspeedTimer =
        if g.overspeedTimer.isRunning || g.overspeedExpired then g.overspeedTimer else .running 1000) ∧
    (¬(0 < g.wheelSpeed ∧ 20 < g.wheelSpeed - g.setpoint.tdiv 100) →
      g.testOverspeed.overspeedExpired = false ∧ g.testOverspeed.overspeedTimer = .stopped) := by
  have tested : g.testOverspeed = if 0 < g.wheelSpeed ∧ 20 < g.wheelSpeed - g.setpoint.tdiv 100 then
      (if g.overspeedTimer.isRunning || g.overspeedExpired then g else { g with overspeedTimer := .running 1000 })
      else { g with overspeedTimer := .stopped, overspeedExpired := false } := by
    unfold Travel.testOverspeed Travel.overspeeding toCounts
    rw [if_neg (by simpa using h)]
    simp only [Bool.and_eq_true, decide_eq_true_eq]
  refine ⟨fun above => ?_, fun below => ?_⟩
  · rw [tested, if_pos above]
    split <;> exact ⟨rfl, rfl⟩
  · rw [tested, if_neg below]
    exact ⟨rfl, rfl⟩

/-! ## An arm takes the speed (R118, R131) -/

/-- What an operation on arm a leaves besides: the other arms, the TG and the Spray Unit. -/
structure PostsArm (a : Arm) (s t : State) : Prop extends Posts s t where
  travel : t.travel = s.travel
  spray : t.spray = s.spray
  others : ∀ b, b ≠ a → t.arm b = s.arm b

theorem PostsArm.trans {a : Arm} {s t u : State} (h : PostsArm a s t) (k : PostsArm a t u) : PostsArm a s u where
  toPosts := h.toPosts.trans k.toPosts
  travel := k.travel.trans h.travel
  spray := k.spray.trans h.spray
  others b hb := (k.others b hb).trans (h.others b hb)

theorem PostsArm.modArm (a : Arm) (f : ArmUnit → ArmUnit) (s : State) : PostsArm a s (s.modArm a f) where
  toPosts := ⟨⟨rfl, rfl, rfl, rfl, rfl⟩, rfl, rfl⟩
  travel := rfl
  spray := rfl
  others b hb := by rw [State.arm_modArm, if_neg hb]

theorem PostsArm.postLift (a : Arm) (s : State) : PostsArm a s (postLift a s) := by
  have h := PostsArm.modArm a (fun u => { u with liftPosted := true }) s
  unfold Sys2Proof.Machine.postLift
  dsimp only
  split
  · exact h.trans ⟨⟨⟨rfl, rfl, rfl, rfl, rfl⟩, rfl, rfl⟩, rfl, rfl, fun _ _ => rfl⟩
  · exact h

theorem postLift_arm (a : Arm) (s : State) : (postLift a s).arm a = { s.arm a with liftPosted := true } := by
  have h : (s.modArm a fun u => { u with liftPosted := true }).arm a = { s.arm a with liftPosted := true } := by
    rw [State.arm_modArm, if_pos rfl]
  unfold postLift
  dsimp only
  split <;> exact h

theorem PostsArm.postRotation (a : Arm) (d : Nat) (s : State) : PostsArm a s (postRotation a d s) := by
  unfold Sys2Proof.Machine.postRotation
  split
  · exact ⟨⟨⟨rfl, rfl, rfl, rfl, rfl⟩, rfl, rfl⟩, rfl, rfl, fun _ _ => rfl⟩
  · exact ⟨⟨⟨rfl, rfl, rfl, rfl, rfl⟩, rfl, rfl⟩, rfl, rfl, fun _ _ => rfl⟩

theorem PostsArm.refreshArm (a : Arm) (s : State) : PostsArm a s (refreshArm a s) :=
  (PostsArm.modArm a _ s).trans (PostsArm.postRotation a _ _)

theorem refreshArm_arm (a : Arm) (s : State) : (refreshArm a s).arm a =
    (s.arm a).refresh (s.item 12) (s.item 10) (s.item 13) := by
  unfold refreshArm
  dsimp only
  rw [State.arm, postRotation_arms]
  exact (State.arm_modArm s a a _).trans (if_pos rfl)

/-- The arm at a published speed: its copy, and the end of awaiting-speed at or below item 7 (R118). -/
def ArmUnit.hears (u : ArmUnit) (v : Int) (slow : Nat) : ArmUnit :=
  if u.sub = .awaitingSpeed ∧ v.natAbs ≤ slow then { u with wheelSpeed := v, sub := .awaitingFlow, liftPosted := true }
  else { u with wheelSpeed := v }

/-- What it hears, and its outputs after (R111). -/
def ArmUnit.takesSpeed (u : ArmUnit) (v : Int) (item : Nat → Nat) : ArmUnit :=
  (u.hears v (item 7)).refresh (item 12) (item 10) (item 13)

theorem armTakesSpeed_posts (v : Int) (a : Arm) (s : State) : PostsArm a s (armTakesSpeed v a s) ∧
    (armTakesSpeed v a s).arm a = (s.arm a).takesSpeed v s.item := by
  have refreshed : ∀ t, PostsArm a s t → t.arm a = (s.arm a).hears v (s.item 7) →
      PostsArm a s (refreshArm a t) ∧ (refreshArm a t).arm a = (s.arm a).takesSpeed v s.item := fun t h unit => by
    refine ⟨h.trans (PostsArm.refreshArm a t), ?_⟩
    rw [refreshArm_arm, unit, h.item, h.item, h.item]
    rfl
  have h := PostsArm.modArm a (fun u => { u with wheelSpeed := v }) s
  have copied : (s.modArm a fun u => { u with wheelSpeed := v }).arm a = { s.arm a with wheelSpeed := v } := by
    rw [State.arm_modArm, if_pos rfl]
  unfold armTakesSpeed State.slowEnough
  dsimp only
  rw [copied, h.item]
  generalize (s.modArm a fun u => { u with wheelSpeed := v }) = t at h copied
  by_cases ends : (s.arm a).sub = .awaitingSpeed ∧ v.natAbs ≤ s.item 7
  · rw [if_pos (by simpa using ends)]
    have flow := (PostsArm.modArm a (fun u => { u with sub := .awaitingFlow }) t).trans (PostsArm.postLift a _)
    refine refreshed _ (h.trans flow) ?_
    unfold ArmUnit.hears
    rw [awaitFlow, postLift_arm, State.arm_modArm, if_pos rfl, copied, if_pos ends]
  · rw [if_neg (by simpa using ends)]
    refine refreshed t h ?_
    unfold ArmUnit.hears
    rw [copied, if_neg ends]

/-- R77: the three arms in turn. -/
theorem armsTakeSpeed_posts {v : Int} {s z : State} (inTurn : Arm.list.foldl (fun t a => armTakesSpeed v a t) s = z) :
    Posts s z ∧ z.travel = s.travel ∧ z.spray = s.spray ∧ ∀ a, z.arm a = (s.arm a).takesSpeed v s.item := by
  simp only [Arm.list, List.foldl_cons, List.foldl_nil] at inTurn
  obtain ⟨l, unitL⟩ := armTakesSpeed_posts v .l s
  generalize armTakesSpeed v .l s = t at l unitL inTurn
  obtain ⟨r, unitR⟩ := armTakesSpeed_posts v .r t
  generalize armTakesSpeed v .r t = u at r unitR inTurn
  obtain ⟨c, unitC⟩ := armTakesSpeed_posts v .c u
  rw [inTurn] at c unitC
  have itemT : t.item = s.item := funext l.item
  have itemU : u.item = s.item := (funext r.item).trans itemT
  refine ⟨(l.toPosts.trans r.toPosts).trans c.toPosts, c.travel.trans (r.travel.trans l.travel),
    c.spray.trans (r.spray.trans l.spray), fun a => ?_⟩
  cases a with
  | l => rw [c.others .l nofun, r.others .l nofun, unitL]
  | r => rw [c.others .r nofun, unitR, itemT, l.others .r nofun]
  | c => rw [unitC, itemU, r.others .c nofun, l.others .c nofun]

/-- R111: what a refresh sets, the stall test apart. -/
theorem ArmUnit.refresh_eq (u : ArmUnit) (full m n : Nat) : ∃ x y, u.refresh full m n = { u with
    liftDownOpen := u.state == .lowering && u.sub == .moving
    liftUpOpen := u.state == .raising && u.sub == .moving
    force := if u.state == .working then u.level * 100 / 15 else 0
    rotTarget := u.targetNow
    rotDemand := ceilDiv (u.targetNow * full) 100
    rot := u.rotOut full
    stallTimer := x, stallExpired := y } := by
  unfold ArmUnit.refresh
  dsimp only
  split
  · exact ⟨_, _, rfl⟩
  · exact ArmUnit.stallTest_rest _ m n

/-- R111: outputs, target and demand of an arm refreshed, with the rest of its record. -/
theorem ArmUnit.refresh_commands (u : ArmUnit) (full m n : Nat) : (u.refresh full m n).Commands full ∧
    (u.refresh full m n).state = u.state ∧ (u.refresh full m n).wheelSpeed = u.wheelSpeed ∧
    (u.refresh full m n).sub = u.sub ∧ (u.refresh full m n).liftPosted = u.liftPosted := by
  obtain ⟨x, y, refreshed⟩ := ArmUnit.refresh_eq u full m n
  rw [refreshed]
  exact
    ⟨{ force := by simp only [beq_iff_eq]
       target := rfl
       demand := rfl
       turns := fun down pos => ArmUnit.rotOut_turns (u := u) down pos
       still := fun up up' => ArmUnit.rotOut_still (u := u) up up' full
       valves := ⟨rfl, rfl⟩ }, rfl, rfl, rfl, rfl⟩

/-- R118: awaiting-speed ends at or below item 7, and not above. -/
theorem ArmUnit.takesSpeed_spec (u : ArmUnit) (v : Int) (item : Nat → Nat) : (u.takesSpeed v item).Commands (item 12) ∧
    (u.takesSpeed v item).state = u.state ∧ (u.takesSpeed v item).wheelSpeed = v ∧
    (u.sub = .awaitingSpeed → v.natAbs ≤ item 7 → (u.takesSpeed v item).sub = .awaitingFlow ∧
      (u.takesSpeed v item).liftPosted = true) ∧
    (u.sub = .awaitingSpeed → item 7 < v.natAbs → (u.takesSpeed v item).sub = .awaitingSpeed ∧
      (u.takesSpeed v item).liftPosted = u.liftPosted) := by
  obtain ⟨commands, state, speed, sub, posted⟩ := ArmUnit.refresh_commands (u.hears v (item 7)) (item 12) (item 10) (item 13)
  unfold ArmUnit.takesSpeed
  rw [state, speed, sub, posted]
  unfold ArmUnit.hears at commands ⊢
  refine ⟨commands, ?_, ?_, fun awaits slow => ?_, fun awaits fast => ?_⟩
  · split <;> rfl
  · split <;> rfl
  · rw [if_pos ⟨awaits, slow⟩]
    exact ⟨rfl, rfl⟩
  · rw [if_neg fun h => Nat.not_le.mpr fast h.2]
    exact ⟨awaits, rfl⟩

/-! ## The Spray Unit and the account take the speed (R139, R150) -/

theorem Spray.dwellStep_rest {p : Spray} (h : p.wheelSpeed = 0) : p.dwellStep =
    if p.dwell = .moving then
      (if p.dwellDelay = 0 then { p with dwell := .standing }
      else { p with dwell := .dwelling, dwellTimer := .running p.dwellDelay })
    else p := by
  unfold Spray.dwellStep
  rw [if_pos h]
  cases p.dwell <;> rfl

theorem Spray.dwellStep_rolls {p : Spray} (h : p.wheelSpeed ≠ 0) : p.dwellStep =
    { p with dwell := .moving, dwellTimer := if p.dwell = .dwelling then .stopped else p.dwellTimer } := by
  unfold Spray.dwellStep
  rw [if_neg h]
  cases p.dwell <;> rfl

theorem Spray.dwellStep_wheelSpeed (p : Spray) : p.dwellStep.wheelSpeed = p.wheelSpeed := by
  by_cases h : p.wheelSpeed = 0
  · rw [Spray.dwellStep_rest h]
    split
    · split <;> rfl
    · rfl
  · rw [Spray.dwellStep_rolls h]

/-- R139: the dwell condition at a published speed. -/
theorem Spray.dwellStep_spec (p : Spray) (v : Int) :
    let q := { p with wheelSpeed := v }.dwellStep
    (v = 0 →
      (p.dwell = .moving → p.dwellDelay = 0 → q.dwell = .standing ∧ q.dwellTimer = p.dwellTimer) ∧
      (p.dwell = .moving → p.dwellDelay ≠ 0 → q.dwell = .dwelling ∧ q.dwellTimer = .running p.dwellDelay) ∧
      (p.dwell ≠ .moving → q.dwell = p.dwell ∧ q.dwellTimer = p.dwellTimer)) ∧
    (v ≠ 0 → q.dwell = .moving ∧ q.dwellTimer = if p.dwell = .dwelling then .stopped else p.dwellTimer) := by
  intro q
  refine ⟨fun rest => ?_, fun rolls => ?_⟩
  · have stepped : q = _ := Spray.dwellStep_rest rest
    refine ⟨fun moving noDelay => ?_, fun moving delay => ?_, fun other => ?_⟩
    · rw [stepped, if_pos moving, if_pos noDelay]
      exact ⟨rfl, rfl⟩
    · rw [stepped, if_pos moving, if_neg delay]
      exact ⟨rfl, rfl⟩
    · rw [stepped, if_neg other]
      exact ⟨rfl, rfl⟩
  · have stepped : q = _ := Spray.dwellStep_rolls rolls
    rw [stepped]
    exact ⟨rfl, rfl⟩

theorem sprayTakesSpeed_posts (v : Int) (s : State) : Posts s (sprayTakesSpeed v s) :=
  (Posts.modSpray s _).trans (Posts.evaluateZones _)

theorem sprayTakesSpeed_spray (v : Int) (s : State) : (sprayTakesSpeed v s).spray.wheelSpeed = v ∧
    (sprayTakesSpeed v s).spray.dwell = { s.spray with wheelSpeed := v }.dwellStep.dwell ∧
    (sprayTakesSpeed v s).spray.dwellTimer = { s.spray with wheelSpeed := v }.dwellStep.dwellTimer := by
  unfold sprayTakesSpeed
  rw [evaluateZones_spray]
  exact ⟨Spray.dwellStep_wheelSpeed _, rfl, rfl⟩

/-- R150: with an arm down the pulses of the newest gate are swept. -/
theorem Water.sweep_down {w : Water} {p : Nat} (hp : 0 < p) (h : ∃ a, w.armDown.get a = true) (n : Nat) : w.sweep n p =
    { w with sweptPulses := (w.sweptPulses + n) % p, swept := min (w.swept + (w.sweptPulses + n) / p) 4294967295 } := by
  have any : PerArm.anySet w.armDown = true := by
    obtain ⟨a, ha⟩ := h
    unfold PerArm.anySet
    cases a with
    | l => rw [show w.armDown.l = true from ha]; rfl
    | r => rw [show w.armDown.r = true from ha, Bool.or_true]; rfl
    | c => rw [show w.armDown.c = true from ha, Bool.or_true]
  unfold Water.sweep
  rw [if_pos (by rw [any, decide_eq_true hp]; rfl)]
  rfl

theorem Water.sweep_unwritten (w : Water) (n : Nat) : w.sweep n 0 = w := if_neg (by simp)

/-! ## The four blocks (R77) -/

/-- What the blocks hold once they have taken a published wheel speed, with no reaction bound and no reset pending. -/
structure Published (v : Int) (n : Nat) (s t : State) : Prop extends EndKept s t where
  travel : t.travel = Travel.testOverspeed (Travel.endStop { s.travel with wheelSpeed := v })
  arms : ∀ a, t.arm a = (s.arm a).takesSpeed v s.item
  speed : t.spray.wheelSpeed = v
  dwell : t.spray.dwell = { s.spray with wheelSpeed := v }.dwellStep.dwell
  dwellTimer : t.spray.dwellTimer = { s.spray with wheelSpeed := v }.dwellStep.dwellTimer
  water : t.water = s.water.sweep n (s.item 1)

theorem publishWheel_published {s : State} (hn : NoReactions s) (hp : s.supervision.pendingReset = none) (v : Int) (n : Nat) :
    Published v n s (publishWheel v n s) := by
  unfold publishWheel
  dsimp only
  rw [travelTakesSpeed_plain hn hp]
  generalize inTurn : Arm.list.foldl (fun t a => armTakesSpeed v a t) _ = u
  obtain ⟨arms, travel, spray, units⟩ := armsTakeSpeed_posts inTurn
  have sprayed := arms.trans (sprayTakesSpeed_posts v u)
  have rest := evaluateZones_rest (u.modSpray fun p => { p with wheelSpeed := v }.dwellStep)
  obtain ⟨speed, dwell, timer⟩ := sprayTakesSpeed_spray v u
  rw [spray] at dwell timer
  exact
    { toEndKept := ⟨sprayed.reactions, sprayed.supervision, sprayed.reset, sprayed.blocked, sprayed.reached⟩
      travel := rest.1.trans travel
      arms := fun a => (congrArg (PerArm.get · a) rest.2.1).trans (units a)
      speed := speed
      dwell := dwell
      dwellTimer := timer
      water := congrArg (Water.sweep · n (s.item 1)) sprayed.water }

section
variable {v : Int} {n : Nat} {s w : State} (h : Published v n s w)
include h

/-- Every arm's outputs are those of its state, after the grants too (R111, R131). -/
theorem Published.commands (hn : NoReactions s) (hq : Quiet s) (a : Arm) : ((finish w).arm a).Commands (s.item 12) := by
  have before : w.armsCommand := fun b => by
    rw [h.arms, h.item]
    exact (ArmUnit.takesSpeed_spec _ _ _).1
  have item : (finish w).item 12 = s.item 12 :=
    (congrArg (fun v => (Supervision.item v 12).getD 0) (h.ended hn hq).supervision).trans (h.item 12)
  rw [← item]
  exact h.finish armsCommand_grantProof hn hq before a

variable {t : State} (e : Ended w t)
include e

theorem Published.travel_speed : t.travel.wheelSpeed = v := by
  rw [congrArg Travel.wheelSpeed e.travel, h.travel]
  exact (Travel.testOverspeed_wheelSpeed _).trans (Travel.endStop_wheelSpeed _)

theorem Published.travel_state : t.travel.state =
    if s.travel.state = .stopping ∧ s.travel.setpoint = 0 ∧ v = 0 then
      (if s.travel.safeStop || s.travel.resetPending then .parked else .hold)
    else s.travel.state := by
  rw [congrArg Travel.state e.travel, h.travel]
  exact (Travel.testOverspeed_state _).trans (Travel.endStop_state _)

/-- R107: the overspeed test on the published speed. -/
theorem Published.overspeed (moves : t.travel.state ≠ .parked) :
    (0 < v ∧ 20 < v - s.travel.setpoint.tdiv 100 → t.travel.overspeedExpired = s.travel.overspeedExpired ∧
      t.travel.overspeedTimer = if s.travel.overspeedTimer.isRunning || s.travel.overspeedExpired then s.travel.overspeedTimer
        else .running 1000) ∧
    (¬(0 < v ∧ 20 < v - s.travel.setpoint.tdiv 100) → t.travel.overspeedExpired = false ∧
      t.travel.overspeedTimer = .stopped) := by
  have kept : t.travel.state = w.travel.state ∧ t.travel.overspeedTimer = w.travel.overspeedTimer ∧
      t.travel.overspeedExpired = w.travel.overspeedExpired := by
    rw [e.travel]
    exact ⟨rfl, rfl, rfl⟩
  obtain ⟨state, timer, expired⟩ := kept
  rw [state, h.travel, Travel.testOverspeed_state] at moves
  obtain ⟨setpoint, timer', expired'⟩ := Travel.endStop_speeds moves
  have tested := Travel.testOverspeed_moves moves
  rw [setpoint, timer', expired', Travel.endStop_wheelSpeed] at tested
  rw [timer, expired, h.travel]
  exact tested

theorem Published.arm (a : Arm) : (t.arm a).wheelSpeed = v ∧ (t.arm a).state = (s.arm a).state ∧
    ((s.arm a).sub = .awaitingSpeed → v.natAbs ≤ s.item 7 →
      (t.arm a).sub ≠ .awaitingSpeed ∧ (t.arm a).liftPosted = true) ∧
    ((s.arm a).sub = .awaitingSpeed → s.item 7 < v.natAbs →
      (t.arm a).sub = .awaitingSpeed ∧ (t.arm a).liftPosted = (s.arm a).liftPosted) := by
  obtain ⟨-, state, speed, slow, fast⟩ := ArmUnit.takesSpeed_spec (s.arm a) v s.item
  rw [← h.arms a] at state speed slow fast
  have kept : (t.arm a).wheelSpeed = (w.arm a).wheelSpeed ∧ (t.arm a).state = (w.arm a).state ∧
      (t.arm a).liftPosted = (w.arm a).liftPosted := by
    rw [e.arms a]
    exact ⟨rfl, rfl, rfl⟩
  obtain ⟨speed', state', posted⟩ := kept
  refine ⟨speed'.trans speed, state'.trans state, fun awaits le => ?_, fun awaits lt => ?_⟩
  · obtain ⟨sub, lift⟩ := slow awaits le
    exact ⟨fun still => absurd ((e.waits a).mp still) (by rw [sub]; exact nofun), posted.trans lift⟩
  · obtain ⟨sub, lift⟩ := fast awaits lt
    exact ⟨(e.waits a).mpr sub, posted.trans lift⟩

theorem Published.spray : t.spray.wheelSpeed = v ∧ t.spray.dwell = { s.spray with wheelSpeed := v }.dwellStep.dwell ∧
    t.spray.dwellTimer = { s.spray with wheelSpeed := v }.dwellStep.dwellTimer := by
  rw [e.spray]
  exact ⟨h.speed, h.dwell, h.dwellTimer⟩

/-- R150: the account sweeps the newest count while an arm is down. -/
theorem Published.sweeps :
    (∀ p, s.item? 1 = some p → 0 < p → (∃ a, s.water.armDown.get a = true) → t.water = { s.water with
      sweptPulses := (s.water.sweptPulses + n) % p
      swept := min (s.water.swept + (s.water.sweptPulses + n) / p) 4294967295 }) ∧
    (s.item? 1 = none ∨ (∀ a, s.water.armDown.get a = false) → t.water = s.water) := by
  rw [e.water, h.water]
  refine ⟨fun p written pos down => ?_, fun stands => ?_⟩
  · rw [show s.item 1 = p from congrArg (Option.getD · 0) written]
    exact Water.sweep_down pos down n
  · rcases stands with unwritten | up
    · rw [show s.item 1 = 0 from congrArg (Option.getD · 0) unwritten]
      exact Water.sweep_unwritten _ _
    · exact Water.sweep_none up _ _

end

/-! ## A brush takes its speed (R132) -/

theorem ArmUnit.stallTest_eq (u : ArmUnit) (brushMax stallTime : Nat) : u.stallTest brushMax stallTime =
    if 0 < u.rotTarget ∧ u.brushSpeed * 400 < u.rotTarget * brushMax then
      { u with stallTimer := if u.stallTimer.isRunning || u.stallExpired then u.stallTimer else .running stallTime }
    else { u with stallTimer := .stopped, stallExpired := false } := by
  unfold ArmUnit.stallTest ArmUnit.stalling
  simp only [Bool.and_eq_true, decide_eq_true_eq]
  split
  · split <;> rfl
  · rfl

/-- A brush gate's end is a stall test and no more: nothing is left to the end of the event. -/
theorem finish_gateExpiry_brush {s : State} (h : workClear s) (a : Arm) : (finish (gateExpiry (.brush a) s)).arm a =
    { s.arm a with brushSpeed := (s.gateCapture (.brush a)).brushSpeed.get a }.stallTest (s.item 10) (s.item 13) := by
  have clear : (gateExpiry (.brush a) s).work = Work.clear := h
  rw [finish_clear clear, gateExpiry_brush, ← gateCapture_brushSpeed]
  exact (State.arm_modArm _ _ _ _).trans (if_pos rfl)

/-! ## Settled: GATE_EXPIRY -/

theorem finish_gateExpiry (ch : Channel) {s : State} (hq : Quiet s) : Untouched s (finish (gateExpiry ch s)) ∧
    (finish (gateExpiry ch s)).capture = s.gateCapture ch ∧ (finish (gateExpiry ch s)).switches = s.switches := by
  obtain ⟨untouched, capture, switches⟩ := (gateExpiry_cascade ch s).finish_untouched hq.noReset (congrArg Work.reset hq.work)
  have alone : Untouched s (s.gated ch) := ⟨rfl, rfl, rfl, rfl, rfl, rfl, rfl, rfl, rfl, rfl, rfl⟩
  exact ⟨alone.trans untouched, capture, switches⟩

/-- Settles O33: the window and the values are the channel's own; a WHEEL gate's end publishes to the four blocks, a brush
gate's to its arm. -/
theorem gateExpiryPublishesTheMeasure : Obligations.GateExpiryPublishesTheMeasure := by
  intro ch s hq due c gate d sum
  obtain ⟨untouched, capture, switches⟩ := finish_gateExpiry ch hq
  have closed : c.close gate = d := CaptureChannel.close_eq c gate
  have interval : d.interval = gate := closed ▸ CaptureChannel.close_interval c gate
  obtain ⟨direction, wheelStands, flowStands, brushStands⟩ := gateCapture_values s ch
  refine ⟨_, exec_gateExpiry due, untouched, switches, ?_⟩
  rw [capture]
  refine ⟨(gateCapture_channel s ch).trans closed, fun k hk => gateCapture_others s hk, direction, wheelStands, flowStands,
    brushStands, fun wheel => ?_, fun a brush => ?_, fun flow => ?_⟩
  · subst wheel
    have speed : (s.gateCapture .wheel).wheelSpeed = wheelSpeedOf d s.capture.direction (s.item? 1) :=
      congrArg (wheelSpeedOf · s.capture.direction (s.item? 1)) closed
    refine ⟨fun rest => ?_, fun p written pulses => ?_, fun hn => ?_⟩
    · rw [speed, wheelSpeedOf_eq, measured_rest (c := d) rest]
      exact Int.mul_zero _
    · rw [speed, wheelSpeedOf_eq, written, measured_pulses (c := d) pulses, interval]
      rfl
    · have quiet : Quiet (s.gated .wheel) := ⟨hq.work, hq.noReset⟩
      have published := publishWheel_published (s := s.gated .wheel) hn hq.noReset (s.gateCapture .wheel).wheelSpeed
        (s.gateCapture .wheel).wheel.newest
      rw [gateExpiry_wheel]
      have ended := published.ended hn quiet
      have newest : (s.gateCapture .wheel).wheel.newest = d.newest := congrArg CaptureChannel.newest closed
      obtain ⟨sprayed, dwell, timer⟩ := published.spray ended
      obtain ⟨sweeps, sweptStands⟩ := published.sweeps ended
      obtain ⟨stands, moves⟩ := Spray.dwellStep_spec s.spray (s.gateCapture .wheel).wheelSpeed
      refine ⟨published.travel_speed ended, sprayed, published.travel_state ended, published.overspeed ended, fun a => ?_,
        fun still => ?_, fun rolls => ?_, fun p written pos down => ?_, sweptStands⟩
      · obtain ⟨heard, state, slow, fast⟩ := published.arm ended a
        exact ⟨heard, state, published.commands hn quiet a, slow, fast⟩
      · rw [dwell, timer]
        exact stands still
      · rw [dwell, timer]
        exact moves rolls
      · rw [sweeps p written pos down, newest]
        rfl
  · subst brush
    have speed : (s.gateCapture (.brush a)).brushSpeed.get a = brushSpeedOf d (s.item? 11) :=
      (gateCapture_brushSpeed s a).trans (congrArg (brushSpeedOf · (s.item? 11)) closed)
    refine ⟨fun rest => ?_, fun n written pulses => ?_, fun stalls => ?_, fun turns => ?_⟩
    · rw [speed, brushSpeedOf, measured_rest (c := d) rest]
      rfl
    · rw [speed, brushSpeedOf, written, measured_pulses (c := d) pulses, interval]
      rfl
    · rw [finish_gateExpiry_brush hq.work, ArmUnit.stallTest_eq]
      exact if_pos stalls
    · rw [finish_gateExpiry_brush hq.work, ArmUnit.stallTest_eq]
      exact if_neg turns
  · subst flow
    have measure : (s.gateCapture .flow).waterFlow = waterFlowOf d (s.item? 24) :=
      congrArg (waterFlowOf · (s.item? 24)) closed
    refine ⟨fun rest => ?_, fun n written pulses => ?_⟩
    · rw [measure, waterFlowOf, measured_rest (c := d) rest]
    · rw [measure, waterFlowOf, written, measured_pulses (c := d) pulses, interval]
      rfl

end Sys2Proof.Machine
end

section
/-! PROOFS. The sentences of the laws, one ramp step, and the ramp expiry. -/

namespace Sys2Proof.Machine

set_option Elab.async false

/-! ## The laws over the arms themselves (R106, R121, R137, R178, R182) -/

/-- With no copy of an arm but STOWED, the arms are STOWED (R106, R112). -/
theorem Lawful.stowed_of_reverse {s : State} (h : Lawful s) (hp : s.travel.setpoint < 0) (a : Arm) :
    (s.arm a).state = .stowed := by
  obtain ⟨opens, stowed⟩ := h.setpoint
  have copied := (h.copies .travel a).1
  rw [(PerArm.allSet_iff _).1 (stowed (opens hp)) a] at copied
  exact beq_iff_eq.1 copied.symm

theorem ArmUnit.lawful.not_both {u : ArmUnit} (h : u.lawful) : ¬(u.liftDownOpen = true ∧ u.liftUpOpen = true) := by
  rintro ⟨down, up⟩
  obtain ⟨lowers, raises, -⟩ := h
  exact nomatch (lowers down).1.symm.trans (raises up).1

theorem Lawful.valve_open {s : State} (h : Lawful s) {z : Zone} (hv : s.spray.valves.get z = true) :
    s.water.state ≠ .empty ∧ s.switches.frost.level = false ∧ s.supervision.safeStop = false ∧
      ∀ a, z.arm = some a → (s.arm a).state = .working := by
  obtain ⟨open_on, allowed⟩ := h.valves z
  obtain ⟨water, frost, stop, arm⟩ := allowed (open_on hv)
  refine ⟨h.waterCopy.1 ▸ water, h.frostCopy ▸ frost, h.safeStop.2.1 ▸ stop, fun a ha => ?_⟩
  exact ((h.copies .spray a : s.spray.armState.get a = _)).symm.trans (arm a ha)

theorem Lawful.idle_of_uncommitted {s : State} (h : Lawful s) (hc : s.supervision.committed = false) :
    s.travel.state = .parked ∧ ∀ a, (s.arm a).state.lowered = false := by
  have closed : s.supervision.mode ≠ .operational := fun e => by
    rw [h.commission.1 e] at hc
    exact nomatch hc
  obtain ⟨parked, -, -, arms⟩ := h.idle closed
  exact ⟨parked, arms⟩

/-- Settles O6: each sentence from the law of its block and the copies that agree with the arms. -/
theorem lawsGiveTheSpecsSentences : Obligations.LawsGiveTheSpecsSentences := by
  intro s h
  refine ⟨h.stowed_of_reverse, fun a => (h.outputs a).not_both, fun z a hv => ?_, fun stopped => ⟨fun z => ?_, ?_⟩,
    fun hc => ?_⟩
  · obtain ⟨water, frost, stop, arm⟩ := h.valve_open hv
    exact ⟨water, frost, stop, arm a⟩
  · by_contra hv
    obtain ⟨-, -, running, -⟩ := h.valve_open (Bool.not_eq_false _ ▸ hv)
    exact nomatch stopped.symm.trans running
  · exact (h.safeStop.1 stopped).2
  · obtain ⟨parked, arms⟩ := h.idle_of_uncommitted hc
    refine ⟨parked, fun a => ⟨?_, ?_, ?_⟩⟩ <;> intro e <;> exact nomatch (arms a).symm.trans (congrArg ArmState.lowered e)

/-! ## One ramp step (R92) -/

/-- The step's branches, by the sign of the setpoint. -/
theorem rampStep_of_pos {p : Int} (h : 0 < p) (t a d : Int) :
    rampStep p t a d = if p ≤ t then min t (p + a) else max (max t 0) (p - d) := if_pos h

theorem rampStep_of_neg {p : Int} (h : p < 0) (t a d : Int) :
    rampStep p t a d = if t ≤ p then max t (p - a) else min (min t 0) (p + d) := by
  rw [rampStep, if_neg (by omega), if_pos h]

theorem rampStep_of_zero (t a d : Int) : rampStep 0 t a d = if 0 ≤ t then min t a else max t (-a) := rfl

/-- Settles O38, by the sign of the setpoint. -/
theorem rampStepMovesTowardTheTarget : Obligations.RampStepMovesTowardTheTarget := by
  intro p t a d ha hd
  rcases lt_trichotomy p 0 with hp | rfl | hp
  · rw [rampStep_of_neg hp]
    split <;> omega
  · rw [rampStep_of_zero]
    split <;> omega
  · rw [rampStep_of_pos hp]
    split <;> omega

end Sys2Proof.Machine
end

section
/-! PROOFS. SET_TRAVEL. -/

namespace Sys2Proof.Machine

set_option Elab.async false

/-! ## SET_TRAVEL (R90, R91, R106) -/

/-- The table of R90: by state and value the TG after the demand, none where it is refused. -/
theorem Travel.takeDemand_table (g : Travel) (v : Int) :
    (g.state = .stopping ∨ g.state = .parked ∧ v ≠ 0 → g.takeDemand v = none) ∧
    (g.state = .parked → v = 0 → g.takeDemand v = some { g with demand := 0, state := .parked }) ∧
    (g.state = .hold → v = 0 → g.takeDemand v = some { g with demand := g.demand, state := .hold }) ∧
    (g.state = .hold → v ≠ 0 → g.takeDemand v = some { g with demand := v, state := .drive }) ∧
    (g.state = .drive → v = 0 → g.setpoint = 0 → g.takeDemand v = some { g with demand := 0, state := .hold }) ∧
    (g.state = .drive → v = 0 → g.setpoint ≠ 0 → g.takeDemand v = some { g with demand := 0, state := .drive }) ∧
    (g.state = .drive → v ≠ 0 → g.takeDemand v = some { g with demand := v, state := .drive }) := by
  obtain ⟨state⟩ := g
  refine ⟨?_, ?_, ?_, ?_, ?_, ?_, ?_⟩
  · rintro (rfl | ⟨rfl, moves⟩)
    · rfl
    · exact if_neg moves
  · rintro rfl rfl
    rfl
  · rintro rfl rfl
    rfl
  · rintro rfl moves
    exact if_neg moves
  · rintro rfl rfl rfl
    rfl
  · rintro rfl rfl rolls
    exact congrArg (fun st => some (Travel.mk st ..)) (if_neg rolls)
  · rintro rfl moves
    exact if_neg moves

section Owner

variable {raise : Raiser} {l : Station} {ps : List Byte} {s : State}

theorem setTravelOwner_badParam (h : signedAt ps 0 < -250 ∨ 250 < signedAt ps 0) :
    setTravelOwner raise l ps s = ⟨.badParam, .none, s⟩ := if_pos h

theorem setTravelOwner_refused (h : ¬(signedAt ps 0 < -250 ∨ 250 < signedAt ps 0))
    (hg : s.travel.takeDemand (signedAt ps 0) = none) : setTravelOwner raise l ps s = ⟨.refusedState, .none, s⟩ := by
  unfold setTravelOwner
  rw [if_neg h, hg]
  rfl

theorem setTravelOwner_accepts (h : ¬(signedAt ps 0 < -250 ∨ 250 < signedAt ps 0)) {g : Travel}
    (hg : s.travel.takeDemand (signedAt ps 0) = some g) : setTravelOwner raise l ps s =
      ⟨.ok, .travelSet g.demand (toCounts { s with travel := g }.rampTarget),
        blockReverse raise (signedAt ps 0) { s with travel := g }⟩ := by
  unfold setTravelOwner
  rw [if_neg h, hg]
  rfl

end Owner

/-- A demand accepted with an answer of d and target: the TG's demand and state are set, and a negative demand under a
closed reverse ceiling is REVERSE_BLOCKED (R90, R106). -/
def TravelAccepted (l : Station) (tag : Byte) (ps : List Byte) (s : State) (d : Int) (st : TravelState) (target : Int) : Prop :=
  ∃ t, exec (.setTravel l tag ps) s = .next t ∧ Served Form.setTravel l tag ps .ok (.travelSet d target) s t ∧
    let u := { replied Form.setTravel l tag ps .ok (.travelSet d target) s with
      travel := { s.travel with demand := d, state := st } }
    (¬(signedAt ps 0 < 0 ∧ s.reverseCeiling = 0) → t = u) ∧
    (signedAt ps 0 < 0 → s.reverseCeiling = 0 → NoReactions s → t = deliver
      ⟨.none, .reverseBlocked (signedAt ps 0) (s.travel.armStowed.map (!·)), s.time, .every none⟩ none u)

theorem Served.of_kept {f : Form} {l : Station} {tag : Byte} {ps : List Byte} {st : Status} {d : Payload} {s t : State}
    (kept : Kept s t) (links : t.links = linksAfter f l tag ps st d s) (attendance : t.attendance = unprepared l s)
    (claims : t.claims = s.claims) (draft : t.profile.draft = s.profile.draft) : Served f l tag ps st d s t :=
  { kept with links, attendance, claims, draft }

section Exec

variable {l : Station} {tag : Byte} {ps : List Byte} {s : State} (sent : Sent Form.setTravel l ps s)
  (holds : (s.claims.get .travel).holder = some l) (quiet : Quiet s)
include sent holds quiet

/-- SET_TRAVEL answered with nothing else changed. -/
theorem exec_setTravel_refused {st : Status}
    (ho : setTravelOwner raiseFactor l ps (heard Form.setTravel l tag ps s) = ⟨st, .none, heard Form.setTravel l tag ps s⟩) :
    exec (.setTravel l tag ps) s = .next (replied Form.setTravel l tag ps st .none s) := by
  have answer := (claimTest_heard (k := setTravelOwner raiseFactor)).trans ((if_pos holds).trans ho)
  exact congrArg Host.Outcome.next (serveEvent_done (owner := fun raise => claimTest .travel (setTravelOwner raise))
    sent tag answer rfl quiet.work)

/-- SET_TRAVEL accepted, from the demand the TG takes (R90). -/
theorem exec_setTravel_accepts (range : ¬(signedAt ps 0 < -250 ∨ 250 < signedAt ps 0)) {d target : Int} {st : TravelState}
    (hg : s.travel.takeDemand (signedAt ps 0) = some { s.travel with demand := d, state := st })
    (ht : toCounts { s with travel := { s.travel with demand := d, state := st } }.rampTarget = target) :
    TravelAccepted l tag ps s d st target := by
  subst ht
  have answer := (claimTest_heard (tag := tag) (k := setTravelOwner raiseFactor)).trans ((if_pos holds).trans
    (setTravelOwner_accepts range (s := heard Form.setTravel l tag ps s) hg))
  by_cases blocked : signedAt ps 0 < 0 ∧ s.reverseCeiling = 0
  · obtain ⟨t, ht, kept, attendance, links, claims, draft, plain⟩ := serveEvent_raises (tag := tag)
      (owner := fun raise => claimTest .travel (setTravelOwner raise)) sent quiet
      (answer.trans (congrArg (Answer.mk _ _) (if_pos blocked))) { heard_kept Form.setTravel l tag ps s with } rfl rfl rfl rfl
    exact ⟨t, congrArg Host.Outcome.next ht, .of_kept kept links attendance claims draft,
      fun allowed => absurd blocked allowed, fun _ _ hn => plain hn⟩
  · have done := serveEvent_done (owner := fun raise => claimTest .travel (setTravelOwner raise)) sent tag
      (answer.trans (congrArg (Answer.mk _ _) (if_neg blocked))) rfl quiet.work
    exact ⟨_, congrArg Host.Outcome.next done, .of_kept { heard_kept Form.setTravel l tag ps s with } rfl rfl rfl rfl,
      fun _ => rfl, fun neg closed => absurd ⟨neg, closed⟩ blocked⟩

end Exec

/-- Settles O37, along the table of R90: the range, then the TG's state, then the value. -/
theorem setTravelSetsTheDemand : Obligations.SetTravelSetsTheDemand := by
  intro l tag ps s sent holds quiet v reverse target accepted
  refine ⟨fun bad => exec_setTravel_refused sent holds quiet (setTravelOwner_badParam bad), fun low high => ?_⟩
  have range : ¬(v < -250 ∨ 250 < v) := by omega
  obtain ⟨refuses, parkedStands, holdStands, holdMoves, driveRests, driveSlows, driveMoves⟩ := s.travel.takeDemand_table v
  have accepts := fun {d aim : Int} {st : TravelState} => exec_setTravel_accepts (tag := tag) sent holds quiet range (d := d)
    (target := aim) (st := st)
  have drives : toCounts { s with travel := { s.travel with demand := v, state := .drive } }.rampTarget = target :=
    toCounts_rampTarget _
  exact ⟨fun h => exec_setTravel_refused sent holds quiet
      (setTravelOwner_refused range (s := heard Form.setTravel l tag ps s) (refuses h)),
    fun parked zero => accepts (parkedStands parked zero) (toCounts_rampTarget _),
    fun hold zero => accepts (holdStands hold zero) (toCounts_rampTarget _),
    fun hold moves => accepts (holdMoves hold moves) drives,
    fun drive zero rest => accepts (driveRests drive zero rest) (toCounts_rampTarget _),
    fun drive zero rolls => accepts (driveSlows drive zero rolls) (zero ▸ drives),
    fun drive moves => accepts (driveMoves drive moves) drives⟩

end Sys2Proof.Machine
end

section
/-! PROOFS. The ramp expiry. -/

namespace Sys2Proof.Machine

set_option Elab.async false

/-! ## Completions reach the reaction table and the notices alone (R177) -/

theorem completeWith_told (e : EntryNo) (o : ActionOutcome) (z : ZoneSet) (s : State) :
    ∃ r n, completeWith e o z s = { s with reactions := r, notices := n } := by
  unfold completeWith release
  split
  · exact ⟨_, _, rfl⟩
  · split <;> exact ⟨_, _, rfl⟩

theorem foldl_complete_told (l : List EntryNo) (o : ActionOutcome) (s : State) :
    ∃ r n, l.foldl (fun t e => complete e o t) s = { s with reactions := r, notices := n } := by
  induction l generalizing s with
  | nil => exact ⟨_, _, rfl⟩
  | cons e l ih =>
    obtain ⟨r, n, h⟩ := completeWith_told e o (.all false) s
    obtain ⟨r', n', h'⟩ := ih (complete e o s)
    refine ⟨r', n', h'.trans ?_⟩
    rw [complete, h]

theorem completeAll_told (p : Action → Bool) (o : ActionOutcome) (s : State) :
    ∃ r n, completeAll p o s = { s with reactions := r, notices := n } := foldl_complete_told _ _ _

theorem capTest_told (s : State) : ∃ r n, capTest s = { s with reactions := r, notices := n } := foldl_complete_told _ _ _

/-! ## The ramp expiry (R91 to R97) -/

/-- STOPPING at rest (R97). -/
def Travel.atStop (g : Travel) : Bool := g.state == .stopping && g.setpoint == 0 && g.wheelSpeed == 0

theorem Travel.atStop_iff (g : Travel) :
    g.atStop = true ↔ g.state = .stopping ∧ g.setpoint = 0 ∧ g.wheelSpeed = 0 := by
  simp [Travel.atStop, and_assoc]

theorem Travel.endStop_eq (g : Travel) : g.endStop =
    if g.atStop then
      if g.safeStop || g.resetPending then { g.park with causes := StopCauses.empty }
      else { g with state := .hold, causes := StopCauses.empty }
    else g := by
  simp only [Travel.atStop_iff]
  rfl

/-- The end of STOPPING with no settled reset pending: the TG's end, and the STOP_TRAVEL actions completed (R97, R105). -/
theorem stopTest_completes {s : State} (hp : s.supervision.pendingReset = none) : stopTest s =
    if s.travel.atStop then completeAll (· == .stopTravel) .stopped (s.modTravel Travel.endStop) else s := by
  have unfolded : stopTest s = if s.travel.atStop then
      if s.travel.safeStop || s.travel.resetPending then
        settledTest (completeAll (· == .stopTravel) .stopped
          (s.modTravel fun g => { g.park with causes := StopCauses.empty }))
      else completeAll (· == .stopTravel) .stopped (s.modTravel fun g => { g with state := .hold, causes := StopCauses.empty })
    else s := rfl
  rw [unfolded]
  cases stops : s.travel.atStop
  · rfl
  · have ends := (Travel.endStop_eq s.travel).trans (if_pos stops)
    rw [if_pos rfl, if_pos rfl, show s.modTravel Travel.endStop = { s with travel := s.travel.endStop } from rfl, ends]
    cases s.travel.safeStop || s.travel.resetPending
    · rfl
    · rw [if_pos rfl, if_pos rfl, settledTest_none]
      · rfl
      · obtain ⟨r, n, told⟩ := completeAll_told (· == .stopTravel) .stopped
          (s.modTravel fun g => { g.park with causes := StopCauses.empty })
        rw [told]
        exact hp

/-- Step 4 of R91: from DRIVE at rest to HOLD, or the end of STOPPING (R93, R97). -/
def Travel.rampEnd (g : Travel) : Travel :=
  if g.state = .drive ∧ g.setpoint = 0 ∧ g.demand = 0 then { g with state := .hold } else g.endStop

theorem rampState_completes {s : State} (hp : s.supervision.pendingReset = none) : rampState s =
    if s.travel.atStop then completeAll (· == .stopTravel) .stopped (s.modTravel Travel.rampEnd)
    else s.modTravel Travel.rampEnd := by
  unfold rampState
  by_cases rests : s.travel.state = .drive ∧ s.travel.setpoint = 0 ∧ s.travel.demand = 0
  · have notStop : s.travel.atStop = false := by simp [Travel.atStop, rests.1]
    rw [if_pos (by simp [rests]), notStop, if_neg (by decide), State.modTravel, State.modTravel, Travel.rampEnd, if_pos rests]
  · have ends : s.travel.rampEnd = s.travel.endStop := if_neg rests
    rw [if_neg (by simpa [and_assoc] using rests), stopTest_completes hp, State.modTravel, State.modTravel, ends]
    cases stops : s.travel.atStop
    · rw [if_neg (by decide), if_neg (by decide), Travel.endStop_eq, stops, if_neg (by decide)]
    · rfl

/-- Steps 1 to 3 of R91 on the TG's record: the timer reloaded, setpoint, trim and displacement. -/
def Travel.rampMoved (g : Travel) (p trim : Int) (full : Nat) : Travel :=
  { g with rampTimer := .running 10, setpoint := p, trim := trim }.command (displacement p trim full)

/-- The setpoint and the trim after the expiry (R92, R94). -/
def State.rampSetpoint (s : State) : Int := rampStep s.travel.setpoint s.rampTarget (s.item 5) (s.item 6)
def State.rampTrim (s : State) : Int := trimStep s.travel.trim s.rampSetpoint s.travel.wheelSpeed
def State.rampTravel (s : State) : Travel := s.travel.rampMoved s.rampSetpoint s.rampTrim (s.item 4)

/-- The ramp expiry with no settled reset pending (R91). -/
theorem rampExpiry_completes {s : State} (hp : s.supervision.pendingReset = none) :
    rampExpiry s = capTest (overspeedTest
      (if s.rampTravel.atStop then
        completeAll (· == .stopTravel) .stopped { s with travel := s.rampTravel.rampEnd }
      else { s with travel := s.rampTravel.rampEnd })) :=
  congrArg (fun t => capTest (overspeedTest t)) (rampState_completes (s := { s with travel := s.rampTravel }) hp)

/-- The ramp expiry moves the TG and, by completions, the reaction table and the notices. -/
theorem rampExpiry_told {s : State} (hp : s.supervision.pendingReset = none) : ∃ r n, rampExpiry s =
    { s with travel := s.rampTravel.rampEnd.testOverspeed, reactions := r, notices := n } := by
  have stopped : ∃ r n, (if s.rampTravel.atStop then
      completeAll (· == .stopTravel) .stopped { s with travel := s.rampTravel.rampEnd }
      else { s with travel := s.rampTravel.rampEnd }) =
      { s with travel := s.rampTravel.rampEnd, reactions := r, notices := n } := by
    split
    · exact completeAll_told _ _ _
    · exact ⟨_, _, rfl⟩
  obtain ⟨r, n, stopped⟩ := stopped
  rw [rampExpiry_completes hp, stopped]
  exact capTest_told _

theorem exec_rampTimerExpiry {s : State} (hq : Quiet s) (due : s.travel.rampTimer = .running 0) :
    exec .rampTimerExpiry s = .next (rampExpiry s) := by
  obtain ⟨r, n, told⟩ := rampExpiry_told hq.noReset
  have clear : (rampExpiry s).work = Work.clear := by
    rw [told]
    exact hq.work
  refine congrArg Host.Outcome.next ((if_pos (Timer.due_of_running_zero due)).trans ?_)
  exact finish_clear clear

/-! ## The record after the expiry -/

theorem Travel.testOverspeed_rest (g : Travel) : ∃ x y, g.testOverspeed =
    { g with overspeedTimer := x, overspeedExpired := y } := by
  unfold Travel.testOverspeed
  split
  · exact ⟨_, _, rfl⟩
  · split
    · split
      · exact ⟨_, _, rfl⟩
      · exact ⟨_, g.overspeedExpired, rfl⟩
    · exact ⟨_, _, rfl⟩

theorem State.rampTarget_eq (s : State) : s.rampTarget = if s.travel.state = .drive then
    (if 0 ≤ s.travel.demand then min s.travel.demand s.travel.ceiling
      else max s.travel.demand (-(s.reverseCeiling : Int))) * 100 else 0 := by
  unfold State.rampTarget
  cases s.travel.state
  case drive => exact (ite_mul _ _ _ _).symm
  all_goals rfl

/-- Toward 0 the setpoint's magnitude does not grow (R92). -/
theorem rampStep_rest_natAbs (p : Int) (a d : Nat) : (rampStep p 0 a d).natAbs ≤ p.natAbs := by
  unfold rampStep
  split
  · split <;> omega
  · split
    · split <;> omega
    · split <;> omega

theorem displacement_eq {full : Nat} (h : 0 < full) (p trim : Int) : displacement p trim full = max (-100) (min 100
    ((if p < 0 then -((p.natAbs / full : Nat) : Int) else (p.natAbs / full : Nat)) + trim.tdiv 100)) := by
  unfold displacement
  rw [percentOf_full _ h]
  rfl

/-- The end of the ramp step leaves what it does not name; outside STOPPING at rest it leaves all but the state. -/
theorem Travel.rampEnd_moves {g : Travel} (h : g.atStop = false) : g.rampEnd =
    { g with state := if g.state = .drive ∧ g.setpoint = 0 ∧ g.demand = 0 then .hold else g.state } := by
  have stands : g.endStop = g := (Travel.endStop_eq g).trans (if_neg (by simp [h]))
  unfold Travel.rampEnd
  rw [stands]
  by_cases rests : g.state = .drive ∧ g.setpoint = 0 ∧ g.demand = 0
  · rw [if_pos rests, if_pos rests]
  · rw [if_neg rests, if_neg rests]

theorem Travel.rampEnd_stops {g : Travel} (h : g.atStop = true) : g.rampEnd =
    if g.safeStop || g.resetPending then { g.park with causes := StopCauses.empty }
    else { g with state := .hold, causes := StopCauses.empty } := by
  obtain ⟨stopping, -, -⟩ := g.atStop_iff.1 h
  unfold Travel.rampEnd
  rw [Travel.endStop_eq, if_pos h, if_neg (by simp [stopping])]

/-- STOPPING at rest ends PARKED where safe stop or a pending reset asks for it (R97, R182). -/
def Travel.parksAtStop (g : Travel) : Prop := g.atStop = true ∧ (g.safeStop = true ∨ g.resetPending = true)

/-- What step 4 of R91 leaves, whatever comes of the stop. -/
theorem Travel.rampEnd_rest (g : Travel) : g.rampEnd.setpoint = g.setpoint ∧ g.rampEnd.demand = g.demand ∧
    g.rampEnd.ceiling = g.ceiling ∧ g.rampEnd.caps = g.caps := by
  cases stops : g.atStop
  · rw [Travel.rampEnd_moves stops]
    exact ⟨rfl, rfl, rfl, rfl⟩
  · rw [Travel.rampEnd_stops stops]
    split <;> exact ⟨rfl, rfl, rfl, rfl⟩

theorem Travel.rampEnd_parks {g : Travel} (h : g.parksAtStop) :
    g.rampEnd = { g.park with causes := StopCauses.empty } := by
  obtain ⟨stops, asked⟩ := h
  rw [Travel.rampEnd_stops stops, if_pos (by simpa using asked)]

/-- Where the TG does not park, step 4 changes its state and its causes alone. -/
theorem Travel.rampEnd_goes {g : Travel} (h : ¬g.parksAtStop) : g.rampEnd =
    { g with state := g.rampEnd.state, causes := g.rampEnd.causes } ∧
    (g.atStop = true → g.rampEnd.state = .hold ∧ g.rampEnd.causes = StopCauses.empty) ∧
    (g.atStop = false → g.rampEnd.causes = g.causes ∧ g.rampEnd.state =
      if g.state = .drive ∧ g.setpoint = 0 ∧ g.demand = 0 then .hold else g.state) := by
  cases stops : g.atStop
  · rw [Travel.rampEnd_moves stops]
    exact ⟨rfl, nofun, fun _ => ⟨rfl, rfl⟩⟩
  · have unasked : (g.safeStop || g.resetPending) = false := by
      simpa [Travel.parksAtStop, stops] using h
    rw [Travel.rampEnd_stops stops, unasked, if_neg (by decide)]
    exact ⟨rfl, fun _ => ⟨rfl, rfl⟩, nofun⟩

/-- Settles O39: the moved record, then step 4 by whether STOPPING is at rest. -/
theorem rampExpiryMovesTheSetpoint : Obligations.RampExpiryMovesTheSetpoint := by
  intro s hq due reverse target p trim rest parks
  obtain ⟨r, n, told⟩ := rampExpiry_told hq.noReset
  have aim : s.rampTarget = target := s.rampTarget_eq
  have step : s.rampSetpoint = p := congrArg (rampStep s.travel.setpoint · (s.item 5) (s.item 6)) aim
  have corrected : s.rampTrim = trim := congrArg (trimStep s.travel.trim · s.travel.wheelSpeed) step
  have moved : s.rampTravel = s.travel.rampMoved p trim (s.item 4) := by rw [State.rampTravel, step, corrected]
  have resting : s.rampTravel.atStop = true ↔ rest := by rw [moved]; exact Travel.atStop_iff _
  have parking : s.rampTravel.parksAtStop ↔ parks := by rw [Travel.parksAtStop, resting, moved]; rfl
  obtain ⟨x, y, tested⟩ := s.rampTravel.rampEnd.testOverspeed_rest
  rw [tested] at told
  refine ⟨_, exec_rampTimerExpiry hq due, ?_⟩
  rw [told]
  obtain ⟨setpoint, demand, ceiling, caps⟩ := s.rampTravel.rampEnd_rest
  rw [moved] at setpoint demand ceiling caps resting parking
  rw [moved]
  have shrinks : s.travel.state ≠ .drive → p.natAbs ≤ s.travel.setpoint.natAbs := fun other => by
    have still : target = 0 := if_neg other
    rw [show p = rampStep s.travel.setpoint target (s.item 5) (s.item 6) from rfl, still]
    exact rampStep_rest_natAbs _ _ _
  have going : ¬rest → (s.travel.rampMoved p trim (s.item 4)).rampEnd.causes = s.travel.causes ∧
      (s.travel.rampMoved p trim (s.item 4)).rampEnd.state =
        if s.travel.state = .drive ∧ p = 0 ∧ s.travel.demand = 0 then .hold else s.travel.state := fun h => by
    obtain ⟨-, -, goes⟩ := Travel.rampEnd_goes fun h' => h (parking.1 h').1
    exact goes (by simpa using mt resting.1 h)
  refine ⟨⟨rfl, rfl, rfl, rfl, rfl, rfl, rfl, rfl, rfl, rfl, rfl⟩, rfl, rfl, rfl, rfl, rfl, rfl, rfl, rfl, setpoint, demand,
    ceiling, caps, fun h => ?_, fun h => ?_, fun h hp => ?_, fun drive zero idle => ?_, fun drive moves => ?_,
    fun hold => ?_, fun stopping rolls => ?_, fun other => ?_⟩
  · rw [Travel.rampEnd_parks (parking.2 h)]
    exact ⟨rfl, rfl, rfl, rfl, rfl, rfl, rfl⟩
  · obtain ⟨goes, -, -⟩ := Travel.rampEnd_goes (mt parking.1 h)
    rw [goes]
    refine ⟨rfl, rfl, rfl, fun full written pos => ?_⟩
    have item : s.item 4 = full := congrArg (Option.getD · 0) written
    have d := displacement_eq pos p trim
    rw [item]
    exact ⟨congrArg Int.toNat d, congrArg (fun d => (-d).toNat) d⟩
  · obtain ⟨-, ends, -⟩ := Travel.rampEnd_goes (mt parking.1 hp)
    exact ends (resting.2 h)
  · exact (going fun h => nomatch drive.symm.trans h.1).2.trans (if_pos ⟨drive, zero, idle⟩)
  · exact ((going fun h => nomatch drive.symm.trans h.1).2.trans (if_neg fun h => moves h.2)).trans drive
  · exact ((going fun h => nomatch hold.symm.trans h.1).2.trans (if_neg (by simp [hold]))).trans hold
  · obtain ⟨causes, state⟩ := going rolls
    exact ⟨(state.trans (if_neg (by simp [stopping]))).trans stopping, causes⟩
  · exact (congrArg Int.natAbs setpoint).trans_le (shrinks other)

end Sys2Proof.Machine
end

section
/-! PROOFS. Raises that no entry takes, the ceiling recomputed at the end of an event, and the ceiling's timers. -/

namespace Sys2Proof.Machine

set_option Elab.async false

/-! ## The lowest source (R99) -/

/-- One source against the best of those behind it in R99's table. -/
def CeilingSource.against (c : CeilingSource) (v : SourceView) (best : Nat × CeilingSource) : Nat × CeilingSource :=
  if v.inForce && decide (v.value ≤ best.1) then (v.value, c) else best

theorem lowestSource_eq (s : State) : s.lowestSource =
    CeilingSource.cap.against s.capSource (CeilingSource.dry.against s.drySource (CeilingSource.flow.against s.flowSource
      (CeilingSource.armMotion.against s.motionSource (CeilingSource.maximum.against s.maximumSource
        (s.profileSource.value, .profile))))) := rfl

/-- A value and a source that are the lowest in force of a table, the first of those with that value. -/
def IsLowest (views : List (CeilingSource × SourceView)) (b : Nat × CeilingSource) : Prop :=
  (∀ x ∈ views, x.2.inForce = true → b.1 ≤ x.2.value) ∧
  ∃ before after v, views = before ++ (b.2, v) :: after ∧ v.inForce = true ∧ v.value = b.1 ∧
    ∀ x ∈ before, x.2.inForce = true → b.1 < x.2.value

theorem isLowest_single {v : SourceView} (h : v.inForce = true) (c : CeilingSource) : IsLowest [(c, v)] (v.value, c) :=
  ⟨fun _ hx _ => by rw [List.mem_singleton.1 hx], [], [], v, rfl, h, rfl, nofun⟩

/-- A source put in front of a table is the lowest where it is in force and no higher, else the lowest stands. -/
theorem IsLowest.against {views : List (CeilingSource × SourceView)} {b : Nat × CeilingSource} (h : IsLowest views b)
    (c : CeilingSource) (v : SourceView) : IsLowest ((c, v) :: views) (c.against v b) := by
  obtain ⟨least, before, after, w, split, inForce, value, first⟩ := h
  unfold CeilingSource.against
  by_cases takes : v.inForce = true ∧ v.value ≤ b.1
  · rw [if_pos (by simpa using takes)]
    refine ⟨fun x hx hf => ?_, [], views, v, rfl, takes.1, rfl, nofun⟩
    rcases List.mem_cons.1 hx with rfl | hx
    · exact le_rfl
    · exact takes.2.trans (least x hx hf)
  · rw [if_neg (by simpa using takes)]
    have above : v.inForce = true → b.1 < v.value := fun hf => Nat.lt_of_not_le fun hv => takes ⟨hf, hv⟩
    refine ⟨fun x hx hf => ?_, (c, v) :: before, after, w, by rw [split]; rfl, inForce, value, fun x hx hf => ?_⟩
    · rcases List.mem_cons.1 hx with rfl | hx
      · exact (above hf).le
      · exact least x hx hf
    · rcases List.mem_cons.1 hx with rfl | hx
      · exact above hf
      · exact first x hx hf

theorem lowestSource_isLowest (s : State) : IsLowest [(.cap, s.capSource), (.dry, s.drySource), (.flow, s.flowSource),
    (.armMotion, s.motionSource), (.maximum, s.maximumSource), (.profile, s.profileSource)] s.lowestSource :=
  (((((isLowest_single (v := s.profileSource) rfl .profile).against _ _).against _ _).against _ _).against _ _).against _ _

/-! ## A raise that no entry takes (R176) -/

/-- No entry that fits a raise is free to act on it: it is bound to nothing, or the entry is in flight. -/
def State.Untaken (s : State) (r : Raise) : Prop :=
  ∀ (e : EntryNo) b, s.reactions[e] = some b → b.fits r = true → b.held ≠ none

theorem raiseOnce_untaken {s : State} {r : Raise} (h : s.Untaken r) (inner : Raiser) : raiseOnce inner r s = deliver r none s := by
  unfold raiseOnce
  cases matched : s.matching r with
  | none => rfl
  | some e =>
    have fits := List.find?_some matched
    dsimp only at fits ⊢
    cases bound : s.reactions[e] with
    | none => rfl
    | some b =>
      rw [bound] at fits
      exact if_pos (Option.isSome_iff_ne_none.2 (h e b bound fits))

theorem raiseWith_untaken {s : State} {r : Raise} (h : s.Untaken r) (n : Nat) : raiseWith n r s = deliver r none s := by
  cases n with
  | zero => rfl
  | succ n => exact raiseOnce_untaken h _

theorem raiseFactor_untaken {s : State} {r : Raise} (h : s.Untaken r) : raiseFactor r s = deliver r none s :=
  raiseWith_untaken h 8

/-- No BOUND entry stands on factor k. -/
def State.Deaf (s : State) (k : Fin 24) : Prop := ∀ (e : EntryNo) b, s.reactions[e] = some b → b.enabled = true → b.factor ≠ k

theorem Binding.fits_iff (b : Binding) (r : Raise) :
    b.fits r = true ↔ b.enabled = true ∧ b.factor = r.detail.factor ∧ b.filter.fits r = true := by
  simp [Binding.fits, and_assoc]

theorem State.Deaf.untaken {s : State} {k : Fin 24} (h : s.Deaf k) {r : Raise} (hr : r.detail.factor = k) : s.Untaken r :=
  fun e b bound fits => by
    obtain ⟨enabled, factor, -⟩ := (b.fits_iff r).1 fits
    exact absurd (factor.trans hr) (h e b bound enabled)

theorem NoReactions.deaf {s : State} (h : NoReactions s) (k : Fin 24) : s.Deaf k := fun e _ bound =>
  nomatch (h e).symm.trans bound

/-! ## The ceiling recomputed at the end of an event (R99, R100) -/

/-- The TG with its ceiling and its limiting source recomputed. -/
def State.ceilingNow (s : State) : State :=
  { s with travel := { s.travel with ceiling := s.lowestSource.1, limiting := s.lowestSource.2 } }

/-- The CEILING_CHANGED of a recomputation. -/
def State.ceilingRaise (s : State) : Raise :=
  ⟨.source s.lowestSource.2, .ceilingChanged s.travel.limiting s.lowestSource.1, s.time, .every none⟩

/-- What the recomputation leaves where nothing answers CEILING_CHANGED: raised where the limiting source changed (R100). -/
def State.ceilingTold (s : State) : State :=
  if s.lowestSource.2 = s.travel.limiting then s.ceilingNow else deliver s.ceilingRaise none s.ceilingNow

theorem ceilingTold_work (s : State) : s.ceilingTold.work = s.work := by
  unfold State.ceilingTold
  split <;> rfl

theorem ceilingCheck_needCeiling {s : State} (hw : workClear s) (deaf : s.Deaf 12) : ∃ b,
    ceilingCheck raiseFactor s.needCeiling = s.ceilingTold.modWork fun _ => { Work.clear with ceilingRaised := b } := by
  have due : s.needCeiling = s.modWork fun _ => { Work.clear with ceiling := true } := by
    rw [State.needCeiling, State.modWork, State.modWork, hw]
  rw [due]
  by_cases same : s.lowestSource.2 = s.travel.limiting
  · refine ⟨false, (if_pos rfl).trans ?_⟩
    rw [State.ceilingTold, if_pos same]
    exact if_pos (Bool.or_eq_true_iff.2 (.inl (decide_eq_true same)))
  · refine ⟨true, (if_pos rfl).trans ?_⟩
    rw [State.ceilingTold, if_neg same]
    refine (if_neg (c := (decide (s.lowestSource.2 = s.travel.limiting) || false) = true) (by simpa using same)).trans ?_
    exact raiseFactor_untaken (s := s.ceilingNow.modWork fun _ => { Work.clear with ceilingRaised := true })
      (r := s.ceilingRaise) (State.Deaf.untaken (k := 12) deaf rfl)

/-- The end of an event that has only the ceiling to recompute (R99, R100). -/
theorem finish_needCeiling {s : State} (hw : workClear s) (deaf : s.Deaf 12) : finish s.needCeiling = s.ceilingTold := by
  have due : s.needCeiling.work = { Work.clear with ceiling := true } := by
    rw [State.needCeiling, State.modWork_work, hw]
  obtain ⟨b, checked⟩ := ceilingCheck_needCeiling hw deaf
  have unblocked : raiseBlocked raiseFactor s.needCeiling = s.needCeiling := by
    unfold raiseBlocked
    rw [due]
    rfl
  have pass : settlePass raiseFactor s.needCeiling = ceilingCheck raiseFactor s.needCeiling := by
    unfold settlePass
    rw [due]
    rfl
  have settled : settle 16 s.needCeiling = s.ceilingTold.modWork fun _ => { Work.clear with ceilingRaised := b } := by
    refine (if_pos (congrArg Work.left due)).trans ?_
    rw [pass, checked]
    exact if_neg nofun
  have all : settleAll s.needCeiling = s.ceilingTold.modWork fun _ => { Work.clear with ceilingRaised := b } := by
    unfold settleAll
    rw [unblocked, settled]
    rfl
  rw [finish_calm (by rw [all]; rfl), all]
  have clear : s.ceilingTold.modWork (fun _ => Work.clear) = s.ceilingTold := by
    rw [State.modWork, ← hw, ← ceilingTold_work s]
  exact clear

/-! ## The release timer and the overspeed timer (R101, R107) -/

theorem flowCeilingRelease_expires {s : State} (hq : Quiet s) (due : s.travel.releaseTimer = .running 0) :
    let u := { s with travel := { s.travel with flowCeiling := none, releaseTimer := .stopped } }
    ∃ t, exec .flowCeilingReleaseExpiry s = .next t ∧ Untouched s t ∧ t.capture = s.capture ∧ t.switches = s.switches ∧
      (NoReactions s → t = u.ceilingTold) := by
  intro u
  have withdrawn : Cascade s (withdrawFlowCeiling s) :=
    (Cascade.modTravel s (fun g => { g with flowCeiling := none, releaseTimer := .stopped }) id).trans (Cascade.needCeiling _)
  obtain ⟨untouched, capture, switches⟩ := withdrawn.finish_untouched hq.noReset (congrArg Work.reset hq.work)
  exact ⟨finish u.needCeiling, congrArg Host.Outcome.next (if_pos (Timer.due_of_running_zero due)), untouched, capture, switches,
    fun hn => finish_needCeiling hq.work (NoReactions.deaf (s := u) hn 12)⟩

theorem overspeed_expires {s : State} (hq : Quiet s) (due : s.travel.overspeedTimer = .running 0) :
    ∃ t, exec .overspeedTimerExpiry s = .next t ∧ Untouched s t ∧ t.capture = s.capture ∧ t.switches = s.switches ∧
      (NoReactions s → t = deliver
        ⟨.none, .overspeed s.travel.wheelSpeed (s.travel.setpoint.tdiv 100), s.time, .every none⟩ none
        { s with travel := { s.travel with overspeedTimer := .stopped, overspeedExpired := true } }) := by
  have marked := Cascade.modTravel s (fun g => { g with overspeedTimer := .stopped, overspeedExpired := true }) id
  have raised : Cascade s (overspeedExpiry raiseFactor s) := marked.trans (Cascade.raiseFactor _ _)
  obtain ⟨untouched, capture, switches⟩ := raised.finish_untouched hq.noReset (congrArg Work.reset hq.work)
  refine ⟨_, congrArg Host.Outcome.next (if_pos (Timer.due_of_running_zero due)), untouched, capture, switches, fun hn => ?_⟩
  have plain : overspeedExpiry raiseFactor s = deliver _ none _ := raiseFactor_plain (s := s.modTravel _) hn _
  show finish (overspeedExpiry raiseFactor s) = _
  rw [plain]
  exact finish_clear hq.work

/-- Settles O40: the table's lowest source, and the two timers. -/
theorem ceilingAndOverspeedTimers : Obligations.CeilingAndOverspeedTimers := by
  refine ⟨fun s => lowestSource_isLowest s, fun s hq due => ?_, fun s hq due => overspeed_expires hq due⟩
  obtain ⟨t, ht, untouched, capture, switches, told⟩ := flowCeilingRelease_expires hq due
  exact ⟨t, ht, untouched, capture, switches, fun hn =>
    ⟨fun same => (told hn).trans (if_pos same), fun changed => (told hn).trans (if_neg changed)⟩⟩

end Sys2Proof.Machine
end

section
/-! PROOFS. Actions completed together, and CLEAR_CAP. -/

namespace Sys2Proof.Machine

set_option Elab.async false

/-! ## Actions completed together (R177) -/

/-- An entry out of flight: BOUND it stays, DRAINING it is FREE (R177). -/
def Binding.freed (b : Binding) : Option Binding := if b.enabled then some { b with held := none } else none

/-- The raises of completed actions, delivered in order with one outcome. -/
def deliverDone (o : ActionOutcome) (l : List (EntryNo × Raise)) (s : State) : State :=
  l.foldl (fun u p => deliver p.2 (some ⟨p.1, o, .all false⟩) u) s

/-- The entries of completed actions, out of flight. -/
def freeEntries (l : List EntryNo) (t : Vector (Option Binding) 8) : Vector (Option Binding) 8 :=
  l.foldl (fun v (e : EntryNo) => v.set e (v[e].bind Binding.freed)) t

/-- The notices that those deliveries leave: they read the records of attendance and the notices alone. -/
def noticesDone (o : ActionOutcome) (l : List (EntryNo × Raise)) (a : PerStation Attendance) (n : PerStation StationNotices) :
    PerStation StationNotices := (deliverDone o l { State.reset with attendance := a, notices := n }).notices

theorem deliverDone_eq (o : ActionOutcome) (l : List (EntryNo × Raise)) (s : State) :
    deliverDone o l s = { s with notices := noticesDone o l s.attendance s.notices } := by
  induction l generalizing s with
  | nil => rfl
  | cons p l ih =>
    have first := ih (deliver p.2 (some ⟨p.1, o, .all false⟩) { State.reset with attendance := s.attendance, notices := s.notices })
    exact (ih (deliver p.2 (some ⟨p.1, o, .all false⟩) s)).trans
      (congrArg (fun n => { s with notices := n }) (congrArg State.notices first).symm)

theorem entry_get_set (t : Vector (Option Binding) 8) (e k : EntryNo) (x : Option Binding) :
    (t.set e x)[k] = if k = e then x else t[k] := by
  show (t.set e.val x)[k.val] = _
  rw [Vector.getElem_set]
  simp only [Fin.ext_iff, eq_comm]
  rfl

theorem freeEntries_get (l : List EntryNo) (hl : l.Nodup) (t : Vector (Option Binding) 8) (k : EntryNo) :
    (freeEntries l t)[k] = if k ∈ l then t[k].bind Binding.freed else t[k] := by
  induction l generalizing t with
  | nil => rfl
  | cons e l ih =>
    obtain ⟨out, hl⟩ := List.nodup_cons.1 hl
    refine (ih hl _).trans ?_
    rw [entry_get_set]
    by_cases he : k = e
    · subst he
      rw [if_neg out, if_pos rfl, if_pos List.mem_cons_self]
    · rw [if_neg he]
      simp only [List.mem_cons, he, false_or]

/-- Completion of an entry in flight: its raise is delivered, the entry out of flight (R177). -/
theorem completeWith_inFlight {s : State} {e : EntryNo} {b : Binding} {r : Raise} (bound : s.reactions[e] = some b)
    (held : b.held = some r) (o : ActionOutcome) (z : ZoneSet) :
    completeWith e o z s = deliver r (some ⟨e, o, z⟩) { s with reactions := s.reactions.set e b.freed } := by
  unfold completeWith release
  rw [bound]
  dsimp only
  rw [held]
  rfl

/-- Entries in flight, completed in order: freed, and their raises delivered in that order (R177). -/
theorem foldl_complete_inFlight (o : ActionOutcome) (l : List (EntryNo × Raise)) (hl : (l.map Prod.fst).Nodup) {s : State}
    (flight : ∀ p ∈ l, ∃ b, s.reactions[p.1] = some b ∧ b.held = some p.2) :
    (l.map Prod.fst).foldl (fun t e => complete e o t) s =
      deliverDone o l { s with reactions := freeEntries (l.map Prod.fst) s.reactions } := by
  induction l generalizing s with
  | nil => rfl
  | cons p l ih =>
    obtain ⟨out, hl⟩ := List.nodup_cons.1 hl
    obtain ⟨b, bound, held⟩ := flight p List.mem_cons_self
    have first := completeWith_inFlight bound held o (.all false)
    have table : freeEntries ((p :: l).map Prod.fst) s.reactions =
        freeEntries (l.map Prod.fst) (s.reactions.set p.1 b.freed) :=
      congrArg (fun x : Option Binding => freeEntries (l.map Prod.fst) (s.reactions.set p.1 (x.bind Binding.freed))) bound
    rw [table, List.map_cons, List.foldl_cons, complete, first, ih hl]
    · rfl
    · intro q hq
      obtain ⟨d, bound', held'⟩ := flight q (List.mem_cons_of_mem _ hq)
      refine ⟨d, ?_, held'⟩
      have other : q.1 ≠ p.1 := fun e => out (e ▸ List.mem_map_of_mem hq)
      exact (entry_get_set _ _ _ _).trans ((if_neg other).trans bound')

/-! ## The CAP_SPEED actions in flight (R103, R104) -/

theorem capRaises_entries (s : State) : s.capRaises.map Prod.fst = entryList.filter (s.inFlight Action.isCap) := by
  rw [State.capRaises, List.map_filterMap, ← List.filterMap_eq_filter]
  refine congrArg (fun f => List.filterMap f (List.finRange 8)) (funext fun e => ?_)
  unfold State.inFlight
  rcases Option.eq_none_or_eq_some s.reactions[e] with bound | ⟨b, bound⟩
  · simp [Option.guard, bound]
  · cases flies : b.action.isCap <;> cases held : b.held <;> simp [Option.guard, bound, flies, held]

theorem capRaises_nodup (s : State) : (s.capRaises.map Prod.fst).Nodup := by
  rw [capRaises_entries]
  exact List.Nodup.filter _ (by decide)

theorem mem_capRaises (s : State) (p : EntryNo × Raise) :
    p ∈ s.capRaises ↔ ∃ b, s.reactions[p.1] = some b ∧ b.action.isCap = true ∧ b.held = some p.2 := by
  unfold State.capRaises
  simp only [List.mem_filterMap, List.mem_finRange, true_and, Option.bind_eq_some_iff]
  constructor
  · rintro ⟨e, b, bound, taken⟩
    split at taken
    · rename_i cap
      obtain ⟨r, held, rfl⟩ := Option.map_eq_some_iff.1 taken
      exact ⟨b, bound, cap, held⟩
    · cases taken
  · rintro ⟨b, bound, cap, held⟩
    exact ⟨p.1, b, bound, by rw [if_pos cap, held]; rfl⟩

/-- With the CAP_SPEED actions in flight completed each entry is as R104 leaves it. -/
theorem freeEntries_capRaises_get (s : State) (k : EntryNo) :
    (freeEntries (s.capRaises.map Prod.fst) s.reactions)[k] = s.reactions[k].bind Binding.cleared := by
  rw [freeEntries_get _ (capRaises_nodup s)]
  split
  · rename_i listed
    obtain ⟨p, hp, rfl⟩ := List.mem_map.1 listed
    obtain ⟨b, bound, cap, held⟩ := (mem_capRaises s p).1 hp
    rw [bound]
    exact (if_pos (by simp [cap, held])).symm
  · rename_i other
    rcases Option.eq_none_or_eq_some s.reactions[k] with bound | ⟨b, bound⟩
    · rw [bound]
      rfl
    · rw [bound]
      refine (if_neg fun flies => other ?_).symm
      obtain ⟨cap, held⟩ := Bool.and_eq_true_iff.1 flies
      obtain ⟨r, held⟩ := Option.isSome_iff_exists.1 held
      exact List.mem_map.2 ⟨(k, r), (mem_capRaises s _).2 ⟨b, bound, cap, held⟩, rfl⟩

theorem freeEntries_capRaises (s : State) :
    freeEntries (s.capRaises.map Prod.fst) s.reactions = s.reactions.map fun o => o.bind Binding.cleared :=
  Vector.ext fun i hi => (freeEntries_capRaises_get s ⟨i, hi⟩).trans (by rw [Vector.getElem_map]; rfl)

/-- The part with the caps removed and the actions that held them completed (R104). -/
def State.capsCleared (s : State) : State := deliverDone .cleared s.capRaises { s with
  travel := { s.travel with caps := Vector.replicate 8 none }
  reactions := s.reactions.map fun o => o.bind Binding.cleared }

theorem capsCleared_eq (s : State) : s.capsCleared = { s with
    travel := { s.travel with caps := Vector.replicate 8 none }
    reactions := s.reactions.map fun o => o.bind Binding.cleared
    notices := noticesDone .cleared s.capRaises s.attendance s.notices } := deliverDone_eq _ _ _

theorem clearCaps_eq (s : State) : clearCaps s =
    if s.capSource.inForce then s.capsCleared.needCeiling else s.capsCleared := by
  have cleared : ∀ u : State, u.reactions = s.reactions → completeAll Action.isCap .cleared u =
      deliverDone .cleared s.capRaises { u with reactions := s.reactions.map fun o => o.bind Binding.cleared } := by
    intro u hu
    have entries : entryList.filter (u.inFlight Action.isCap) = s.capRaises.map Prod.fst := by
      rw [capRaises_entries]
      exact congrArg (fun v => entryList.filter (State.inFlight { u with reactions := v } Action.isCap)) hu
    rw [completeAll, entries, foldl_complete_inFlight _ _ (capRaises_nodup s), hu, freeEntries_capRaises]
    intro p hp
    obtain ⟨b, bound, -, held⟩ := (mem_capRaises s p).1 hp
    exact ⟨b, by rw [hu]; exact bound, held⟩
  unfold clearCaps
  dsimp only
  split
  · rw [cleared (s.modTravel fun g => { g with caps := Vector.replicate 8 none }).needCeiling rfl, deliverDone_eq,
      capsCleared_eq]
    rfl
  · exact cleared _ rfl

/-! ## CLEAR_CAP (R104) -/

section ClearCap

variable {l : Station} {tag : Byte} {s : State} (holds : (s.claims.get .travel).holder = some l)
include holds

theorem clearCap_answer : (claimTest .travel fun _ _ t => .ok (clearCaps t)) l [] (heard Form.clearCap l tag [] s) =
    ⟨.ok, .none, clearCaps (heard Form.clearCap l tag [] s)⟩ := claimTest_heard.trans (if_pos holds)

theorem exec_clearCap_served (sent : Sent Form.clearCap l [] s) (hq : Quiet s) :
    ∃ t, exec (.clearCap l tag []) s = .next t ∧ Served Form.clearCap l tag [] .ok .none s t := by
  have cascade := Cascade.clearCaps (heard Form.clearCap l tag [] s)
  obtain ⟨-, served⟩ := served_finish (heard_kept Form.clearCap l tag [] s) rfl rfl rfl rfl cascade sent
    (clearCap_answer holds) (settle_reset (s := { clearCaps (heard Form.clearCap l tag [] s) with
      links := linksAfter Form.clearCap l tag [] .ok .none s }) (cascade.pendingReset.trans hq.noReset)
      (cascade.reset hq.noReset (congrArg Work.reset hq.work)))
  exact ⟨_, rfl, served⟩

end ClearCap

theorem exec_clearCap_clears {l : Station} {tag : Byte} {s : State} (sent : Sent Form.clearCap l [] s)
    (holds : (s.claims.get .travel).holder = some l) : exec (.clearCap l tag []) s = .next (finish
      (if s.capSource.inForce then (replied Form.clearCap l tag [] .ok .none s).capsCleared.needCeiling
      else (replied Form.clearCap l tag [] .ok .none s).capsCleared)) := by
  have cascade := Cascade.clearCaps (heard Form.clearCap l tag [] s)
  refine congrArg Host.Outcome.next ((serveEvent_finish (owner := fun _ => claimTest .travel fun _ _ t => .ok (clearCaps t)) sent
    (clearCap_answer holds) cascade.links).trans (congrArg finish ?_))
  rw [clearCaps_eq, capsCleared_eq, capsCleared_eq]
  split
  · rename_i inForce
    exact (if_pos inForce).symm
  · rename_i none
    exact (if_neg none).symm

/-- Completing an action changes no entry's factor, and enables none (R104). -/
theorem State.Deaf.capsCleared {s : State} {k : Fin 24} (h : s.Deaf k) : s.capsCleared.Deaf k := fun e b bound enabled => by
  rw [capsCleared_eq] at bound
  have got : s.reactions[e].bind Binding.cleared = some b := (Vector.getElem_map _ e.isLt).symm.trans bound
  rcases Option.eq_none_or_eq_some s.reactions[e] with held | ⟨d, held⟩
  · rw [held] at got
    cases got
  rw [held] at got
  have cleared : d.cleared = some b := got
  unfold Binding.cleared at cleared
  split at cleared
  · split at cleared
    · rename_i on
      cases cleared
      exact h e d held on
    · cases cleared
  · exact h e b (cleared ▸ held) enabled

/-- Settles O42: the caps and their actions, then the ceiling where a cap was installed. -/
theorem clearCapRemovesTheCaps : Obligations.ClearCapRemovesTheCaps := by
  intro l tag s sent holds hq
  refine ⟨exec_clearCap_served holds sent hq, ?_⟩
  intro deaf cleared now
  have clears := exec_clearCap_clears (tag := tag) sent holds
  have whole : (replied Form.clearCap l tag [] .ok .none s).capsCleared = cleared := rfl
  have told := capsCleared_eq (replied Form.clearCap l tag [] .ok .none s)
  rw [whole] at clears told
  have work : workClear cleared := by rw [told]; exact hq.work
  obtain ⟨installed, -⟩ := capSource_spec s
  refine ⟨fun none_installed => ?_, fun some_installed => ?_⟩
  · rw [if_neg fun inForce => (installed.1 inForce).elim fun e he => he (none_installed e), finish_clear work] at clears
    exact clears
  · have deafNow : cleared.Deaf 12 := State.Deaf.capsCleared (s := replied Form.clearCap l tag [] .ok .none s) deaf
    rw [if_pos (installed.2 some_installed), finish_needCeiling work deafNow] at clears
    rw [clears]
    refine congrArg Host.Outcome.next ?_
    have limiting : cleared.travel.limiting = s.travel.limiting := by rw [told]; rfl
    have time : cleared.time = s.time := by rw [told]; rfl
    unfold State.ceilingTold State.ceilingRaise
    rw [limiting, time]
    rfl

end Sys2Proof.Machine
end

section
/-! PROOFS. The three levels of one reallocation. -/

namespace Sys2Proof.Machine

set_option Elab.async false

/-! ## Level 3: which lifts are withdrawn and granted (R159) -/

/-- A lift grant is the whole demand of a consumer in the granted list, and nothing else (R158). -/
theorem Flow.listsLawful.grant {f : Flow} (h : f.listsLawful) (a : Arm) :
    f.liftGrant.get a = if a ∈ f.granted then f.liftDemand.get a else 0 := by
  obtain ⟨-, -, granted, -, whole⟩ := h
  split
  · rename_i listed
    exact (whole a).resolve_left (Nat.pos_iff_ne_zero.1 ((granted a).1 listed))
  · rename_i out
    exact Nat.eq_zero_of_not_pos fun pos => out ((granted a).2 pos)

/-- The sum of values that stand on the members of a list alone. -/
theorem PerArm.sum_of_list {l : List Arm} (hl : l.Nodup) (d : Arm → Nat) {p : PerArm Nat}
    (hp : ∀ a, p.get a = if a ∈ l then d a else 0) : p.sum = (l.map d).sum := by
  induction l generalizing p with
  | nil => exact PerArm.sum_eq_zero hp
  | cons x l ih =>
    obtain ⟨out, hl⟩ := List.nodup_cons.1 hl
    have rest := ih hl (p := p.set x 0) fun a => by
      rw [PerArm.get_set]
      by_cases e : a = x
      · rw [if_pos e, e, if_neg out]
      · rw [if_neg e, hp a]
        simp only [List.mem_cons, e, false_or]
    have whole := PerArm.sum_set p x 0
    rw [hp x, if_pos List.mem_cons_self, rest] at whole
    rw [List.map_cons, List.sum_cons]
    omega

theorem Flow.listsLawful.sum {f : Flow} (h : f.listsLawful) :
    f.liftGrant.sum = (f.granted.map f.liftDemand.get).sum :=
  PerArm.sum_of_list h.2.1 _ h.grant

/-- What the arbiter is asked for, and the capacity it has. -/
structure Flow.SameAsked (f g : Flow) : Prop where
  capacity : g.capacity = f.capacity
  lifts : g.liftDemand = f.liftDemand
  rotation : g.rotDemand = f.rotDemand
  pump : g.pumpDemand = f.pumpDemand

/-- R159, withdrawal: a tail of the granted list goes to the queue's head, and each withdrawn lift did not fit. -/
theorem Flow.withdrawLifts_spec (n : Nat) {f : Flow} (h : f.listsLawful) :
    let g := Flow.withdrawLifts n f
    f.SameAsked g ∧ ∃ back, f.granted = g.granted ++ back ∧ g.queue = back ++ f.queue ∧
      ∀ a, back.head? = some a → f.capacity < ((g.granted ++ [a]).map f.liftDemand.get).sum := by
  induction n generalizing f with
  | zero => exact ⟨⟨rfl, rfl, rfl, rfl⟩, [], (List.append_nil _).symm, rfl, nofun⟩
  | succ n ih =>
    have stands : f.SameAsked f ∧ ∃ back, f.granted = f.granted ++ back ∧ f.queue = back ++ f.queue ∧
        ∀ a, back.head? = some a → f.capacity < ((f.granted ++ [a]).map f.liftDemand.get).sum :=
      ⟨⟨rfl, rfl, rfl, rfl⟩, [], (List.append_nil _).symm, rfl, nofun⟩
    unfold Flow.withdrawLifts
    split
    · rename_i exceeds
      split
      · exact stands
      · rename_i a last
        obtain ⟨⟨capacity, lifts, rotation, pump⟩, back, granted, queue, unfit⟩ := ih (Flow.listsLawful_unGrant h last).1
        have ends : f.granted = f.granted.dropLast ++ [a] := (List.dropLast_append_getLast? a last).symm
        refine ⟨⟨capacity, lifts, rotation, pump⟩, back ++ [a], ?_, ?_, fun b hb => ?_⟩
        · rw [← List.append_assoc, ← granted]
          exact ends
        · rw [queue, List.append_assoc]
          rfl
        · cases back with
          | nil =>
            cases hb
            rw [List.append_nil] at granted
            rw [← granted, ← ends, ← h.sum]
            exact exceeds
          | cons x back => exact unfit b hb
    · exact stands

/-- R159, granting: a head of the queue is granted in order, up to the first lift that does not fit. -/
theorem Flow.grantLifts_spec (n : Nat) {f : Flow} (h : f.listsLawful) (hn : f.queue.length ≤ n) :
    let g := Flow.grantLifts n f
    f.SameAsked g ∧ ∃ give, f.queue = give ++ g.queue ∧ g.granted = f.granted ++ give ∧
      ∀ a, g.queue.head? = some a → f.capacity < f.liftDemand.get a + g.liftGrant.sum := by
  induction n generalizing f with
  | zero =>
    have none : f.queue = [] := List.length_eq_zero_iff.1 (Nat.le_zero.1 hn)
    refine ⟨⟨rfl, rfl, rfl, rfl⟩, [], rfl, (List.append_nil _).symm, fun a ha => ?_⟩
    rw [Flow.grantLifts, none] at ha
    cases ha
  | succ n ih =>
    unfold Flow.grantLifts
    split
    · rename_i none
      refine ⟨⟨rfl, rfl, rfl, rfl⟩, [], rfl, (List.append_nil _).symm, fun a ha => ?_⟩
      rw [none] at ha
      cases ha
    · rename_i a rest queued
      split
      · rename_i fits
        obtain ⟨⟨capacity, lifts, rotation, pump⟩, give, queue, granted, unfit⟩ := ih (Flow.listsLawful_grant h queued)
          (by rw [queued] at hn; exact Nat.le_of_succ_le_succ hn)
        refine ⟨⟨capacity, lifts, rotation, pump⟩, a :: give, ?_, ?_, unfit⟩
        · rw [queued]
          exact congrArg (a :: ·) queue
        · rw [granted, List.append_assoc]
          rfl
      · rename_i exceeds
        refine ⟨⟨rfl, rfl, rfl, rfl⟩, [], rfl, (List.append_nil _).symm, fun b hb => ?_⟩
        rw [queued] at hb
        cases hb
        exact Nat.lt_of_not_le exceeds

/-- One settling of the three levels: level 3 as R159 orders it, and what is asked for unchanged. -/
theorem Flow.settle_spec {f : Flow} (h : f.listsLawful) : f.SameAsked f.settle ∧ f.LiftsSettled f.settle := by
  have few := nodup_arms_length h.2.1
  obtain ⟨withdrawn, back, granted, queue, unfit⟩ := Flow.withdrawLifts_spec 3 h
  obtain ⟨lawful, fit⟩ := Flow.withdrawLifts_lawful 3 f h few
  obtain ⟨given, give, queue', granted', unfit'⟩ := Flow.grantLifts_spec 3 lawful (nodup_arms_length lawful.1)
  obtain ⟨lawful', fit'⟩ := Flow.grantLifts_lawful 3 _ lawful fit
  have lifts : (Flow.grantLifts 3 (Flow.withdrawLifts 3 f)).liftDemand = f.liftDemand := given.lifts.trans withdrawn.lifts
  refine ⟨⟨given.capacity.trans withdrawn.capacity, lifts, given.rotation.trans withdrawn.rotation,
    given.pump.trans withdrawn.pump⟩, _, back, give, granted, queue.symm.trans queue', granted', fun a => ?_, ?_, unfit,
    fun a ha => ?_⟩
  · rw [← lifts]
    exact lawful'.grant a
  · exact fit'.trans_eq (given.capacity.trans withdrawn.capacity)
  · rw [← withdrawn.capacity, ← withdrawn.lifts]
    exact unfit' a ha

/-! ## The lowest ratio and the offer (R163) -/

/-- One consumer against the lowest ratio so far, as (grant, demand). -/
def Flow.ratioAgainst (f : Flow) (best : Nat × Nat) (a : Arm) : Nat × Nat :=
  if 0 < f.rotDemand.get a && f.rotGrant.get a * best.2 < best.1 * f.rotDemand.get a then
    (f.rotGrant.get a, f.rotDemand.get a)
  else best

theorem Flow.lowestRatio_eq (f : Flow) :
    f.lowestRatio = f.ratioAgainst (f.ratioAgainst (f.ratioAgainst (1, 1) .l) .r) .c := by
  simp only [Flow.lowestRatio, Arm.list, List.foldl_cons, List.foldl_nil, Flow.ratioAgainst, Bool.and_eq_true,
    decide_eq_true_eq]

/-- The lowest ratio among some consumers: the whole, or that of a consumer with a demand. -/
structure Flow.LeastRatio (f : Flow) (seen : List Arm) (best : Nat × Nat) : Prop where
  demand : 0 < best.2
  source : best = (1, 1) ∨ ∃ a, 0 < f.rotDemand.get a ∧ best = (f.rotGrant.get a, f.rotDemand.get a)
  least : ∀ a ∈ seen, best.1 * f.rotDemand.get a ≤ f.rotGrant.get a * best.2

theorem Flow.LeastRatio.against {f : Flow} {seen : List Arm} {best : Nat × Nat} (h : f.LeastRatio seen best) (a : Arm) :
    f.LeastRatio (a :: seen) (f.ratioAgainst best a) := by
  unfold Flow.ratioAgainst
  by_cases lower : 0 < f.rotDemand.get a ∧ f.rotGrant.get a * best.2 < best.1 * f.rotDemand.get a
  · rw [if_pos (by simpa using lower)]
    obtain ⟨demand, lower⟩ := lower
    refine ⟨demand, .inr ⟨a, demand, rfl⟩, fun b hb => ?_⟩
    rcases List.mem_cons.1 hb with rfl | hb
    · exact le_rfl
    · refine Nat.le_of_mul_le_mul_right ?_ h.demand
      calc f.rotGrant.get a * f.rotDemand.get b * best.2
          = f.rotGrant.get a * best.2 * f.rotDemand.get b := by ring
        _ ≤ best.1 * f.rotDemand.get a * f.rotDemand.get b := Nat.mul_le_mul_right _ lower.le
        _ = best.1 * f.rotDemand.get b * f.rotDemand.get a := by ring
        _ ≤ f.rotGrant.get b * best.2 * f.rotDemand.get a := Nat.mul_le_mul_right _ (h.least b hb)
        _ = f.rotGrant.get b * f.rotDemand.get a * best.2 := by ring
  · rw [if_neg (by simpa using lower)]
    refine ⟨h.demand, h.source, fun b hb => ?_⟩
    rcases List.mem_cons.1 hb with rfl | hb
    · rcases Nat.eq_zero_or_pos (f.rotDemand.get b) with none | demand
      · rw [none]
        exact Nat.zero_le _
      · exact Nat.le_of_not_lt fun lt => lower ⟨demand, lt⟩
    · exact h.least b hb

/-- With rotation short the offer is that of the lowest ratio among the consumers with a demand (R163). -/
theorem Flow.offerAt_isOffer {f : Flow} (short : ∃ a, f.rotGrant.get a < f.rotDemand.get a) (v : Int) :
    f.IsOffer v (f.offerAt v) := by
  have first : f.LeastRatio [] (1, 1) := ⟨Nat.one_pos, .inl rfl, nofun⟩
  have all := ((first.against .l).against .r).against .c
  rw [← Flow.lowestRatio_eq] at all
  have least : ∀ a, f.lowestRatio.1 * f.rotDemand.get a ≤ f.rotGrant.get a * f.lowestRatio.2 := fun a =>
    all.least a (by cases a <;> decide)
  obtain ⟨x, short⟩ := short
  rcases all.source with whole | ⟨a, demand, ratio⟩
  · have full := least x
    rw [whole, Nat.one_mul, Nat.mul_one] at full
    exact absurd short (Nat.not_lt.2 full)
  · refine ⟨a, demand, fun b => ?_, ?_⟩
    · have lower := least b
      rwa [ratio] at lower
    · rw [Flow.offerAt, ratio]

end Sys2Proof.Machine
end

section
/-! PROOFS. One reallocation as an event's whole end. -/

namespace Sys2Proof.Machine

set_option Elab.async false

/-! ## The factors of a reallocation, with no reaction bound (R162, R167) -/

theorem raiseAll_plain_told {s : State} (hn : NoReactions s) (l : List Raise) :
    ∃ n, raiseAll raiseFactor l s = { s with notices := n } := by
  induction l generalizing s with
  | nil => exact ⟨_, rfl⟩
  | cons r l ih =>
    rw [raiseAll, raiseFactor_plain hn]
    exact ih (s := deliver r none s) hn

/-- Of several raises of one factor to every station the last is held (R167). -/
theorem raiseAll_plain_held {s : State} (hn : NoReactions s) {k : Fin 24} {l : List Raise}
    (hl : ∀ r ∈ l, r.detail.factor = k ∧ r.audience = .every none) {x : Station} (hx : s.attends x = true) :
    ((raiseAll raiseFactor l s).notices.get x).held[k] =
      (l.getLast?.map fun r => r.record none).or (s.notices.get x).held[k] := by
  induction l generalizing s with
  | nil => rfl
  | cons r l ih =>
    obtain ⟨factor, audience⟩ := hl r List.mem_cons_self
    have reached : s.reaches r.audience x = true := by
      rw [audience]
      simp [State.reaches, hx]
    have later := ih (s := deliver r none s) hn (fun q hq => hl q (List.mem_cons_of_mem _ hq)) hx
    rw [raiseAll, raiseFactor_plain hn]
    refine later.trans ?_
    rw [deliver_held, if_pos ⟨reached, factor.symm⟩, List.getLast?_cons]
    cases l.getLast? <;> rfl

/-! ## One reallocation where nothing else is due (R157) -/

/-- The grants settled and posted, the short flags set. -/
def State.regranted (s : State) : State := setShortFlags (postGrants { s with flow := s.flow.settle })

theorem regranted_travel (s : State) : s.regranted.travel = s.travel := rfl
theorem regranted_capture (s : State) : s.regranted.capture = s.capture := rfl
theorem regranted_notices (s : State) : s.regranted.notices = s.notices := rfl
theorem regranted_arm (s : State) (a : Arm) : s.regranted.arm a =
    ((s.arm a).takeLift (s.flow.settle.liftGrant.get a) (s.motionTimeout (s.arm a).state)).takeRotation
      (s.flow.settle.rotGrant.get a) (s.item 12) := postGrants_arm { s with flow := s.flow.settle } a

/-- With no lift newly posted a reallocation settles, posts and offers (R157 to R163). -/
theorem reallocate_needRealloc {s : State} (hw : workClear s) :
    reallocate s.needRealloc = (handOffer s.flow.short2 s.regranted, shortRaises s.flow (handOffer s.flow.short2 s.regranted)) := by
  have restored : ∀ w : Work, w = Work.clear → s.modWork (fun _ => w) = s := fun w e => by rw [State.modWork, e, ← hw]
  have taken : s.needRealloc.modWork (fun w => { w with realloc := false }) = s :=
    restored _ (congrArg (fun w : Work => { w with realloc := false }) hw)
  have order : orderPosted s = s := by
    unfold orderPosted
    rw [if_neg (by rw [hw]; decide)]
    exact restored _ (by rw [hw]; rfl)
  unfold reallocate
  rw [taken, order]
  rfl

/-- A recomputed ceiling with no reaction bound: the ceiling and its source, the notices, and no more to recompute (R100). -/
theorem ceilingCheck_told {s : State} (hn : NoReactions s) : ∃ c l n w, ceilingCheck raiseFactor s =
    { s with travel := { s.travel with ceiling := c, limiting := l }, notices := n, work := w } ∧
    w.realloc = s.work.realloc ∧ w.ceiling = false ∧
    ∀ x (k : Fin 24), k ≠ 12 → (n.get x).held[k] = (s.notices.get x).held[k] := by
  by_cases due : s.work.ceiling = true
  · rw [ceilingCheck_raise raiseFactor_plainly hn due]
    split
    · exact ⟨_, _, _, _, rfl, rfl, rfl, fun _ _ _ => rfl⟩
    · exact ⟨_, _, _, _, rfl, rfl, rfl, fun x k hk => (deliver_held _ _ x k).trans (if_neg fun h => hk h.2)⟩
  · have stands : ceilingCheck raiseFactor s = s := if_neg due
    rw [stands]
    exact ⟨_, _, _, _, rfl, rfl, Bool.not_eq_true _ ▸ due, fun _ _ _ => rfl⟩

theorem settle_left {s : State} (h : s.work.left = true) (n : Nat) : settle (n + 1) s = settle n (settlePass raiseFactor s) :=
  if_pos h

theorem settle_done {s : State} (h : s.work.left = false) (n : Nat) : settle (n + 1) s = s := if_neg (by simp [h])

/-- With no reallocation left and no reaction bound the passes recompute the ceiling (R100). -/
theorem settle_ceiling {s : State} (hn : NoReactions s) (h : s.work.realloc = false) (n : Nat) :
    settle (n + 2) s = ceilingCheck raiseFactor s := by
  cases due : s.work.ceiling
  · have stands : ceilingCheck raiseFactor s = s := if_neg (by simp [due])
    rw [stands, settle_done (by simp [Work.left, h, due])]
  · have pass : settlePass raiseFactor s = ceilingCheck raiseFactor s := if_neg (by simp [h])
    obtain ⟨c, l, n', w, told, realloc, ceiling, -⟩ := ceilingCheck_told hn
    rw [settle_left (by simp [Work.left, due]), pass, settle_done]
    rw [told]
    simp [Work.left, realloc, ceiling, h]

/-- The end of an event that has one reallocation to make, with no reaction bound: the reallocation with its factors, then the
ceiling (R100, R157). -/
theorem finish_needRealloc {s : State} (hq : Quiet s) (hn : NoReactions s) : finish s.needRealloc =
    (ceilingCheck raiseFactor (reallocPass raiseFactor s.needRealloc)).modWork fun _ => Work.clear := by
  have due : s.needRealloc.work = { Work.clear with realloc := true } := by
    rw [State.needRealloc, State.modWork_work, hq.work]
  have noCeiling : ceilingCheck raiseFactor s.needRealloc = s.needRealloc := if_neg (by rw [due]; decide)
  have pass : settlePass raiseFactor s.needRealloc = reallocPass raiseFactor s.needRealloc := by
    refine (if_pos (by rw [due])).trans ?_
    rw [noCeiling]
    exact ite_self _
  have once : NoReactions (reallocate s.needRealloc).1 := (Ended.reallocate s.needRealloc).unbound hn
  obtain ⟨n, told⟩ := raiseAll_plain_told once (reallocate s.needRealloc).2
  have made : (reallocPass raiseFactor s.needRealloc).work.realloc = false := by
    rw [reallocPass, told]
    exact reallocate_realloc _
  have unbound : NoReactions (reallocPass raiseFactor s.needRealloc) := (Ended.reallocPass raiseFactor_plainly hn).unbound hn
  have settled : settle 16 s.needRealloc = ceilingCheck raiseFactor (reallocPass raiseFactor s.needRealloc) := by
    rw [settle_left (by rw [due]; rfl), pass, settle_ceiling unbound made]
  rw [finish_calm (settle_reset (s := s.needRealloc) hq.noReset (by rw [due]; rfl)),
    settleAll_plain (s := s.needRealloc) hn (by rw [due]; rfl) (by rw [due]; rfl), settled]
  rfl

/-! ## What the reallocation leaves (R161 to R163) -/

theorem handOffer_short {s : State} (h : s.flow.short2 = true) (was : Bool) : ∃ w, handOffer was s = { s with
    flow := { s.flow with lastOffer := some (s.flow.offerAt s.capture.wheelSpeed) }
    travel := s.travel.takeOffer (s.flow.offerAt s.capture.wheelSpeed), work := w } := by
  unfold handOffer
  rw [if_pos h]
  dsimp only
  split <;> exact ⟨_, rfl⟩

theorem handOffer_clears {s : State} (h : s.flow.short2 = false) : handOffer true s = s.modTravel Travel.clearOffer := by
  unfold handOffer
  rw [if_neg (by simp [h]), if_pos rfl]

theorem handOffer_stands {s : State} (h : s.flow.short2 = false) : handOffer false s = s := by
  unfold handOffer
  rw [if_neg (by simp [h]), if_neg (by decide)]

/-- An offer handed on changes the TG and the last offer alone. -/
theorem handOffer_told (was : Bool) (s : State) : ∃ o g w, handOffer was s =
    { s with flow := { s.flow with lastOffer := o }, travel := g, work := w } := by
  cases short : s.flow.short2
  · cases was
    · exact ⟨_, _, _, handOffer_stands short⟩
    · exact ⟨_, _, _, handOffer_clears short⟩
  · obtain ⟨w, told⟩ := handOffer_short short was
    exact ⟨_, _, _, told⟩

/-- The flow after a settling: the grants and the short flags they set (R162). -/
def Flow.regranted (f : Flow) : Flow :=
  { f.settle with short3 := f.settle.isShort3, short2 := f.settle.isShort2, short1 := f.settle.isShort1 }

theorem Flow.offerAt_lastOffer (f : Flow) (o : Option Nat) (v : Int) : { f with lastOffer := o }.offerAt v = f.offerAt v := rfl

/-- One reallocation made, read field by field (R157 to R163). -/
structure Regranted (s t : State) : Prop where
  flow : t.flow = { s.flow.regranted with lastOffer := t.flow.lastOffer }
  arm : ∀ a, t.arm a =
    ((s.arm a).takeLift (s.flow.settle.liftGrant.get a) (s.motionTimeout (s.arm a).state)).takeRotation
      (s.flow.settle.rotGrant.get a) (s.item 12)
  spray : t.spray = s.spray.takeGrant s.flow.settle.pumpGrant (s.item 18) (s.item 29)
  held : ∀ x, s.attends x = true → (t.notices.get x).held[(13 : Fin 24)] =
    ((shortRaises s.flow { s with flow := t.flow }).getLast?.map fun r => r.record none).or
      (s.notices.get x).held[(13 : Fin 24)]
  offered : t.flow.short2 = true → t.flow.lastOffer = some (t.flow.offerAt s.capture.wheelSpeed) ∧
    ∃ c l, t.travel = { s.travel.takeOffer (t.flow.offerAt s.capture.wheelSpeed) with ceiling := c, limiting := l }
  cleared : s.flow.short2 = true → t.flow.short2 = false →
    ∃ c l, t.travel = { s.travel.clearOffer with ceiling := c, limiting := l }
  untouched : s.flow.short2 = false → t.flow.short2 = false → t.flow.lastOffer = s.flow.lastOffer ∧
    ∃ c l, t.travel = { s.travel with ceiling := c, limiting := l }

theorem shortRaises_factor_audience (before : Flow) (s : State) :
    ∀ r ∈ shortRaises before s, r.detail.factor = 13 ∧ r.audience = .every none := by
  intro r hr
  unfold shortRaises at hr
  simp only [List.mem_append] at hr
  rcases hr with (hr | hr) | hr
  all_goals
    split at hr
    · rw [List.mem_singleton] at hr
      subst hr
      exact ⟨rfl, rfl⟩
    · cases hr

theorem finish_needRealloc_regranted {s : State} (hq : Quiet s) (hn : NoReactions s) : Regranted s (finish s.needRealloc) := by
  have made := reallocate_needRealloc hq.work
  obtain ⟨o, g, w, offered⟩ := handOffer_told s.flow.short2 s.regranted
  obtain ⟨v, hv⟩ : ∃ v, v = handOffer s.flow.short2 s.regranted := ⟨_, rfl⟩
  rw [← hv] at made offered
  have once : NoReactions v := by
    rw [offered]
    exact hn
  have short : s.regranted.flow.short2 = v.flow.short2 := by rw [offered]
  obtain ⟨n, told⟩ := raiseAll_plain_told once (shortRaises s.flow v)
  have pass : reallocPass raiseFactor s.needRealloc = { v with notices := n } := by
    rw [reallocPass, made]
    exact told
  obtain ⟨c, l, n', k, checked, -, -, kept⟩ := ceilingCheck_told (s := { v with notices := n }) once
  have final := finish_needRealloc hq hn
  rw [pass, checked] at final
  rw [final]
  refine ⟨?_, fun a => ?_, ?_, fun x hx => ?_, fun h => ?_, fun was h => ?_, fun was h => ?_⟩
  · show v.flow = _
    rw [offered]
    rfl
  · show v.arm a = _
    rw [offered]
    exact regranted_arm s a
  · show v.spray = _
    rw [offered]
    rfl
  · have heard := raiseAll_plain_held once (shortRaises_factor_audience s.flow v) (x := x) (by rw [offered]; exact hx)
    rw [told] at heard
    refine (kept x 13 (by decide)).trans (heard.trans ?_)
    rw [offered]
    rfl
  · obtain ⟨w, given⟩ := handOffer_short (short.trans h) s.flow.short2
    rw [← hv, regranted_travel, regranted_capture] at given
    have offer : v.flow.offerAt s.capture.wheelSpeed = s.regranted.flow.offerAt s.capture.wheelSpeed := by
      rw [given]
      exact Flow.offerAt_lastOffer _ _ _
    show v.flow.lastOffer = some (v.flow.offerAt s.capture.wheelSpeed) ∧ ∃ c' l',
      ({ v.travel with ceiling := c, limiting := l } : Travel) =
        { s.travel.takeOffer (v.flow.offerAt s.capture.wheelSpeed) with ceiling := c', limiting := l' }
    rw [offer, given]
    exact ⟨rfl, c, l, rfl⟩
  · have given : v = s.regranted.modTravel Travel.clearOffer := by
      rw [hv, was]
      exact handOffer_clears (short.trans h)
    refine ⟨c, l, ?_⟩
    rw [given]
    rfl
  · have given : v = s.regranted := by
      rw [hv, was]
      exact handOffer_stands (short.trans h)
    refine ⟨?_, c, l, ?_⟩
    · show v.flow.lastOffer = _
      rw [given]
      exact (congrArg Flow.lastOffer (Flow.settle_rest s.flow) : s.flow.settle.lastOffer = _)
    · rw [given]
      rfl

end Sys2Proof.Machine
end

section
/-! PROOFS. ENGINE_REPORT and the staleness timer. -/

namespace Sys2Proof.Machine

set_option Elab.async false

/-! ## The short flags and the last factor raised (R162) -/

theorem Flow.isShort3_iff (f : Flow) : f.isShort3 = true ↔ f.queue ≠ [] := by
  simp [Flow.isShort3]

theorem Flow.isShort2_iff (f : Flow) : f.isShort2 = true ↔ ∃ a, f.rotGrant.get a < f.rotDemand.get a := by
  rw [Flow.isShort2, List.any_eq_true]
  simp only [decide_eq_true_eq]
  exact ⟨fun ⟨a, _, h⟩ => ⟨a, h⟩, fun ⟨a, h⟩ => ⟨a, by cases a <;> decide, h⟩⟩

theorem Flow.isShort1_iff (f : Flow) : f.isShort1 = true ↔ f.pumpGrant < f.pumpDemand := decide_eq_true_iff

/-- Of the factors a reallocation raises the lowest level's stands last. -/
theorem shortRaises_last (before : Flow) (s : State) : (shortRaises before s).getLast? =
    if !before.short1 && s.flow.short1 then
      some (s.raiseOf (.level 1) (.flowShort s.flow.capacity s.flow.pumpDemand s.flow.pumpGrant none))
    else if !before.short2 && s.flow.short2 then
      some (s.raiseOf (.level 2) (.flowShort s.flow.capacity s.flow.rotDemand.sum s.flow.rotGrant.sum none))
    else if !before.short3 && s.flow.short3 then
      some (s.raiseOf (.level 3) (.flowShort s.flow.capacity s.flow.liftDemand.sum s.flow.liftGrant.sum
        (some s.flow.queue.length)))
    else none := by
  unfold shortRaises
  dsimp only
  by_cases one : (!before.short1 && s.flow.short1) = true
  · rw [if_pos one, if_pos one, List.getLast?_append]
    rfl
  · rw [if_neg one, if_neg one, List.append_nil]
    by_cases two : (!before.short2 && s.flow.short2) = true
    · rw [if_pos two, if_pos two, List.getLast?_append]
      rfl
    · rw [if_neg two, if_neg two, List.append_nil]
      split <;> rfl

/-! ## What a lift grant does to an arm (R121) -/

section Lift

variable {u : ArmUnit} {g : Nat} (m : Nat)

theorem ArmUnit.takeLift_grant (u : ArmUnit) (g m : Nat) : (u.takeLift g m).liftGrant = g := by
  unfold ArmUnit.takeLift
  split
  · rfl
  · split
    · rename_i stops
      exact (eq_of_beq (Bool.and_eq_true_iff.1 stops).2).symm
    · rfl

theorem ArmUnit.takeLift_starts (waits : u.sub = .awaitingFlow) (pos : 0 < g) : u.takeLift g m = { u with
    liftGrant := g, sub := .moving, liftDownOpen := u.state == .lowering, liftUpOpen := u.state == .raising
    motionTimer := match u.motionTimer with
      | .paused n => .running n
      | _ => .running m } := if_pos (by simpa [waits] using pos)

theorem ArmUnit.takeLift_pauses (moves : u.sub = .moving) : u.takeLift 0 m = { u with
    liftGrant := 0, sub := .awaitingFlow, liftDownOpen := false, liftUpOpen := false
    motionTimer := u.motionTimer.pause } := by
  rw [ArmUnit.takeLift, if_neg (by simp), if_pos (by simp [moves])]

theorem ArmUnit.takeLift_goesOn (waits : u.sub = .awaitingFlow → g = 0) (moves : u.sub = .moving → 0 < g) :
    u.takeLift g m = { u with liftGrant := g } := by
  rw [ArmUnit.takeLift, if_neg, if_neg]
  · intro stops
    obtain ⟨sub, zero⟩ := Bool.and_eq_true_iff.1 stops
    exact absurd (moves (eq_of_beq sub)) (by simp [eq_of_beq zero])
  · intro starts
    obtain ⟨sub, pos⟩ := Bool.and_eq_true_iff.1 starts
    exact absurd (waits (eq_of_beq sub)) (Nat.pos_iff_ne_zero.1 (of_decide_eq_true pos))

end Lift

theorem motionTimeout_eq (s : State) (st : ArmState) :
    s.motionTimeout st = if st = .lowering then s.item 8 else s.item 9 := by
  simp only [State.motionTimeout, beq_iff_eq]

/-! ## From the fields to the three levels -/

/-- Level 2 shares the room the lifts leave (R160). -/
theorem Flow.settle_rotation {f : Flow} (asked : f.SameAsked f.settle) (a : Arm) : f.settle.rotGrant.get a =
    if f.rotDemand.sum ≤ f.capacity - f.settle.liftGrant.sum then f.rotDemand.get a
    else f.rotDemand.get a * (f.capacity - f.settle.liftGrant.sum) / f.rotDemand.sum := by
  have shared : f.settle.rotGrant = if f.settle.rotDemand.sum ≤ f.settle.capacity - f.settle.liftGrant.sum then
      f.settle.rotDemand else f.settle.rotDemand.map fun d => d * (f.settle.capacity - f.settle.liftGrant.sum) /
        f.settle.rotDemand.sum := rfl
  rw [shared, asked.rotation, asked.capacity]
  split
  · rfl
  · rw [PerArm.get_map]

/-- Level 1 takes the lesser of its demand and what remains (R161). -/
theorem Flow.settle_pump {f : Flow} (asked : f.SameAsked f.settle) : f.settle.pumpGrant =
    min f.pumpDemand (f.capacity - (f.settle.liftGrant.sum + f.settle.rotGrant.sum)) := by
  have rest : f.settle.pumpGrant =
    min f.settle.pumpDemand (f.settle.capacity - (f.settle.liftGrant.sum + f.settle.rotGrant.sum)) := rfl
  rw [rest, asked.pump, asked.capacity]

/-- The factor held for FLOW_SHORT, level by level (R162). -/
theorem Regranted.factors {s t : State} (h : Regranted s t) {x : Station} (hx : s.attends x = true) :
    let held := (t.notices.get x).held[(13 : Fin 24)]
    let record := fun n d => some (⟨.level n, d, s.time, none⟩ : HeldRecord)
    (s.flow.short1 = false → t.flow.short1 = true →
      held = record 1 (.flowShort t.flow.capacity t.flow.pumpDemand t.flow.pumpGrant none)) ∧
    ((s.flow.short1 = true ∨ t.flow.short1 = false) →
      (s.flow.short2 = false → t.flow.short2 = true →
        held = record 2 (.flowShort t.flow.capacity t.flow.rotDemand.sum t.flow.rotGrant.sum none)) ∧
      ((s.flow.short2 = true ∨ t.flow.short2 = false) →
        (s.flow.short3 = false → t.flow.short3 = true → held = record 3 (.flowShort t.flow.capacity t.flow.liftDemand.sum
          t.flow.liftGrant.sum (some t.flow.queue.length))) ∧
        ((s.flow.short3 = true ∨ t.flow.short3 = false) → held = (s.notices.get x).held[(13 : Fin 24)]))) := by
  intro held record
  have last := h.held x hx
  rw [shortRaises_last] at last
  have stays : ∀ {was now : Bool}, was = true ∨ now = false → ¬(!was && now) = true := by
    rintro was now (rfl | rfl) <;> simp
  have raised : ∀ {was now : Bool}, was = false → now = true → (!was && now) = true := by
    rintro was now rfl rfl
    rfl
  refine ⟨fun was now => ?_, fun one => ⟨fun was now => ?_, fun two => ⟨fun was now => ?_, fun three => ?_⟩⟩⟩
  · rw [if_pos (raised was now)] at last
    exact last
  · rw [if_neg (stays one), if_pos (raised was now)] at last
    exact last
  · rw [if_neg (stays one), if_neg (stays two), if_pos (raised was now)] at last
    exact last
  · rw [if_neg (stays one), if_neg (stays two), if_neg (stays three)] at last
    exact last

/-- An arm's record by the grants it then holds. -/
theorem Regranted.arm_grants {s t : State} (h : Regranted s t) (a : Arm) :
    t.arm a = ((s.arm a).takeLift (t.arm a).liftGrant (s.motionTimeout (s.arm a).state)).takeRotation
      (t.arm a).rotGrant (s.item 12) ∧
    (t.arm a).liftGrant = t.flow.liftGrant.get a ∧ (t.arm a).rotGrant = t.flow.rotGrant.get a := by
  have arm := h.arm a
  have lift : (t.arm a).liftGrant = s.flow.settle.liftGrant.get a := by
    rw [arm]
    exact ArmUnit.takeLift_grant _ _ _
  have rotation : (t.arm a).rotGrant = s.flow.settle.rotGrant.get a := by
    rw [arm]
    rfl
  refine ⟨?_, ?_, ?_⟩
  · rw [lift, rotation]
    exact arm
  · rw [lift, h.flow]
    rfl
  · rw [rotation, h.flow]
    rfl

/-- One reallocation over lawful lists is that of R157 to R163. -/
theorem Regranted.reallocated {s t : State} (h : Regranted s t) (lawful : s.flow.listsLawful) : Reallocated s t := by
  obtain ⟨asked, lifts⟩ := Flow.settle_spec lawful
  have flow := h.flow
  have capacity : t.flow.capacity = s.flow.capacity := by rw [flow]; exact asked.capacity
  have lift : t.flow.liftDemand = s.flow.liftDemand := by rw [flow]; exact asked.lifts
  have rotation : t.flow.rotDemand = s.flow.rotDemand := by rw [flow]; exact asked.rotation
  have pump : t.flow.pumpDemand = s.flow.pumpDemand := by rw [flow]; exact asked.pump
  have short2 : t.flow.short2 = true ↔ ∃ a, t.flow.rotGrant.get a < t.flow.rotDemand.get a := by
    rw [flow]
    exact Flow.isShort2_iff _
  refine { lifts := ?_, rotation := ?_, pump := ?_, posted := fun a => ?_, starts := fun a waits pos => ?_
           pauses := fun a moves zero => ?_, goesOn := fun a waits moves => ?_, turns := fun a down full => ?_
           sprays := ?_, flags := ⟨?_, short2, ?_⟩, factors := fun x hx => ?_, offered := fun short => ?_
           cleared := fun was now => ?_, untouched := fun was now => ?_ }
  · rw [flow]
    exact lifts
  · rw [flow]
    exact fun a => Flow.settle_rotation asked a
  · rw [flow]
    exact Flow.settle_pump asked
  · obtain ⟨-, lift, rotation⟩ := h.arm_grants a
    exact ⟨lift, rotation⟩
  · obtain ⟨arm, -, -⟩ := h.arm_grants a
    rw [ArmUnit.takeLift_starts _ waits pos] at arm
    rw [arm, ← motionTimeout_eq]
    exact ⟨rfl, rfl, rfl, rfl⟩
  · obtain ⟨arm, -, -⟩ := h.arm_grants a
    rw [zero, ArmUnit.takeLift_pauses _ moves] at arm
    rw [arm]
    refine ⟨rfl, rfl, rfl, fun n runs => ?_⟩
    show (s.arm a).motionTimer.pause = _
    rw [runs]
    rfl
  · obtain ⟨arm, -, -⟩ := h.arm_grants a
    rw [ArmUnit.takeLift_goesOn _ waits moves] at arm
    rw [arm]
    exact ⟨rfl, rfl, rfl, rfl⟩
  · obtain ⟨arm, -, -⟩ := h.arm_grants a
    rw [arm]
    refine ArmUnit.rotOut_turns ?_ full
    rwa [← ArmUnit.takeLift_state (s.arm a) (t.arm a).liftGrant (s.motionTimeout (s.arm a).state)] at down
  · rw [h.spray, flow]
    exact ⟨rfl, percentOf_full _, rfl⟩
  · rw [flow]
    exact Flow.isShort3_iff _
  · rw [flow]
    exact Flow.isShort1_iff _
  · rw [← capacity, ← lift, ← rotation, ← pump]
    exact h.factors hx
  · obtain ⟨last, c, l, travel⟩ := h.offered short
    refine ⟨_, Flow.offerAt_isOffer (short2.1 short) _, last, ?_⟩
    rw [travel]
    exact ⟨rfl, rfl, rfl⟩
  · obtain ⟨c, l, travel⟩ := h.cleared was now
    rw [travel]
    exact ⟨rfl, rfl, rfl⟩
  · obtain ⟨last, c, l, travel⟩ := h.untouched was now
    rw [travel]
    exact ⟨rfl, rfl, rfl, last⟩

end Sys2Proof.Machine
end

section
/-! PROOFS. ENGINE_REPORT and the staleness timer. -/

namespace Sys2Proof.Machine

set_option Elab.async false

/-! ## A capacity recomputed (R153, R157) -/

/-- A state whose capacity has been set from c, with the reallocation that follows where it changed. -/
def State.capacitySet (c : Nat) (u : State) : State := if u.flow.capacity = c then u else u.needRealloc

theorem recomputeCapacity_eq (s : State) : recomputeCapacity s =
    State.capacitySet s.flow.capacity { s with flow := { s.flow with capacity := s.capacityNow } } := by
  unfold recomputeCapacity State.capacitySet
  by_cases same : s.capacityNow = s.flow.capacity
  · rw [if_pos same, if_pos same, same]
  · rw [if_neg same, if_neg same]
    rfl

theorem finish_capacitySet_same {u : State} {c : Nat} (hq : Quiet u) (same : u.flow.capacity = c) :
    finish (u.capacitySet c) = u := by
  rw [State.capacitySet, if_pos same]
  exact finish_clear hq.work

theorem finish_capacitySet_ended {u : State} (c : Nat) (hq : Quiet u) (hn : NoReactions u) :
    Ended u (finish (u.capacitySet c)) := by
  by_cases same : u.flow.capacity = c
  · rw [finish_capacitySet_same hq same]
    exact .refl u
  · rw [State.capacitySet, if_neg same]
    have due : u.needRealloc.work = { Work.clear with realloc := true } := by
      rw [State.needRealloc, State.modWork_work, hq.work]
    exact (Ended.modWork u _).trans (Ended.finish (s := u.needRealloc) hn hq.noReset (by rw [due]; rfl) (by rw [due]; rfl)
      (by rw [due]; rfl))

theorem finish_capacitySet_reallocated {u : State} {c : Nat} (hq : Quiet u) (hn : NoReactions u) (changed : u.flow.capacity ≠ c)
    (lawful : u.flow.listsLawful) : Reallocated u (finish (u.capacitySet c)) := by
  rw [State.capacitySet, if_neg changed]
  exact (finish_needRealloc_regranted hq hn).reallocated lawful

/-! ## ENGINE_REPORT (R108, R153, R154) -/

/-- A report taken: the speed, the mark, the timer and the capacity. -/
def State.engineTaken (v : Nat) (s : State) : State := { s with flow := { s.flow with
  lastEngine := some v, mark := .fresh, timer := .running 1000, capacity := s.item 19 * min v (s.item 21) / s.item 21 } }

theorem takeEngine_eq (v : Nat) (s : State) : takeEngine v s = (s.engineTaken v).capacitySet s.flow.capacity :=
  recomputeCapacity_eq _

theorem capacitySet_links (c : Nat) (u : State) (k : PerStation Link) :
    { u.capacitySet c with links := k } = State.capacitySet c { u with links := k } := by
  unfold State.capacitySet
  split <;> rfl

section Engine

variable {l : Station} {tag : Byte} {ps : List Byte} {s : State} (sent : Sent Form.engineReport l ps s) (hq : Quiet s)
include sent hq

theorem exec_engineReport_badParam (high : 6000 < wordAt ps 0) :
    exec (.engineReport l tag ps) s = .next (replied Form.engineReport l tag ps .badParam .none s) :=
  congrArg Host.Outcome.next (serveEvent_done (owner := fun _ => engineReportOwner) sent tag (if_pos high) rfl hq.work)

theorem exec_engineReport_takes (range : wordAt ps 0 ≤ 6000) : ∃ t, exec (.engineReport l tag ps) s = .next t ∧
    Served Form.engineReport l tag ps .ok .none s t ∧
    t = finish (((replied Form.engineReport l tag ps .ok .none s).engineTaken (wordAt ps 0)).capacitySet s.flow.capacity) := by
  have answer : engineReportOwner l ps (heard Form.engineReport l tag ps s) =
      ⟨.ok, .none, takeEngine (wordAt ps 0) (heard Form.engineReport l tag ps s)⟩ := if_neg (Nat.not_lt.2 range)
  have cascade := takeEngine_cascade (wordAt ps 0) (heard Form.engineReport l tag ps s)
  obtain ⟨-, served⟩ := served_finish (heard_kept Form.engineReport l tag ps s) rfl rfl rfl rfl cascade sent answer
    (settle_reset (s := { takeEngine (wordAt ps 0) (heard Form.engineReport l tag ps s) with
      links := linksAfter Form.engineReport l tag ps .ok .none s }) (cascade.pendingReset.trans hq.noReset)
      (cascade.reset hq.noReset (congrArg Work.reset hq.work)))
  refine ⟨_, rfl, served, ?_⟩
  refine (serveEvent_finish (owner := fun _ => engineReportOwner) sent answer cascade.links).trans (congrArg finish ?_)
  rw [takeEngine_eq]
  exact capacitySet_links _ _ _

end Engine

/-! ## The staleness timer (R155) -/

/-- A report gone stale: the mark, the timer and the idle capacity. -/
def State.stalled (s : State) : State :=
  { s with flow := { s.flow with mark := .stale, timer := .stopped, capacity := s.item 20 } }

def State.staleRaise (s : State) : Raise :=
  ⟨.none, .engineStale s.flow.lastEngine s.flow.capacity (s.item 20), s.time, .every none⟩

theorem capacitySet_deliver (c : Nat) (r : Raise) (u : State) :
    deliver r none (u.capacitySet c) = (deliver r none u).capacitySet c := by
  unfold State.capacitySet
  by_cases same : u.flow.capacity = c
  · rw [if_pos same]
    exact (if_pos (c := (deliver r none u).flow.capacity = c) same).symm
  · rw [if_neg same]
    exact (if_neg (c := (deliver r none u).flow.capacity = c) same).symm

/-- With no reaction bound the idle capacity is set and ENGINE_REPORT_STALE delivered, before any reallocation. -/
theorem stalenessExpiry_plain {s : State} (hn : NoReactions s) :
    stalenessExpiry raiseFactor s = (deliver s.staleRaise none s.stalled).capacitySet s.flow.capacity := by
  have stale : recomputeCapacity (s.modFlow fun f => { f with mark := .stale, timer := .stopped }) =
      s.stalled.capacitySet s.flow.capacity := recomputeCapacity_eq _
  have told : (s.stalled.capacitySet s.flow.capacity).raiseOf .none
      (.engineStale s.flow.lastEngine s.flow.capacity (s.stalled.capacitySet s.flow.capacity).flow.capacity) =
        s.staleRaise := by
    unfold State.capacitySet
    split <;> rfl
  have unbound : NoReactions (s.stalled.capacitySet s.flow.capacity) := by
    unfold State.capacitySet
    split <;> exact hn
  unfold stalenessExpiry
  rw [stale]
  dsimp only
  rw [told, raiseFactor_plain unbound]
  exact capacitySet_deliver _ _ _

theorem stalenessExpiry_cascade (s : State) : Cascade s (stalenessExpiry raiseFactor s) :=
  ((Cascade.modFlowIdle s (fun f => { f with mark := .stale, timer := .stopped }) id rfl id).trans
    (Cascade.recomputeCapacity _)).trans (Cascade.raiseFactor _ _)

/-- Settles O41: the values a report or its absence sets, then the one reallocation where the capacity changed. -/
theorem engineReportsSetTheCapacity : Obligations.EngineReportsSetTheCapacity := by
  refine ⟨fun l tag ps s sent hq => ⟨exec_engineReport_badParam sent hq, fun range => ?_⟩, fun s hq due => ?_⟩
  · obtain ⟨t, ht, served, rfl⟩ := exec_engineReport_takes (tag := tag) sent hq range
    have quiet : Quiet ((replied Form.engineReport l tag ps .ok .none s).engineTaken (wordAt ps 0)) := ⟨hq.work, hq.noReset⟩
    exact ⟨_, ht, served, fun same => finish_capacitySet_same quiet same,
      fun hn => ⟨finish_capacitySet_ended _ quiet hn, fun changed lawful =>
        finish_capacitySet_reallocated quiet hn changed lawful⟩⟩
  · obtain ⟨untouched, capture, switches⟩ :=
      (stalenessExpiry_cascade s).finish_untouched hq.noReset (congrArg Work.reset hq.work)
    refine ⟨_, congrArg Host.Outcome.next (if_pos (Timer.due_of_running_zero due)), untouched, capture, switches, fun hn => ?_⟩
    have quiet : Quiet (deliver s.staleRaise none s.stalled) := ⟨hq.work, hq.noReset⟩
    have ends : event stalenessExpiry s = finish _ := congrArg finish (stalenessExpiry_plain hn)
    rw [ends]
    exact ⟨finish_capacitySet_ended _ quiet hn, fun changed lawful =>
      finish_capacitySet_reallocated (c := s.flow.capacity) quiet hn changed lawful⟩

end Sys2Proof.Machine
end

section
/-! PROOFS. The end of an event where no entry answers its factors. -/

namespace Sys2Proof.Machine

set_option Elab.async false

/-! ## The passes where no entry answers CEILING_CHANGED or FLOW_SHORT (R100, R157, R176) -/

/-- No entry answers what the passes raise, and no cap has been met at its hand-over. -/
structure Unwoken (s : State) : Prop where
  ceiling : s.Deaf 12
  short : s.Deaf 13
  reached : s.work.reached = []

/-- What the passes leave, with the caps met at their hand-over. -/
structure Winds (s t : State) : Prop extends Ended s t where
  reached : t.work.reached = s.work.reached

theorem Winds.refl (s : State) : Winds s s := ⟨.refl s, rfl⟩

theorem Winds.trans {s t u : State} (h : Winds s t) (k : Winds t u) : Winds s u :=
  ⟨h.toEnded.trans k.toEnded, k.reached.trans h.reached⟩

theorem State.Deaf.congr {s t : State} {k : Fin 24} (h : s.Deaf k) (e : t.reactions = s.reactions) : t.Deaf k := by
  unfold State.Deaf
  rw [e]
  exact h

theorem Unwoken.of_winds {s t : State} (h : Unwoken s) (k : Winds s t) : Unwoken t :=
  ⟨h.ceiling.congr k.reactions, h.short.congr k.reactions, k.reached.trans h.reached⟩

theorem NoReactions.unwoken {s : State} (h : NoReactions s) (hr : s.work.reached = []) : Unwoken s :=
  ⟨h.deaf 12, h.deaf 13, hr⟩

theorem Winds.raise {s : State} {r : Raise} {k : Fin 24} (deaf : s.Deaf k) (hr : r.detail.factor = k)
    (hk : k = 12 ∨ k = 13) (n : Nat) : Winds s (raiseWith n r s) := by
  rw [raiseWith_untaken (deaf.untaken hr)]
  exact ⟨.deliver (by rw [hr]; exact hk) _ _, rfl⟩

theorem Winds.raiseAll (n : Nat) {l : List Raise} (hl : ∀ r ∈ l, r.detail.factor = 13) {s : State} (deaf : s.Deaf 13) :
    Winds s (raiseAll (raiseWith n) l s) := by
  induction l generalizing s with
  | nil => exact .refl s
  | cons r l ih =>
    have first := Winds.raise deaf (hl r List.mem_cons_self) (.inr rfl) n
    exact first.trans (ih (fun q hq => hl q (List.mem_cons_of_mem _ hq)) (deaf.congr first.reactions))

theorem Winds.reallocPass (n : Nat) {s : State} (deaf : s.Deaf 13) : Winds s (reallocPass (raiseWith n) s) := by
  have made : Winds s (reallocate s).1 := ⟨.reallocate s, reallocate_reached s⟩
  exact made.trans (.raiseAll n (fun r hr => (shortRaises_factor_audience _ _ r hr).1) (deaf.congr made.reactions))

theorem holdReached_none {s : State} (h : s.work.reached = []) : holdReached s = s := by
  rw [holdReached, h, List.foldl_nil]

theorem Winds.ceilingCheck (n : Nat) {s : State} (h : Unwoken s) : Winds s (ceilingCheck (raiseWith n) s) := by
  unfold Sys2Proof.Machine.ceilingCheck
  split
  · have set : Winds s ((s.modTravel fun g => { g with ceiling := s.lowestSource.1, limiting := s.lowestSource.2 }).modWork
        fun w => { w with ceiling := false }) := ⟨{ Ended.refl s with travel := rfl }, rfl⟩
    dsimp only
    split
    · exact set
    · have marked := set.trans (⟨Ended.modWork _ fun w => { w with ceilingRaised := true }, rfl⟩ : Winds _ _)
      rw [holdReached_none (marked.reached.trans h.reached)]
      exact marked.trans (.raise (k := 12) (h.of_winds marked).ceiling rfl (.inl rfl) n)
  · exact .refl s

theorem Winds.settlePass (n : Nat) {s : State} (h : Unwoken s) : Winds s (settlePass (raiseWith n) s) := by
  unfold Sys2Proof.Machine.settlePass
  split
  · split
    · exact .reallocPass n h.short
    · have checked := Winds.ceilingCheck n h
      exact checked.trans (.reallocPass n (h.of_winds checked).short)
  · exact .ceilingCheck n h

theorem Winds.settle (n : Nat) {s : State} (h : Unwoken s) : Winds s (settle n s) := by
  induction n generalizing s with
  | zero =>
    unfold Sys2Proof.Machine.settle
    split
    · have made := Winds.reallocPass 0 h.short
      exact made.trans (.ceilingCheck 0 (h.of_winds made))
    · exact .ceilingCheck 0 h
  | succ n ih =>
    unfold Sys2Proof.Machine.settle
    split
    · have pass := Winds.settlePass 8 h
      exact pass.trans (ih (h.of_winds pass))
    · exact .refl s

/-! ## The whole end (R106, R185) -/

/-- The REVERSE_BLOCKED that is due, delivered. -/
def State.blockedTold (s : State) : State :=
  match s.work.blocked with
  | some d => deliver ⟨.none, .reverseBlocked d (s.travel.armStowed.map (!·)), s.time, .every none⟩ none s
  | none => s

theorem blockedTold_some {s : State} {d : Int} (h : s.work.blocked = some d) : s.blockedTold =
    deliver ⟨.none, .reverseBlocked d (s.travel.armStowed.map (!·)), s.time, .every none⟩ none s := by
  rw [State.blockedTold, h]

/-- A REVERSE_BLOCKED changes the notices of factor 11 alone. -/
theorem blockedTold_notices (s : State) : ∃ n, s.blockedTold = { s with notices := n } ∧
    ∀ x (k : Fin 24), k ≠ 11 → (n.get x).held[k] = (s.notices.get x).held[k] := by
  unfold State.blockedTold
  split
  · exact ⟨_, rfl, fun x k hk => (deliver_held _ _ x k).trans (if_neg fun h => hk h.2)⟩
  · exact ⟨_, rfl, fun _ _ _ => rfl⟩

theorem raiseBlocked_told {s : State} (deaf : s.Deaf 11) :
    ∃ w, raiseBlocked raiseFactor s = s.blockedTold.modWork (fun _ => w) ∧ w.reached = s.work.reached ∧ w.reset = s.work.reset := by
  unfold raiseBlocked State.blockedTold
  cases s.work.blocked with
  | some d =>
    exact ⟨{ s.work with blocked := none }, raiseFactor_untaken (s := s.modWork _)
      (State.Deaf.untaken (k := 11) (deaf.congr rfl) rfl), rfl, rfl⟩
  | none => exact ⟨s.work, rfl, rfl, rfl⟩

/-- The end of an event whose factors no entry answers, with no settled reset pending: the REVERSE_BLOCKED that is due,
then the passes. -/
theorem finish_ended_unwoken {s : State} (blocked : s.Deaf 11) (h : Unwoken s) (hp : s.supervision.pendingReset = none)
    (hw : s.work.reset = none) : Ended s.blockedTold (finish s) := by
  obtain ⟨w, told, reached, -⟩ := raiseBlocked_told blocked
  obtain ⟨n, same, -⟩ := blockedTold_notices s
  have start : Unwoken (raiseBlocked raiseFactor s) := by
    rw [told, same]
    exact ⟨h.ceiling, h.short, reached.trans h.reached⟩
  have passes := Winds.settle 16 start
  have none : (settle 16 (raiseBlocked raiseFactor s)).work.reached = [] := passes.reached.trans start.reached
  have all : settleAll s = (settle 16 (raiseBlocked raiseFactor s)).modWork fun w => { w with reached := [] } := by
    unfold settleAll deliverReached freeReached
    rw [none]
    rfl
  rw [finish_calm (settle_reset hp hw), all]
  rw [told] at passes ⊢
  exact (((Ended.modWork _ _).trans passes.toEnded).trans (Ended.modWork _ _)).trans (Ended.modWork _ _)

end Sys2Proof.Machine
end

section
/-! PROOFS. What the announcement of an arm's change leaves as it was, whatever is bound elsewhere. -/

namespace Sys2Proof.Machine

set_option Elab.async false

/-! ## Raises that are deliveries while the entries stand (R176) -/

/-- A raise of factor k is a delivery while the entries are as given. -/
def Quells (raise : Raiser) (entries : Vector (Option Binding) 8) (k : Fin 24) : Prop :=
  ∀ r s, s.reactions = entries → r.detail.factor = k → raise r s = deliver r none s

theorem State.Deaf.quells {s : State} {k : Fin 24} (h : s.Deaf k) (n : Nat) : Quells (raiseWith n) s.reactions k :=
  fun _ t same factor => raiseWith_untaken (State.Deaf.untaken (s := t) (h.congr same) factor) n

/-- Every entry that is bound is in flight. -/
def State.Busy (s : State) : Prop := ∀ (e : EntryNo) b, s.reactions[e] = some b → b.held ≠ none

theorem State.Busy.quells {s : State} (h : s.Busy) (n : Nat) (k : Fin 24) : Quells (raiseWith n) s.reactions k :=
  fun _ t same _ => raiseWith_untaken (s := t) (fun e b bound _ => h e b (by rw [← same]; exact bound)) n

/-! ## What stands beside an announcement (R111, R112) -/

/-- What an arm's record says of its motion, its outputs and its copies apart. -/
structure Footing where
  motion : Motion
  sub : ArmSub
  liftPosted : Bool
  motionTimer : Timer
  reaction : Option EntryNo

def ArmUnit.footing (u : ArmUnit) : Footing := ⟨u.motion, u.sub, u.liftPosted, u.motionTimer, u.reaction⟩

/-- What the TG decides REVERSE_BLOCKED by (R106). -/
structure Backing where
  state : TravelState
  demand : Int
  reverseOpen : Bool
  armStowed : ArmSet

def Travel.backing (g : Travel) : Backing := ⟨g.state, g.demand, g.reverseOpen, g.armStowed⟩

/-- An operation that leaves the entries, the arms' footing, the TG's backing, and the factors that are not loud. -/
structure Bystands (loud : Fin 24 → Prop) (s t : State) : Prop where
  reactions : t.reactions = s.reactions
  arms : ∀ b, (t.arm b).footing = (s.arm b).footing
  travel : t.travel.backing = s.travel.backing
  blocked : t.work.blocked = s.work.blocked
  reached : t.work.reached = s.work.reached
  held : ∀ x k, ¬loud k → (t.notices.get x).held[k] = (s.notices.get x).held[k]

section Bystands

variable {loud : Fin 24 → Prop}

theorem Bystands.refl (s : State) : Bystands loud s s := ⟨rfl, fun _ => rfl, rfl, rfl, rfl, fun _ _ _ => rfl⟩

theorem Bystands.trans {s t u : State} (h : Bystands loud s t) (k : Bystands loud t u) : Bystands loud s u where
  reactions := k.reactions.trans h.reactions
  arms b := (k.arms b).trans (h.arms b)
  travel := k.travel.trans h.travel
  blocked := k.blocked.trans h.blocked
  reached := k.reached.trans h.reached
  held x n q := (k.held x n q).trans (h.held x n q)

theorem Bystands.modTravel (s : State) (f : Travel → Travel) (h : (f s.travel).backing = s.travel.backing := by rfl) :
    Bystands loud s (s.modTravel f) := { Bystands.refl s with travel := h }

theorem Bystands.modSpray (s : State) (f : Spray → Spray) : Bystands loud s (s.modSpray f) := { Bystands.refl s with }
theorem Bystands.modWater (s : State) (f : Water → Water) : Bystands loud s (s.modWater f) := { Bystands.refl s with }
theorem Bystands.modFlow (s : State) (f : Flow → Flow) : Bystands loud s (s.modFlow f) := { Bystands.refl s with }
theorem Bystands.modProfile (s : State) (f : Profiles → Profiles) : Bystands loud s (s.modProfile f) := { Bystands.refl s with }
theorem Bystands.modSupervision (s : State) (f : Supervision → Supervision) : Bystands loud s (s.modSupervision f) :=
  { Bystands.refl s with }

theorem Bystands.modWork (s : State) (f : Work → Work) (hb : (f s.work).blocked = s.work.blocked := by rfl)
    (hr : (f s.work).reached = s.work.reached := by rfl) : Bystands loud s (s.modWork f) :=
  { Bystands.refl s with blocked := hb, reached := hr }

theorem Bystands.modArm (s : State) (a : Arm) (f : ArmUnit → ArmUnit)
    (h : (f (s.arm a)).footing = (s.arm a).footing := by rfl) : Bystands loud s (s.modArm a f) :=
  { Bystands.refl s with
    arms := fun b => by
      rw [State.arm_modArm]
      split
      · rename_i e
        rw [h, e]
      · rfl }

theorem Bystands.deliver {r : Raise} (hr : loud r.detail.factor) (s : State) : Bystands loud s (deliver r none s) :=
  { Bystands.refl (loud := loud) s with
    held := fun x k hk => (deliver_held _ _ x k).trans (if_neg fun ⟨_, factor⟩ => hk (factor ▸ hr)) }

theorem Bystands.raise {raise : Raiser} {s : State} {r : Raise} (quells : Quells raise s.reactions r.detail.factor)
    (hr : loud r.detail.factor) : Bystands loud s (raise r s) := by
  rw [quells r s rfl rfl]
  exact .deliver hr s

theorem Bystands.needRealloc (s : State) : Bystands loud s s.needRealloc := .modWork s _
theorem Bystands.needCeiling (s : State) : Bystands loud s s.needCeiling := .modWork s _

theorem Bystands.postRotation (a : Arm) (d : Nat) (s : State) : Bystands loud s (postRotation a d s) := by
  unfold Sys2Proof.Machine.postRotation
  split
  · exact .refl s
  · exact (Bystands.modFlow s _).trans (.needRealloc _)

theorem Bystands.postPump (d : Nat) (s : State) : Bystands loud s (postPump d s) := by
  unfold Sys2Proof.Machine.postPump
  split
  · exact .refl s
  · exact (Bystands.modFlow s _).trans (.needRealloc _)

theorem Bystands.evaluateZones (s : State) : Bystands loud s (evaluateZones s) :=
  (Bystands.modSpray s _).trans (Bystands.postPump _ _)

theorem ArmUnit.refresh_footing (u : ArmUnit) (full m n : Nat) : (u.refresh full m n).footing = u.footing := by
  obtain ⟨x, y, refreshed⟩ := ArmUnit.refresh_eq u full m n
  rw [refreshed]
  rfl

theorem Bystands.refreshArm (a : Arm) (s : State) : Bystands loud s (refreshArm a s) :=
  (Bystands.modArm s a _ (ArmUnit.refresh_footing _ _ _ _)).trans (.postRotation _ _ _)

theorem Bystands.handValues (s : State) : Bystands loud s (handValues s) := by
  have taken : ∀ v a u, Bystands loud u (armTakesValues v a u) := fun v a u => (Bystands.modArm u a _).trans (.refreshArm a _)
  exact (((((Bystands.modTravel s _).trans (.needCeiling _)).trans (taken _ _ _)).trans (taken _ _ _)).trans
    (taken _ _ _)).trans ((Bystands.modSpray _ _).trans (.evaluateZones _))

theorem Bystands.moveSlots (s : State) (u v : SlotUse) : Bystands loud s (s.moveSlots u v) := { Bystands.refl s with }

theorem Bystands.endSlots (k : ChangeKind) (s : State) : Bystands loud s (endSlots k s) := by
  cases k
  case select | abortReturn => exact (Bystands.moveSlots s _ _).trans (Bystands.moveSlots _ _ _)
  case toTransport => exact Bystands.moveSlots s _ _
  case reapply => exact .refl s

variable {raise : Raiser}

/-- A changeover that completes raises CHANGEOVER_DONE (4) (R60). -/
theorem Bystands.completeIfDone {s : State} (quells : Quells raise s.reactions 4) (h4 : loud 4) :
    Bystands loud s (completeIfDone raise s) := by
  unfold Sys2Proof.Machine.completeIfDone
  split
  · rename_i c _
    split
    · exact .refl s
    · split
      · have handed : Bystands loud s (Sys2Proof.Machine.handValues (Sys2Proof.Machine.endSlots c.kind s).dropRecord) :=
          ((Bystands.endSlots c.kind s).trans (.modProfile _ _)).trans (.handValues _)
        exact handed.trans (.raise (by rw [handed.reactions]; exact quells) h4)
      · exact .refl s
  · exact .refl s

theorem Bystands.changeoverProgress {s : State} (quells : Quells raise s.reactions 4) (h4 : loud 4) (a : Arm) (st : ArmState) :
    Bystands loud s (changeoverProgress raise a st s) := by
  unfold Sys2Proof.Machine.changeoverProgress
  split
  · exact .refl s
  · split
    · exact .refl s
    · split
      · exact (Bystands.modProfile s _).trans (.completeIfDone (s := s.modProfile _) quells h4)
      · exact .refl s

theorem Bystands.superTakesArm (a : Arm) (st : ArmState) (s : State) : Bystands loud s (superTakesArm a st s) := by
  rw [superTakesArm_eq]
  exact (Bystands.modSupervision s _).trans (.modWork _ _)

theorem Bystands.louder {s t : State} {more : Fin 24 → Prop} (h : Bystands loud s t) (hl : ∀ k, loud k → more k) :
    Bystands more s t := { h with held := fun x k hk => h.held x k fun q => hk (hl k q) }

end Bystands

/-! ## A report, and an announcement that completes nothing (R106, R112) -/

/-- The TG's backing after an arm's report: the reverse ceiling is open where every arm is STOWED (R106). -/
def Backing.report (a : Arm) (stowed : Bool) (g : Backing) : Backing :=
  { g with armStowed := g.armStowed.set a stowed, reverseOpen := PerArm.allSet (g.armStowed.set a stowed) }

/-- The REVERSE_BLOCKED that a report makes due (R106). -/
def Backing.blocks (a : Arm) (stowed : Bool) (g : Backing) : Bool :=
  g.reverseOpen && !PerArm.allSet (g.armStowed.set a stowed) && g.state == .drive && decide (g.demand < 0)

/-- An arm's change reported as it stands: the TG's backing and the REVERSE_BLOCKED due, the rest as a bystander. -/
structure Reports (loud : Fin 24 → Prop) (a : Arm) (s t : State) : Prop where
  reactions : t.reactions = s.reactions
  arms : ∀ b, (t.arm b).footing = (s.arm b).footing
  travel : t.travel.backing = s.travel.backing.report a ((s.arm a).state == .stowed)
  blocked : t.work.blocked =
    if s.travel.backing.blocks a ((s.arm a).state == .stowed) then some s.travel.demand else s.work.blocked
  reached : t.work.reached = s.work.reached
  held : ∀ x k, ¬loud k → (t.notices.get x).held[k] = (s.notices.get x).held[k]

section Reports

variable {loud : Fin 24 → Prop} {raise : Raiser} {a : Arm}

theorem Bystands.reports {s t u : State} (h : Bystands loud s t) (k : Reports loud a t u) : Reports loud a s u := by
  have state : (t.arm a).state = (s.arm a).state := congrArg (fun f => f.motion.state) (h.arms a)
  have demand : t.travel.demand = s.travel.demand := congrArg Backing.demand h.travel
  have travel := k.travel
  have blocked := k.blocked
  rw [state, h.travel] at travel
  rw [state, h.travel, h.blocked, demand] at blocked
  exact ⟨k.reactions.trans h.reactions, fun b => (k.arms b).trans (h.arms b), travel, blocked, k.reached.trans h.reached,
    fun x n q => (k.held x n q).trans (h.held x n q)⟩

theorem Reports.bystands {s t u : State} (h : Reports loud a s t) (k : Bystands loud t u) : Reports loud a s u :=
  ⟨k.reactions.trans h.reactions, fun b => (k.arms b).trans (h.arms b), k.travel.trans h.travel, k.blocked.trans h.blocked,
    k.reached.trans h.reached, fun x n q => (k.held x n q).trans (h.held x n q)⟩

theorem Reports.travelTakesArm (moving : Bool) (s : State) :
    Reports loud a s (travelTakesArm a ((s.arm a).state == .stowed) moving s) := by
  generalize stows : ((s.arm a).state == .stowed) = stowed
  have taken : ∃ w : Work, w.blocked = s.work.blocked ∧ w.reached = s.work.reached ∧
      (if (s.travel.armMoving.get a != moving) = true then (s.modTravel fun g =>
          { g with armStowed := g.armStowed.set a stowed, armMoving := g.armMoving.set a moving }).needCeiling
        else s.modTravel fun g => { g with armStowed := g.armStowed.set a stowed, armMoving := g.armMoving.set a moving }) =
      { s with work := w, travel := { s.travel with
        armStowed := s.travel.armStowed.set a stowed, armMoving := s.travel.armMoving.set a moving } } := by
    split
    · exact ⟨s.needCeiling.work, rfl, rfl, rfl⟩
    · exact ⟨s.work, rfl, rfl, rfl⟩
  obtain ⟨w, blocked, reached, taken⟩ := taken
  have held : ∀ t : State, t.notices = s.notices → ∀ x k, ¬loud k →
      (t.notices.get x).held[k] = (s.notices.get x).held[k] := fun t e x k _ => by rw [e]
  unfold Sys2Proof.Machine.travelTakesArm
  dsimp only
  rw [taken]
  dsimp only
  cases shut : s.travel.reverseOpen && !PerArm.allSet (s.travel.armStowed.set a stowed)
  · rw [if_neg (by decide)]
    refine ⟨rfl, fun _ => rfl, by rw [stows]; rfl, ?_, reached, held _ rfl⟩
    rw [stows, Backing.blocks]
    rw [show (s.travel.backing.reverseOpen && !PerArm.allSet (s.travel.backing.armStowed.set a stowed)) = false from shut]
    exact blocked
  · obtain ⟨-, notAll⟩ := Bool.and_eq_true_iff.1 shut
    have closed : PerArm.allSet (s.travel.armStowed.set a stowed) = false := by simpa using notAll
    rw [if_pos rfl]
    have blocks : s.travel.backing.blocks a stowed = (s.travel.state == .drive && decide (s.travel.demand < 0)) := by
      rw [Backing.blocks]
      rw [show (s.travel.backing.reverseOpen && !PerArm.allSet (s.travel.backing.armStowed.set a stowed)) = true from shut]
      rfl
    have backing : ({ s.travel.backing with armStowed := s.travel.armStowed.set a stowed, reverseOpen := false } : Backing) =
        s.travel.backing.report a stowed := by
      rw [Backing.report, ← closed]
      rfl
    split
    · rename_i drives
      refine ⟨rfl, fun _ => rfl, by rw [stows]; exact backing, ?_, reached, held _ rfl⟩
      rw [stows, blocks]
      exact (if_pos drives).symm
    · rename_i drives
      refine ⟨rfl, fun _ => rfl, by rw [stows]; exact backing, ?_, reached, held _ rfl⟩
      rw [stows, blocks]
      exact blocked.trans (if_neg drives).symm

/-- R112: a report where CHANGEOVER_DONE (4) is not answered. -/
theorem reportArm_reports {s : State} (quells : Quells raise s.reactions 4) (h4 : loud 4) (st : ArmState) :
    Reports loud a s (reportArm raise a st s) := by
  have told := Reports.travelTakesArm (loud := loud) (a := a) ((s.arm a).state == .lowering || (s.arm a).state == .raising) s
  unfold reportArm
  dsimp only
  generalize Machine.travelTakesArm a _ _ s = t at told
  have sprayed : Bystands loud t (sprayTakesArm a (t.arm a).state t) := (Bystands.modSpray t _).trans (.evaluateZones _)
  have watered : Bystands loud t (waterTakesArm a ((sprayTakesArm a (t.arm a).state t).arm a).state
      (sprayTakesArm a (t.arm a).state t)) := sprayed.trans (Bystands.modWater _ _)
  have rest := watered.trans (Bystands.superTakesArm a ((waterTakesArm a ((sprayTakesArm a (t.arm a).state t).arm a).state
    (sprayTakesArm a (t.arm a).state t)).arm a).state _)
  exact (told.bystands rest).bystands (.changeoverProgress (by rw [rest.reactions, told.reactions]; exact quells) h4 a st)

end Reports

end Sys2Proof.Machine
end

section
/-! PROOFS. ARM_LOWER. -/

namespace Sys2Proof.Machine

set_option Elab.async false

/-! ## An announcement that completes nothing (R111, R112) -/

theorem Bystands.raiseArm {raise : Raiser} {s : State} (quells : ∀ k, Quells raise s.reactions k) (a : Arm)
    (factors : List (ArmUnit → Detail)) : Bystands (fun _ => True) s (raiseArm raise a factors s) := by
  induction factors generalizing s with
  | nil => exact .refl s
  | cons d l ih =>
    have first : Bystands (fun _ => True) s (raise (s.raiseOf (.arm a) (d (s.arm a))) s) := .raise (quells _) trivial
    exact first.trans (ih (by rw [first.reactions]; exact quells))

theorem announce_reports {raise : Raiser} {s : State} (quells : ∀ k, Quells raise s.reactions k) (a : Arm) (st : ArmState)
    (factors : List (ArmUnit → Detail)) :
    Reports (fun _ => True) a s (announce raise a st factors none s) := by
  have refreshed := Bystands.refreshArm (loud := fun _ => True) a s
  have raised := refreshed.trans (.raiseArm (by rw [refreshed.reactions]; exact quells) a factors)
  exact raised.reports (reportArm_reports (by rw [raised.reactions]; exact quells 4) trivial st)

/-! ## Entering and reversing to a lowering (R118, R119, R122) -/

theorem State.arm_modArm_same (s : State) (a : Arm) (f : ArmUnit → ArmUnit) : (s.modArm a f).arm a = f (s.arm a) :=
  (State.arm_modArm s a a f).trans (if_pos rfl)

theorem PostsArm.withdrawLift (a : Arm) (s : State) : PostsArm a s (withdrawLift a s) := by
  have h := PostsArm.modArm a (fun u => { u with liftPosted := false, liftGrant := 0 }) s
  unfold Sys2Proof.Machine.withdrawLift
  dsimp only
  split
  · exact h
  · exact h.trans ⟨⟨⟨rfl, rfl, rfl, rfl, rfl⟩, rfl, rfl⟩, rfl, rfl, fun _ _ => rfl⟩

theorem withdrawLift_arm (a : Arm) (s : State) :
    (withdrawLift a s).arm a = { s.arm a with liftPosted := false, liftGrant := 0 } := by
  have h := State.arm_modArm_same s a fun u => { u with liftPosted := false, liftGrant := 0 }
  unfold withdrawLift
  dsimp only
  split <;> exact h

theorem PostsArm.awaitFlow (a : Arm) (s : State) : PostsArm a s (awaitFlow a s) :=
  (PostsArm.modArm a _ s).trans (PostsArm.postLift a _)

theorem awaitFlow_arm (a : Arm) (s : State) :
    (awaitFlow a s).arm a = { s.arm a with sub := .awaitingFlow, liftPosted := true } := by
  rw [awaitFlow, postLift_arm, State.arm_modArm_same]

theorem PostsArm.bystands {loud : Fin 24 → Prop} {a : Arm} {s t : State} (h : PostsArm a s t)
    (arm : (t.arm a).footing = (s.arm a).footing) : Bystands loud s t where
  reactions := h.reactions
  arms b := by
    by_cases e : b = a
    · rw [e, arm]
    · rw [h.others b e]
  travel := by rw [h.travel]
  blocked := h.blocked
  reached := h.reached
  held x k _ := by rw [h.notices]

/-- An arm's footing after LOWER has begun or reversed a motion for a cause: on its way, or at its end where DOWN is
asserted (R118, R119, R122). -/
structure ArmUnit.Lowered (slow : Nat) (o : Origin) (u : ArmUnit) (f : Footing) : Prop where
  target : f.motion.target = .down
  goes : u.down = false → f.motion.state = .lowering ∧ f.motion.origin = o
  fast : u.down = false → slow < u.wheelSpeed.natAbs →
    f.sub = .awaitingSpeed ∧ f.liftPosted = (u.state != .raising && u.liftPosted)
  slowly : u.down = false → u.wheelSpeed.natAbs ≤ slow → u.state ≠ .raising → f.sub = .awaitingFlow ∧ f.liftPosted = true
  ends : u.down = true → f.motion.state = (if u.contact then .deflected else .working) ∧ f.motion.origin = .none ∧
    f.sub = .none ∧ f.motionTimer = .stopped ∧ f.liftPosted = false

/-- LOWER announces, behind changes of its arm's record and of what is posted, the arm it has lowered. -/
def LowerAnnounced (raise : Raiser) (a : Arm) (o : Origin) (s t : State) : Prop :=
  ∃ w st factors, t = announce raise a st factors none w ∧ PostsArm a s w ∧
    ArmUnit.Lowered (s.item 7) o (s.arm a) (w.arm a).footing

section Lower

variable {raise : Raiser} {a : Arm} {o : Origin} {s : State}

/-- The record from which LOWER goes on. -/
def ArmUnit.toDown (o : Origin) (u : ArmUnit) : ArmUnit := { u with target := .down, origin := o, motionTimer := .stopped }

theorem endLowering_announced (down : (s.arm a).down = true) :
    LowerAnnounced raise a o s (endLowering raise a (s.modArm a (ArmUnit.toDown o))) := by
  refine ⟨_, _, _, rfl, ((PostsArm.modArm a _ s).trans (PostsArm.withdrawLift a _)).trans (PostsArm.modArm a _ _), ?_⟩
  rw [State.arm_modArm_same, withdrawLift_arm, State.arm_modArm_same]
  exact ⟨rfl, fun up => absurd (up.symm.trans down) nofun, fun up => absurd (up.symm.trans down) nofun,
    fun up => absurd (up.symm.trans down) nofun, fun _ => ⟨rfl, rfl, rfl, rfl, rfl⟩⟩

theorem slowEnough_iff (s : State) (a : Arm) : s.slowEnough a = true ↔ (s.arm a).wheelSpeed.natAbs ≤ s.item 7 :=
  decide_eq_true_iff

/-- A lowering under way, from the record that goes down. -/
def ArmUnit.lowersWith (sub : ArmSub) (u : ArmUnit) : ArmUnit := { u with state := .lowering, sub := sub }

/-- The arm at its new record, LOWERING. -/
def State.loweringAt (s : State) (a : Arm) (o : Origin) (sub : ArmSub) : State :=
  (s.modArm a (ArmUnit.toDown o)).modArm a (ArmUnit.lowersWith sub)

theorem loweringAt_posts (s : State) (a : Arm) (o : Origin) (sub : ArmSub) : PostsArm a s (s.loweringAt a o sub) :=
  (PostsArm.modArm a _ s).trans (PostsArm.modArm a _ _)

theorem loweringAt_arm (s : State) (a : Arm) (o : Origin) (sub : ArmSub) :
    (s.loweringAt a o sub).arm a = ((s.arm a).toDown o).lowersWith sub := by
  rw [State.loweringAt, State.arm_modArm_same, State.arm_modArm_same]

theorem loweringAt_slowEnough (s : State) (a : Arm) (o : Origin) (sub : ArmSub) :
    (s.loweringAt a o sub).slowEnough a = true ↔ (s.arm a).wheelSpeed.natAbs ≤ s.item 7 := by
  rw [slowEnough_iff, loweringAt_arm, (loweringAt_posts s a o sub).item]
  rfl

/-- An announcement of an arm on its way down: the footing by the speed, with DOWN clear. -/
theorem lowering_announced (up : (s.arm a).down = false) {w : State} {st : ArmState} {factors : List (ArmUnit → Detail)}
    (posts : PostsArm a s w) {sub : ArmSub} {posted : Bool}
    {timer : Timer} (arm : (w.arm a).footing =
      ⟨{ (s.arm a).motion with state := .lowering, target := .down, origin := o }, sub, posted, timer, (s.arm a).reaction⟩)
    (fast : s.item 7 < (s.arm a).wheelSpeed.natAbs →
      sub = .awaitingSpeed ∧ posted = ((s.arm a).state != .raising && (s.arm a).liftPosted))
    (slow : (s.arm a).wheelSpeed.natAbs ≤ s.item 7 → (s.arm a).state ≠ .raising → sub = .awaitingFlow ∧ posted = true) :
    LowerAnnounced raise a o s (announce raise a st factors none w) := by
  refine ⟨w, st, factors, rfl, posts, ?_⟩
  rw [arm]
  exact ⟨rfl, fun _ => ⟨rfl, rfl⟩, fun _ => fast, fun _ => slow, fun down => absurd (up.symm.trans down) nofun⟩

theorem enterLowering_announced (still : (s.arm a).state ≠ .raising) :
    LowerAnnounced raise a o s (enterLowering raise a o s) := by
  cases up : (s.arm a).down
  · have begins : enterLowering raise a o s = announce raise a .lowering [] none
        (if (s.loweringAt a o .awaitingSpeed).slowEnough a then awaitFlow a (s.loweringAt a o .awaitingSpeed)
          else s.loweringAt a o .awaitingSpeed) :=
      if_neg (by rw [State.arm_modArm_same]; exact Bool.eq_false_iff.1 up)
    have posts := loweringAt_posts s a o .awaitingSpeed
    rw [begins]
    by_cases slow : (s.arm a).wheelSpeed.natAbs ≤ s.item 7
    · rw [if_pos ((loweringAt_slowEnough s a o _).2 slow)]
      refine lowering_announced (timer := .stopped) (sub := .awaitingFlow) (posted := true) up (posts.trans (.awaitFlow a _)) ?_
        (fun fast => absurd slow (Nat.not_le.2 fast)) fun _ _ => ⟨rfl, rfl⟩
      rw [awaitFlow_arm, loweringAt_arm]
      rfl
    · rw [if_neg fun h => slow ((loweringAt_slowEnough s a o _).1 h)]
      refine lowering_announced (timer := .stopped) (sub := .awaitingSpeed) (posted := (s.arm a).liftPosted) up posts ?_
        (fun _ => ⟨rfl, by simp [still]⟩) fun h => absurd h slow
      rw [loweringAt_arm]
      rfl
  · have ends : enterLowering raise a o s = endLowering raise a (s.modArm a (ArmUnit.toDown o)) :=
      if_pos (by rw [State.arm_modArm_same]; exact up)
    rw [ends]
    exact endLowering_announced up

theorem reverseToLowering_announced (turns : (s.arm a).state = .raising) :
    LowerAnnounced raise a o s (reverseToLowering raise a o s) := by
  cases up : (s.arm a).down
  · have kept := loweringAt_posts s a o (s.arm a).sub
    have same : (s.modArm a (ArmUnit.toDown o)).modArm a (fun u => { u with state := .lowering }) =
      s.loweringAt a o (s.arm a).sub := by cases a <;> rfl
    have begins : reverseToLowering raise a o s = announce raise a .lowering [] none
        (if (s.loweringAt a o (s.arm a).sub).slowEnough a then
          if ((s.loweringAt a o (s.arm a).sub).arm a).sub == .moving then
            (s.loweringAt a o (s.arm a).sub).modArm a fun u => { u with motionTimer := .running (s.item 8) }
          else s.loweringAt a o (s.arm a).sub
        else (withdrawLift a (s.loweringAt a o (s.arm a).sub)).modArm a fun u => { u with sub := .awaitingSpeed }) := by
      refine (if_neg (by rw [State.arm_modArm_same]; exact Bool.eq_false_iff.1 up)).trans ?_
      rw [← same]
      rfl
    rw [begins]
    by_cases slow : (s.arm a).wheelSpeed.natAbs ≤ s.item 7
    · rw [if_pos ((loweringAt_slowEnough s a o _).2 slow)]
      split
      · refine lowering_announced (timer := .running (s.item 8)) (sub := (s.arm a).sub) (posted := (s.arm a).liftPosted) up (kept.trans (.modArm a _ _)) ?_
          (fun fast => absurd slow (Nat.not_le.2 fast)) fun _ still => absurd turns still
        rw [State.arm_modArm_same, loweringAt_arm]
        rfl
      · refine lowering_announced (timer := .stopped) (sub := (s.arm a).sub) (posted := (s.arm a).liftPosted) up kept ?_
          (fun fast => absurd slow (Nat.not_le.2 fast)) fun _ still => absurd turns still
        rw [loweringAt_arm]
        rfl
    · rw [if_neg fun h => slow ((loweringAt_slowEnough s a o _).1 h)]
      refine lowering_announced (timer := .stopped) (sub := .awaitingSpeed) (posted := false) up
        ((kept.trans (.withdrawLift a _)).trans (.modArm a _ _)) ?_
        (fun _ => ⟨rfl, by rw [turns]; rfl⟩) fun h => absurd h slow
      rw [State.arm_modArm_same, withdrawLift_arm, loweringAt_arm]
      rfl
  · have ends : reverseToLowering raise a o s = endLowering raise a (s.modArm a (ArmUnit.toDown o)) :=
      if_pos (by rw [State.arm_modArm_same]; exact up)
    rw [ends]
    exact endLowering_announced up

/-- LOWER from STOWED, HALTED or RAISING (R114). -/
theorem takeLower_announced (h : (s.arm a).state = .stowed ∨ (s.arm a).state = .halted ∨ (s.arm a).state = .raising) :
    LowerAnnounced raise a o s (takeLower raise a o s) := by
  unfold takeLower
  rcases h with e | e | e <;> rw [e]
  · exact enterLowering_announced (by rw [e]; nofun)
  · exact enterLowering_announced (by rw [e]; nofun)
  · exact reverseToLowering_announced e

end Lower

end Sys2Proof.Machine
end

section
/-! PROOFS. ARM_LOWER: its refusals, and the arm it lowers. -/

namespace Sys2Proof.Machine

set_option Elab.async false

/-! ## The tests of ARM_LOWER (R113, R114) -/

section LowerTest

variable {a : Arm} {s : State}

theorem lowerTest_fault (h : (s.arm a).state = .fault) : lowerTest a s = some .fault := if_pos h

theorem lowerTest_safeStop (h : (s.arm a).state ≠ .fault) (safe : s.supervision.safeStop = true) :
    lowerTest a s = some .safeStop := (if_neg h).trans (if_pos safe)

theorem lowerTest_resetPending (h : (s.arm a).state ≠ .fault) (safe : s.supervision.safeStop = false)
    (reset : s.supervision.pendingReset ≠ none) : lowerTest a s = some .resetPending :=
  (if_neg h).trans ((if_neg (by simp [safe])).trans (if_pos (Option.isSome_iff_ne_none.2 reset)))

theorem lowerTest_reverse (h : (s.arm a).state ≠ .fault) (safe : s.supervision.safeStop = false)
    (reset : s.supervision.pendingReset = none) (back : s.travel.setpoint < 0) : lowerTest a s = some .reverse :=
  (if_neg h).trans ((if_neg (by simp [safe])).trans ((if_neg (by simp [reset])).trans (if_pos back)))

theorem lowerTest_passes (h : (s.arm a).state ≠ .fault) (safe : s.supervision.safeStop = false)
    (reset : s.supervision.pendingReset = none) (fwd : 0 ≤ s.travel.setpoint) : lowerTest a s = none :=
  (if_neg h).trans ((if_neg (by simp [safe])).trans ((if_neg (by simp [reset])).trans (if_neg (Int.not_lt.2 fwd))))

end LowerTest

/-- What every accepted ARM_LOWER finds (R10, R113). -/
structure AsksLower (l : Station) (ps : List Byte) (a : Arm) (s : State) : Prop where
  sent : Sent Form.armCommand l ps s
  work : workClear s
  arm : armOf (byteAt ps 0) = some a
  command : byteAt ps 1 = 0
  holds : (s.claims.get a.group).holder = some l
  mode : s.supervision.mode ≠ .commissioning
  reaction : (s.arm a).reaction = none
  free : s.involved a = false

section Exec

variable {l : Station} {tag : Byte} {ps : List Byte} {a : Arm} {s : State} (h : AsksLower l ps a s)
include h

theorem AsksLower.owner (raise : Raiser) : armOwner 0 commissionTest (lowerOwner raise) l ps (heard Form.armCommand l tag ps s) =
    lowerOwner raise a l ps (heard Form.armCommand l tag ps s) := by
  unfold armOwner forArm
  rw [h.arm]
  refine claimTest_heard.trans ((if_pos h.holds).trans ((if_neg (not_not.2 h.command)).trans ((if_neg h.mode).trans ?_)))
  exact (if_neg (by rw [show ((heard Form.armCommand l tag ps s).arm a).reaction = none from h.reaction]; decide)).trans
    (if_neg (Bool.eq_false_iff.1 h.free))

theorem AsksLower.event : exec (.armLower l tag ps) s =
    .next (serveEvent Form.armCommand (fun raise => armOwner 0 commissionTest (lowerOwner raise)) l tag ps s) :=
  congrArg Host.Outcome.next (serveArm_event (by rw [otherCommand, h.command]; simp) _ _ _ _ _)

/-- ARM_LOWER answered with nothing else changed. -/
theorem AsksLower.replied {st : Status} {d : Payload} (answer : lowerOwner raiseFactor a l ps (heard Form.armCommand l tag ps s) =
    ⟨st, d, heard Form.armCommand l tag ps s⟩) :
    exec (.armLower l tag ps) s = .next (replied Form.armCommand l tag ps st d s) :=
  h.event.trans (congrArg Host.Outcome.next (serveEvent_done (owner := fun raise => armOwner 0 commissionTest (lowerOwner raise))
    h.sent tag ((h.owner raiseFactor).trans answer) rfl h.work))

theorem AsksLower.refused {r : Reason} (test : lowerTest a s = some r) :
    exec (.armLower l tag ps) s = .next (Machine.replied Form.armCommand l tag ps .refusedState (.reason r) s) := by
  refine h.replied ?_
  unfold lowerOwner
  rw [show lowerTest a (heard Form.armCommand l tag ps s) = some r from test]
  rfl

theorem AsksLower.stands (test : lowerTest a s = none) (down : (s.arm a).state.lowers = false) :
    exec (.armLower l tag ps) s = .next (Machine.replied Form.armCommand l tag ps .ok .none s) := by
  refine h.replied ?_
  unfold lowerOwner
  rw [show lowerTest a (heard Form.armCommand l tag ps s) = none from test]
  exact if_neg (Bool.eq_false_iff.1 down)

end Exec

/-! ## What an accepted ARM_LOWER leaves (R106, R118, R119) -/

/-- An arm lowered and reported, in an event that has done nothing else yet. -/
structure LowerDone (a : Arm) (o : Origin) (s v : State) : Prop where
  reactions : v.reactions = s.reactions
  arm : ArmUnit.Lowered (s.item 7) o (s.arm a) (v.arm a).footing
  others : ∀ b, b ≠ a → (v.arm b).footing = (s.arm b).footing
  backing : v.travel.backing = s.travel.backing.report a false
  blocked : v.work.blocked = if s.travel.backing.blocks a false then some s.travel.demand else s.work.blocked
  reached : v.work.reached = s.work.reached

theorem ArmUnit.Lowered.not_stowed {slow : Nat} {o : Origin} {u : ArmUnit} {f : Footing} (h : ArmUnit.Lowered slow o u f) :
    (f.motion.state == .stowed) = false := by
  cases down : u.down
  · rw [(h.goes down).1]
    rfl
  · rw [(h.ends down).1]
    split <;> rfl

theorem takeLower_done {a : Arm} {o : Origin} {s : State} (hn : NoReactions s)
    (h : (s.arm a).state = .stowed ∨ (s.arm a).state = .halted ∨ (s.arm a).state = .raising) :
    LowerDone a o s (takeLower raiseFactor a o s) := by
  obtain ⟨w, st, factors, made, posts, arm⟩ := takeLower_announced (raise := raiseFactor) (o := o) h
  have quells : ∀ k, Quells raiseFactor w.reactions k := fun k => (posts.unbound hn).deaf k |>.quells 8
  obtain ⟨reactions, arms, backing, blocked, reached, -⟩ := announce_reports quells a st factors
  rw [← made] at reactions arms backing blocked reached
  rw [show ((w.arm a).state == .stowed) = false from arm.not_stowed, posts.travel] at backing blocked
  rw [posts.blocked] at blocked
  refine ⟨reactions.trans posts.reactions, by rw [arms]; exact arm, fun b hb => ?_, backing, blocked,
    reached.trans posts.reached⟩
  rw [arms, posts.others b hb]

/-- What the end of the event leaves of an arm (R157). -/
theorem Ended.arm_told {v t : State} (ended : Ended v.blockedTold t) (b : Arm) : (t.arm b).state = (v.arm b).state ∧ (t.arm b).target = (v.arm b).target ∧
    (t.arm b).origin = (v.arm b).origin ∧ (t.arm b).liftPosted = (v.arm b).liftPosted ∧
    ((t.arm b).sub = .awaitingSpeed ↔ (v.arm b).sub = .awaitingSpeed) ∧
    ((v.arm b).sub = .none → (t.arm b).motionTimer = (v.arm b).motionTimer) := by
  obtain ⟨n, told, -⟩ := blockedTold_notices v
  rw [told] at ended
  have rest := ended.arms b
  refine ⟨?_, ?_, ?_, ?_, ended.waits b, fun still => (ended.still b still).2.1⟩ <;> rw [rest] <;> rfl

theorem Ended.backing_told {v t : State} (ended : Ended v.blockedTold t) : t.travel.backing = v.travel.backing := by
  obtain ⟨n, told, -⟩ := blockedTold_notices v
  rw [told] at ended
  rw [ended.travel]
  rfl

section Finish

variable {a : Arm} {o : Origin} {s v t : State} (done : LowerDone a o s v) (ended : Ended v.blockedTold t)
include done ended

theorem LowerDone.lowered : let u := s.arm a
    (t.arm a).target = .down ∧
    (u.down = false → (t.arm a).state = .lowering ∧ (t.arm a).origin = o ∧
      (s.item 7 < u.wheelSpeed.natAbs →
        (t.arm a).sub = .awaitingSpeed ∧ (t.arm a).liftPosted = (u.state != .raising && u.liftPosted)) ∧
      (u.wheelSpeed.natAbs ≤ s.item 7 → u.state ≠ .raising → (t.arm a).sub ≠ .awaitingSpeed ∧ (t.arm a).liftPosted = true)) ∧
    (u.down = true → (t.arm a).state = (if u.contact then .deflected else .working) ∧
      (t.arm a).origin = .none ∧ (t.arm a).motionTimer = .stopped ∧ (t.arm a).liftPosted = false) := by
  intro u
  obtain ⟨state, target, origin, posted, waits, timer⟩ := ended.arm_told a
  obtain ⟨aim, goes, fast, slowly, ends⟩ := done.arm
  rw [state, target, origin, posted, waits]
  refine ⟨aim, fun up => ⟨(goes up).1, (goes up).2, fast up, fun slow still => ?_⟩, fun down => ?_⟩
  · obtain ⟨sub, lift⟩ := slowly up slow still
    exact ⟨fun wait => ArmSub.noConfusion ((waits.1 wait).symm.trans sub), lift⟩
  · obtain ⟨rests, none, sub, stops, lift⟩ := ends down
    exact ⟨rests, none, (timer sub).trans stops, lift⟩

theorem LowerDone.others_stand (b : Arm) (hb : b ≠ a) : (t.arm b).state = (s.arm b).state ∧ (t.arm b).target = (s.arm b).target := by
  obtain ⟨state, target, -⟩ := ended.arm_told b
  have same := done.others b hb
  exact ⟨state.trans (congrArg (fun f => f.motion.state) same), target.trans (congrArg (fun f => f.motion.target) same)⟩

/-- R106: an open reverse ceiling closes, and in DRIVE with a negative demand REVERSE_BLOCKED is held. -/
theorem LowerDone.closes (opened : s.travel.reverseOpen = true) : t.travel.reverseOpen = false ∧
    (s.travel.state = .drive → s.travel.demand < 0 → ∀ x, v.attends x = true →
      (t.notices.get x).held[(11 : Fin 24)] = some ⟨.none, .reverseBlocked s.travel.demand
        ((s.travel.armStowed.set a false).map (!·)), v.time, none⟩) := by
  have notAll : PerArm.allSet (s.travel.armStowed.set a false) = false := by
    refine Bool.eq_false_iff.2 fun all => ?_
    have own := (PerArm.allSet_iff _).1 all a
    rw [PerArm.get_set, if_pos rfl] at own
    cases own
  refine ⟨?_, fun drives back x hx => ?_⟩
  · have shut : t.travel.backing.reverseOpen = PerArm.allSet (s.travel.armStowed.set a false) := by
      rw [ended.backing_told, done.backing]
      rfl
    exact shut.trans notAll
  · have blocks : s.travel.backing.blocks a false = true := by
      simp only [Backing.blocks, Travel.backing, opened, notAll, drives, back]
      rfl
    have due : v.work.blocked = some s.travel.demand := by rw [done.blocked, if_pos blocks]
    have stowed : v.travel.armStowed = s.travel.armStowed.set a false := congrArg Backing.armStowed done.backing
    rw [(ended.held x 11 (by decide) (by decide)).1, blockedTold_some due, deliver_held, stowed, if_pos]
    · rfl
    · exact ⟨by simp [State.reaches, hx], rfl⟩

end Finish

/-! ## The request accepted -/

/-- An owner's work within a frame, answered, with an event's end behind it that resets nothing. -/
theorem Frame.served {x : Exc} {k : Reach} {f : Form} {l : Station} {tag : Byte} {ps : List Byte} {st : Status} {d : Payload}
    {s w : State} (h : Frame x k (heard f l tag ps s) w) (hp : s.supervision.pendingReset = none) (hw : workClear s) :
    Served f l tag ps st d s (finish { w with links := linksAfter f l tag ps st d s }) := by
  have settled := Cascade.settleAll { w with links := linksAfter f l tag ps st d s }
  have noReset : (settleAll { w with links := linksAfter f l tag ps st d s }).work.reset = none :=
    settle_reset (h.pendingReset.trans hp) (h.reset hp (congrArg Work.reset hw))
  rw [finish_calm noReset]
  have kept : Kept s { w with links := linksAfter f l tag ps st d s } := { (heard_kept f l tag ps s).trans h.kept with }
  exact
    { kept.trans settled.kept with
      links := settled.links
      attendance := settled.attendance.trans h.attendance
      claims := settled.claims.trans h.claims
      draft := settled.draft.trans h.draft }

theorem heard_attends_all (f : Form) (l : Station) (tag : Byte) (ps : List Byte) (s : State) (x : Station) :
    (heard f l tag ps s).attends x = s.attends x := by
  by_cases e : x = l
  · rw [e, heard_attends]
  · show (((s.attendance.set l _).get x).state == .attending) = _
    rw [PerStation.get_set, if_neg e]
    rfl

theorem AsksLower.accepts {l : Station} {tag : Byte} {ps : List Byte} {a : Arm} {s : State} (h : AsksLower l ps a s)
    (test : lowerTest a s = none)
    (lowerable : (s.arm a).state = .stowed ∨ (s.arm a).state = .halted ∨ (s.arm a).state = .raising) :
    exec (.armLower l tag ps) s = .next (finish { takeLower raiseFactor a .command (heard Form.armCommand l tag ps s) with
      links := linksAfter Form.armCommand l tag ps .accepted .none s }) := by
  have lowers : (s.arm a).state.lowers = true := by
    rcases lowerable with e | e | e <;> rw [e] <;> rfl
  have answer : lowerOwner raiseFactor a l ps (heard Form.armCommand l tag ps s) =
      ⟨.accepted, .none, takeLower raiseFactor a .command (heard Form.armCommand l tag ps s)⟩ := by
    unfold lowerOwner
    rw [show lowerTest a (heard Form.armCommand l tag ps s) = none from test]
    exact if_pos lowers
  exact h.event.trans (congrArg Host.Outcome.next (serveEvent_finish
    (owner := fun raise => armOwner 0 commissionTest (lowerOwner raise)) h.sent ((h.owner raiseFactor).trans answer)
    (Frame.takeLower (Cascade.raiseFactor) a .command _).links))

/-- Settles O44: the tests in order, then the arm lowered, reported, and the end of its event. -/
theorem armLowerLowersTheArm : Obligations.ArmLowerLowersTheArm := by
  intro l tag ps s a sent work arm command holds mode reaction free u refused
  have asks : AsksLower l ps a s := ⟨sent, work, arm, command, holds, mode, reaction, free⟩
  refine ⟨fun e => asks.refused (lowerTest_fault e), fun h e => asks.refused (lowerTest_safeStop h e),
    fun h safe e => asks.refused (lowerTest_resetPending h safe e),
    fun h safe reset e => asks.refused (lowerTest_reverse h safe reset e), fun safe reset fwd => ⟨fun e => ?_, fun e => ?_⟩⟩
  · have stands : ∀ st, (s.arm a).state = st → st ≠ .fault → st.lowers = false → _ := fun st e fault down =>
      asks.stands (tag := tag) (lowerTest_passes (e ▸ fault) safe reset fwd) (e ▸ down)
    rcases e with e | e | e
    · exact stands _ e nofun rfl
    · exact stands _ e nofun rfl
    · exact stands _ e nofun rfl
  · have test : lowerTest a s = none := lowerTest_passes (fun fault => by
      rcases e with e | e | e <;> exact nomatch e.symm.trans fault) safe reset fwd
    have lower := Frame.takeLower Cascade.raiseFactor a .command (heard Form.armCommand l tag ps s)
    refine ⟨_, asks.accepts test e, lower.served reset work, fun hn => ?_⟩
    have done := takeLower_done (s := heard Form.armCommand l tag ps s) (o := .command) hn e
    generalize takeLower raiseFactor a .command (heard Form.armCommand l tag ps s) = v at lower done ⊢
    have linked : LowerDone a .command (heard Form.armCommand l tag ps s)
      { v with links := linksAfter Form.armCommand l tag ps .accepted .none s } := { done with }
    have unbound : NoReactions { v with links := linksAfter Form.armCommand l tag ps .accepted .none s } := fun k => by
      rw [linked.reactions]
      exact hn k
    have ended := finish_ended_unwoken (unbound.deaf 11)
      (unbound.unwoken (linked.reached.trans (congrArg Work.reached work))) (lower.pendingReset.trans reset)
      (lower.reset reset (congrArg Work.reset work))
    obtain ⟨target, up, down⟩ := linked.lowered ended
    refine ⟨target, up, down, fun _ opened => ?_, linked.others_stand ended⟩
    obtain ⟨shut, blocked⟩ := linked.closes ended opened
    refine ⟨shut, fun drives back x hx => ?_⟩
    rw [blocked drives back x ((State.attends_congr lower.attendance x).trans ((heard_attends_all ..).trans hx))]
    exact congrArg (fun time => some (HeldRecord.mk _ _ time none)) lower.time

end Sys2Proof.Machine
end

section
/-! PROOFS. The delivery of a raise, its entry, and the actions of the TG and the Spray Unit. -/

namespace Sys2Proof.Machine

set_option Elab.async false

/-! ## Delivery (R167) -/

theorem State.reaches_iff (s : State) (u : Audience) (x : Station) : s.reaches u x = true ↔
    s.attends x = true ∧ match u with
      | .every skip => skip ≠ some x
      | .only y => x = y := by
  cases u with
  | every skip => simp [State.reaches]
  | only y => simp [State.reaches]

/-- A delivery at a station it reaches, field by field (R167, R168). -/
theorem StationNotices.take_spec (v : StationNotices) (h : HeldRecord) :
    let w := v.take h
    let k := h.detail.factor
    w.flags = v.flags ||| BitVec.twoPow 24 k ∧ w.held = v.held.set k (some h) ∧ w.masks = v.masks ∧ w.master = v.master ∧
    (v.masks.getLsbD k = true ∨ v.master = true → w.queue = v.queue ∧ w.overflow = v.overflow) ∧
    (v.masks.getLsbD k = false → v.master = false → v.queue.length < 16 →
      w.queue = v.queue ++ [⟨h, false⟩] ∧ w.overflow = v.overflow) ∧
    (v.masks.getLsbD k = false → v.master = false → 16 ≤ v.queue.length → w.queue = v.queue ∧ w.overflow = true) := by
  intro w k
  have taken : w = (if v.holdsBack k then
      { v with flags := v.flags ||| BitVec.twoPow 24 k, held := v.held.set k (some h) }
      else ({ v with flags := v.flags ||| BitVec.twoPow 24 k, held := v.held.set k (some h) } : StationNotices).append
        ⟨h, false⟩) := rfl
  cases back : v.holdsBack k
  · obtain ⟨mask, master⟩ := Bool.or_eq_false_iff.1 back
    rw [back, if_neg (by decide), StationNotices.append] at taken
    have free : ¬(v.masks.getLsbD k = true ∨ v.master = true) := by
      rintro (held | held)
      · exact nomatch mask.symm.trans held
      · exact nomatch master.symm.trans held
    by_cases room : v.queue.length < 16
    · rw [if_pos room] at taken
      rw [taken]
      exact ⟨rfl, rfl, rfl, rfl, fun held => absurd held free, fun _ _ _ => ⟨rfl, rfl⟩,
        fun _ _ full => absurd room (Nat.not_lt.2 full)⟩
    · rw [if_neg room] at taken
      rw [taken]
      exact ⟨rfl, rfl, rfl, rfl, fun held => absurd held free, fun _ _ short => absurd short room, fun _ _ _ => ⟨rfl, rfl⟩⟩
  · have held := Bool.or_eq_true_iff.1 back
    rw [back, if_pos rfl] at taken
    have unheld : v.masks.getLsbD k = false → v.master = false → False := fun mask master => by
      rcases held with held | held
      · exact nomatch mask.symm.trans held
      · exact nomatch master.symm.trans held
    rw [taken]
    exact ⟨rfl, rfl, rfl, rfl, fun _ => ⟨rfl, rfl⟩, fun mask master => (unheld mask master).elim,
      fun mask master => (unheld mask master).elim⟩

/-! ## The entry that takes a raise (R176) -/

theorem matching_none {s : State} {r : Raise} (h : ∀ (e : EntryNo) b, s.reactions[e] = some b → b.fits r = false) :
    s.Untaken r := fun e b bound fits => absurd fits (by rw [h e b bound]; decide)

theorem entryList_split : ∀ e : EntryNo, entryList = entryList.take e ++ e :: entryList.drop (e + 1) ∧
    ∀ k ∈ entryList.take e, k < e := by decide

/-- The entries that a test picks, where it can pick one alone. -/
theorem entryList_filter {e : EntryNo} {q : EntryNo → Bool} (only : ∀ k, q k = true → k = e) :
    entryList.filter q = if q e then [e] else [] := by
  have single : ∀ e : EntryNo, entryList.filter (fun k => decide (k = e)) = [e] := by decide
  cases own : q e
  · refine List.filter_eq_nil_iff.2 fun k _ taken => ?_
    rw [only k taken, own] at taken
    cases taken
  · have same : q = fun k => decide (k = e) := funext fun k => by
      by_cases hk : k = e
      · rw [hk, own, decide_eq_true rfl]
      · rw [decide_eq_false hk]
        exact Bool.eq_false_iff.2 fun taken => hk (only k taken)
    rw [if_pos rfl, same]
    exact single e

/-- An entry that a raise comes to: the first that fits it. -/
structure Meets (s : State) (r : Raise) (e : EntryNo) (b : Binding) : Prop where
  bound : s.reactions[e] = some b
  fits : b.fits r = true
  first : ∀ (k : EntryNo) d, k < e → s.reactions[k] = some d → d.fits r = false

/-- The state in which the action of an entry is handed to its owner: the entry is in flight with the raise. -/
def State.inHand (s : State) (e : EntryNo) (b : Binding) (r : Raise) : State :=
  { s with reactions := s.reactions.set e (some { b with held := some r }) }

section Meets

variable {s : State} {r : Raise} {e : EntryNo} {b : Binding} (h : Meets s r e b)
include h

theorem Meets.matching : s.matching r = some e := by
  obtain ⟨split, before⟩ := entryList_split e
  refine List.find?_eq_some_iff_append.2 ⟨by rw [h.bound]; exact h.fits, _, _, split, fun k hk => ?_⟩
  rcases Option.eq_none_or_eq_some s.reactions[k] with free | ⟨d, bound⟩
  · rw [free]
    rfl
  · rw [bound]
    simp [h.first k d (before k hk) bound]

theorem Meets.inFlight (held : b.held ≠ none) : raiseFactor r s = deliver r none s := by
  have matched := h.matching
  show raiseOnce (raiseWith 7) r s = _
  unfold raiseOnce
  rw [matched]
  dsimp only
  rw [h.bound]
  exact if_pos (Option.isSome_iff_ne_none.2 held)

theorem Meets.handed (held : b.held = none) : raiseFactor r s = handAction (raiseWith 7) e b.action (s.inHand e b r) := by
  have matched := h.matching
  show raiseOnce (raiseWith 7) r s = _
  unfold raiseOnce
  rw [matched]
  dsimp only
  rw [h.bound]
  exact if_neg (by simp [held])

theorem Meets.enabled : b.enabled = true := ((b.fits_iff r).1 h.fits).1

omit h in
theorem Binding.unheld {b : Binding} (held : b.held = none) : { b with held := none } = b := by
  obtain ⟨⟩ := b
  cases held
  rfl

theorem Meets.refilled (held : b.held = none) : s.reactions.set e (some { b with held := none }) = s.reactions := by
  rw [Binding.unheld held, ← h.bound]
  exact Vector.set_getElem_self _

/-- The action completed with its entry as it was handed over: the raise is delivered, the entries stand as before. -/
theorem Meets.completes (held : b.held = none) {t : State}
    (flies : t.reactions = s.reactions.set e (some { b with held := some r })) (o : ActionOutcome) (z : ZoneSet) :
    completeWith e o z t = deliver r (some ⟨e, o, z⟩) { t with reactions := s.reactions } := by
  have bound : t.reactions[e] = some { b with held := some r } := by
    rw [flies, entry_get_set, if_pos rfl]
  have freed : ({ b with held := some r } : Binding).freed = some { b with held := none } := if_pos h.enabled
  rw [completeWith_inFlight bound rfl, freed, flies]
  refine congrArg (fun v => deliver r (some ⟨e, o, z⟩) { t with reactions := v }) ?_
  rw [Vector.set_set]
  exact h.refilled held

end Meets

/-! ## FORCE_ZONE_OFF (R142) -/

theorem postPump_reactions (d : Nat) (s : State) (v : Vector (Option Binding) 8) :
    postPump d { s with reactions := v } = { postPump d s with reactions := v } := by
  unfold postPump
  by_cases same : s.flow.pumpDemand = d
  · rw [if_pos same, if_pos same]
  · rw [if_neg same, if_neg same]
    rfl

theorem evaluateZones_reactions (s : State) (v : Vector (Option Binding) 8) :
    evaluateZones { s with reactions := v } = { evaluateZones s with reactions := v } := by
  unfold evaluateZones
  dsimp only
  exact postPump_reactions _ (s.modSpray fun _ => _) v

/-- The zones that FORCE_ZONE_OFF names. -/
def namesZone (z : Option Zone) (i : Zone) : Bool := z == none || z == some i

theorem forceZones_eq {e : EntryNo} {z : Option Zone} {s : State} {changed forced : ZoneSet}
    (hc : ∀ i, changed.get i = (namesZone z i && !s.spray.forcedOff.get i))
    (hf : ∀ i, forced.get i = (namesZone z i || s.spray.forcedOff.get i)) : forceZones e z s =
      completeWith e .forcedOff changed (evaluateZones { s with spray := { s.spray with forcedOff := forced } }) := by
  have changes : changed = PerZone.of fun i => (PerZone.of (namesZone z)).get i && !s.spray.forcedOff.get i :=
    PerZone.ext_get _ _ fun i => by rw [PerZone.get_of, PerZone.get_of, hc]
  have forces : forced = PerZone.of fun i => (PerZone.of (namesZone z)).get i || s.spray.forcedOff.get i :=
    PerZone.ext_get _ _ fun i => by rw [PerZone.get_of, PerZone.get_of, hf]
  rw [changes, forces]
  rfl

theorem Meets.forces {s : State} {r : Raise} {e : EntryNo} {b : Binding} (h : Meets s r e b) (held : b.held = none)
    {z : Option Zone} (action : b.action = .forceZoneOff z) {changed forced : ZoneSet}
    (hc : ∀ i, changed.get i = (namesZone z i && !s.spray.forcedOff.get i))
    (hf : ∀ i, forced.get i = (namesZone z i || s.spray.forcedOff.get i)) :
    raiseFactor r s = deliver r (some ⟨e, .forcedOff, changed⟩)
      (evaluateZones { s with spray := { s.spray with forcedOff := forced } }) := by
  obtain ⟨u, hu⟩ : ∃ u, u = { s with spray := { s.spray with forcedOff := forced } } := ⟨_, rfl⟩
  have begins : handAction (raiseWith 7) e (.forceZoneOff z) (s.inHand e b r) =
      completeWith e .forcedOff changed (evaluateZones { u with reactions := (s.inHand e b r).reactions }) := by
    rw [hu]
    exact forceZones_eq (s := s.inHand e b r) hc hf
  have stands : ({ evaluateZones u with reactions := s.reactions } : State) = evaluateZones u := by
    rw [← evaluateZones_reactions, hu]
  rw [h.handed held, action, begins, evaluateZones_reactions, h.completes held rfl, ← hu]
  exact congrArg (deliver r _) stands

theorem Meets.forces_one {s : State} {r : Raise} {e : EntryNo} {b : Binding} (h : Meets s r e b) (held : b.held = none)
    {z : Zone} (action : b.action = .forceZoneOff (some z)) : raiseFactor r s = deliver r
      (some ⟨e, .forcedOff, (PerZone.all false).set z (!s.spray.forcedOff.get z)⟩)
      (evaluateZones { s with spray := { s.spray with forcedOff := s.spray.forcedOff.set z true } }) := by
  have names : ∀ i, namesZone (some z) i = decide (i = z) := fun i => by
    rw [namesZone, show (some z == some i) = decide (i = z) by cases z <;> cases i <;> rfl]
    rfl
  refine h.forces held action (fun i => ?_) fun i => ?_
  · rw [PerZone.get_set, names]
    by_cases e : i = z <;> simp [e, PerZone.get_all]
  · rw [PerZone.get_set, names]
    by_cases e : i = z <;> simp [e]

theorem Meets.forces_all {s : State} {r : Raise} {e : EntryNo} {b : Binding} (h : Meets s r e b) (held : b.held = none)
    (action : b.action = .forceZoneOff none) : raiseFactor r s = deliver r
      (some ⟨e, .forcedOff, s.spray.forcedOff.map (!·)⟩)
      (evaluateZones { s with spray := { s.spray with forcedOff := .all true } }) :=
  h.forces held action (fun i => by rw [PerZone.get_map]; rfl) fun i => by rw [PerZone.get_all]; rfl

/-! ## STOP_TRAVEL (R96, R97, R105) -/

theorem settledTest_deliver (r : Raise) (c : Option Completion) (s : State) :
    settledTest (deliver r c s) = deliver r c (settledTest s) := by
  rw [settledTest_eq, settledTest_eq]
  rfl

section Stop

variable {s : State} {r : Raise} {e : EntryNo} {b : Binding} (h : Meets s r e b) (held : b.held = none)
  (action : b.action = .stopTravel)
include h held action

theorem Meets.stops : raiseFactor r s = stopAction e (s.inHand e b r) := by
  rw [h.handed held, action]
  rfl

theorem Meets.stop_parked (parked : s.travel.state = .parked) :
    raiseFactor r s = deliver r (some ⟨e, .stopped, .all false⟩) s := by
  rw [h.stops held action]
  exact (if_pos (beq_iff_eq.2 parked)).trans (h.completes held rfl _ _)

theorem Meets.stop_again (stopping : s.travel.state = .stopping) : raiseFactor r s = { s with
    reactions := s.reactions.set e (some { b with held := some r })
    travel := { s.travel with causes := { s.travel.causes with stopTravel := true } } } := by
  have goes : stopAction e (s.inHand e b r) = enterStopping (fun c => { c with stopTravel := true }) (s.inHand e b r) :=
    if_neg (by rw [show (s.inHand e b r).travel.state = .stopping from stopping]; decide)
  rw [h.stops held action, goes, enterStopping, show (s.inHand e b r).travel.state = .stopping from stopping]
  rfl

/-- The TG as a stop cause reaches it on its way (R96). -/
def State.stopEntered (s : State) : State := { s with travel := { s.travel with
  state := .stopping, demand := 0, causes := { s.travel.causes with stopTravel := true } } }

theorem Meets.stop_entered (drives : s.travel.state = .hold ∨ s.travel.state = .drive) :
    raiseFactor r s = stopTest (s.inHand e b r).stopEntered := by
  rw [h.stops held action]
  unfold stopAction enterStopping
  rcases drives with state | state <;> rw [show (s.inHand e b r).travel.state = _ from state] <;> rfl

theorem Meets.stop_moving (drives : s.travel.state = .hold ∨ s.travel.state = .drive)
    (moves : ¬(s.travel.setpoint = 0 ∧ s.travel.wheelSpeed = 0)) : raiseFactor r s = { s with
      reactions := s.reactions.set e (some { b with held := some r })
      travel := { s.travel with
        state := .stopping, demand := 0, causes := { s.travel.causes with stopTravel := true } } } := by
  rw [h.stop_entered held action drives]
  exact if_neg fun rests => moves ((Travel.atStop_iff (s.inHand e b r).stopEntered.travel).1 rests).2

/-- At rest the actions in flight on the TG complete: that of the entry alone (R97, R105). -/
theorem Meets.completes_alone
    (alone : ∀ (k : EntryNo) d, s.reactions[k] = some d → d.action = .stopTravel → d.held = none) {t : State}
    (flies : t.reactions = s.reactions.set e (some { b with held := some r })) :
    completeAll (· == .stopTravel) .stopped t =
      deliver r (some ⟨e, .stopped, .all false⟩) { t with reactions := s.reactions } := by
  have own : ∀ k, t.inFlight (· == .stopTravel) k = decide (k = e) := fun k => by
    unfold State.inFlight
    rw [flies, entry_get_set]
    by_cases same : k = e
    · rw [if_pos same]
      simp [same, action]
    · rw [if_neg same]
      rcases Option.eq_none_or_eq_some s.reactions[k] with free | ⟨d, bound⟩
      · simp [free, same]
      · by_cases stops : d.action = .stopTravel
        · simp [bound, same, alone k d bound stops]
        · simp [bound, same, stops]
  unfold completeAll
  rw [entryList_filter (e := e) fun k taken => of_decide_eq_true ((own k).symm.trans taken), own, decide_eq_true rfl, if_pos rfl]
  exact h.completes held flies _ _

theorem Meets.stop_atRest (drives : s.travel.state = .hold ∨ s.travel.state = .drive) (still : s.travel.setpoint = 0)
    (rest : s.travel.wheelSpeed = 0)
    (alone : ∀ (k : EntryNo) d, s.reactions[k] = some d → d.action = .stopTravel → d.held = none) :
    ∃ u, raiseFactor r s = deliver r (some ⟨e, .stopped, .all false⟩) u ∧ u.reactions = s.reactions ∧
      u.notices = s.notices ∧ u.attendance = s.attendance ∧
      s.travel.TakesCause (fun c => { c with stopTravel := true }) u.travel := by
  have stops : (s.inHand e b r).stopEntered.travel.atStop = true := (Travel.atStop_iff _).2 ⟨rfl, still, rest⟩
  have ends : ∀ g : Travel, completeAll (· == .stopTravel) .stopped ({ (s.inHand e b r) with travel := g } : State) =
      deliver r (some ⟨e, .stopped, .all false⟩) { s with travel := g } := fun g =>
    h.completes_alone held action alone rfl
  have other : ∀ {st : TravelState}, s.travel.state = st → st ≠ .hold → st ≠ .drive → False := fun e hold drive => by
    rcases drives with d | d
    · exact hold (e.symm.trans d)
    · exact drive (e.symm.trans d)
  have takes : ∀ g : Travel, g.demand = 0 → g.state = (if g.safeStop || g.resetPending then .parked else .hold) →
      g.causes = StopCauses.empty → s.travel.TakesCause (fun c => { c with stopTravel := true }) g :=
    fun g demand state causes => ⟨fun e => (other e nofun nofun).elim, fun e => (other e nofun nofun).elim,
      fun _ => ⟨demand, fun _ => ⟨state, causes⟩, fun moves => absurd ⟨still, rest⟩ moves⟩⟩
  have begins : stopTest (s.inHand e b r).stopEntered = if s.travel.safeStop || s.travel.resetPending then
      settledTest (completeAll (· == .stopTravel) .stopped ({ (s.inHand e b r) with
        travel := { (s.inHand e b r).stopEntered.travel.park with causes := StopCauses.empty } } : State))
      else completeAll (· == .stopTravel) .stopped ({ (s.inHand e b r) with
        travel := { (s.inHand e b r).stopEntered.travel with state := .hold, causes := StopCauses.empty } } : State) :=
    if_pos stops
  rw [h.stop_entered held action drives, begins]
  cases parks : s.travel.safeStop || s.travel.resetPending
  · rw [if_neg (by decide), ends]
    exact ⟨_, rfl, rfl, rfl, rfl, takes _ rfl (if_neg (Bool.eq_false_iff.1 parks)).symm rfl⟩
  · rw [if_pos rfl, ends, settledTest_deliver]
    refine ⟨_, rfl, ?_⟩
    rw [settledTest_eq]
    exact ⟨rfl, rfl, rfl, takes _ rfl (if_pos parks).symm rfl⟩

end Stop

end Sys2Proof.Machine
end

section
/-! PROOFS. A cap handed over by a raise. -/

namespace Sys2Proof.Machine

set_option Elab.async false

/-! ## CAP_SPEED (R99, R103) -/

/-- The cap of entry e installed. -/
def State.capped (s : State) (e : EntryNo) (v : Nat) : State :=
  { s with travel := { s.travel with caps := s.travel.caps.set e (some v) } }

/-- The cap of entry e installed and met: its raise waits for the end of the event. -/
def State.capMet (s : State) (e : EntryNo) (v : Nat) (r : Raise) : State :=
  (s.capped e v).modWork fun _ => { Work.clear with ceiling := true, reached := [(e, r)] }

section Cap

variable {s : State} {r : Raise} {e : EntryNo} {b : Binding} (h : Meets s r e b) (held : b.held = none) {v : Nat}
  (action : b.action = .capSpeed v)
include h held action

theorem Meets.caps : raiseFactor r s = capAction e v (s.inHand e b r) := by
  rw [h.handed held, action]
  rfl

theorem Meets.cap_below (above : (v * 100 : Nat) < s.travel.setpoint) : raiseFactor r s = { s.capped e v with
    reactions := s.reactions.set e (some { b with held := some r }), work := { s.work with ceiling := true } } := by
  rw [h.caps held action]
  refine if_neg (Bool.eq_false_iff.1 (decide_eq_false (Int.not_le.2 ?_)))
  exact_mod_cast above

theorem Meets.cap_met (work : workClear s) (met : s.travel.setpoint ≤ (v * 100 : Nat)) :
    raiseFactor r s = s.capMet e v r := by
  have meets : (s.inHand e b r).travel.meetsCap v = true := decide_eq_true (by exact_mod_cast met)
  have bound : ((s.inHand e b r).capped e v).needCeiling.reactions[e] = some { b with held := some r } := by
    refine (entry_get_set _ _ _ _).trans (if_pos rfl)
  rw [h.caps held action]
  have begins : capAction e v (s.inHand e b r) = reachAtOnce e ((s.inHand e b r).capped e v).needCeiling := if_pos meets
  rw [begins, reachAtOnce, release, bound]
  dsimp only
  rw [if_pos h.enabled]
  have back : (s.reactions.set e (some { b with held := some r })).set e (some { b with held := none }) = s.reactions := by
    rw [Vector.set_set]
    exact h.refilled held
  have done : ({ Work.clear with ceiling := true, reached := [(e, r)] } : Work) =
      { s.work with ceiling := true, reached := s.work.reached ++ [(e, r)] } := by
    rw [work]
    rfl
  unfold State.capMet State.setReaction State.modReactions State.modWork
  dsimp only
  rw [done]
  exact congrArg (fun t => ({ s.capped e v with
    reactions := t
    work := { s.work with ceiling := true, reached := s.work.reached ++ [(e, r)] } } : State)) back

end Cap

/-- The entries with one more in flight: no raise is taken where no other entry is bound. -/
theorem State.Busy.of_alone {s : State} {e : EntryNo} {b : Binding} (own : s.reactions[e] = some b) (flies : b.held ≠ none)
    (alone : ∀ k : EntryNo, k ≠ e → s.reactions[k] = none) : s.Busy := fun k d bound => by
  by_cases same : k = e
  · subst same
    cases own.symm.trans bound
    exact flies
  · exact nomatch (alone k same).symm.trans bound

theorem lowestSource_modWork (s : State) (f : Work → Work) : (s.modWork f).lowestSource = s.lowestSource := rfl

theorem ceilingNow_modWork (s : State) (f : Work → Work) : (s.modWork f).ceilingNow = s.ceilingNow.modWork f := by
  unfold State.ceilingNow
  rw [lowestSource_modWork]
  rfl

theorem ceilingRaise_modWork (s : State) (f : Work → Work) : (s.modWork f).ceilingRaise = s.ceilingRaise := by
  unfold State.ceilingRaise
  rw [lowestSource_modWork]
  rfl

/-- A recomputation that is due, by whether the limiting source changes (R100). -/
theorem ceilingCheck_same {raise : Raiser} {s : State} (due : s.work.ceiling = true)
    (same : s.lowestSource.2 = s.travel.limiting) :
    ceilingCheck raise s = s.ceilingNow.modWork fun w => { w with ceiling := false } := by
  unfold ceilingCheck
  rw [if_pos due]
  exact if_pos (Bool.or_eq_true_iff.2 (.inl (decide_eq_true same)))

theorem ceilingCheck_changed {raise : Raiser} {s : State} (due : s.work.ceiling = true)
    (changed : s.lowestSource.2 ≠ s.travel.limiting) (fresh : s.work.ceilingRaised = false) :
    ceilingCheck raise s = raise s.ceilingRaise
      (holdReached (s.ceilingNow.modWork fun w => { w with ceiling := false, ceilingRaised := true })) := by
  unfold ceilingCheck
  rw [if_pos due]
  exact if_neg (by simp [changed, fresh])

theorem capMet_pass (s : State) (e : EntryNo) (v : Nat) (r : Raise) :
    settlePass raiseFactor (s.capMet e v r) = ceilingCheck raiseFactor (s.capMet e v r) := if_neg nofun

theorem capMet_left (s : State) (e : EntryNo) (v : Nat) (r : Raise) : (s.capMet e v r).work.left = true := rfl

theorem capMet_first (s : State) (e : EntryNo) (v : Nat) (r : Raise) :
    settle 16 (s.capMet e v r) = settle 15 (ceilingCheck raiseFactor (s.capMet e v r)) := by
  rw [← capMet_pass]
  exact settle_left (capMet_left s e v r) 15

section Met

variable {s : State} {r : Raise} {e : EntryNo} {b : Binding} (h : Meets s r e b) (held : b.held = none)
include h held

/-- Before CEILING_CHANGED is raised the entry is in flight again with the raise it holds. -/
theorem Meets.holds {t : State} (same : t.reactions = s.reactions) (reached : t.work.reached = [(e, r)]) :
    holdReached t = { t with reactions := s.reactions.set e (some { b with held := some r }) } := by
  have bound : t.reactions[e] = some b := by rw [same, h.bound]
  rw [holdReached, reached, List.foldl_cons, List.foldl_nil]
  dsimp only
  rw [bound]
  dsimp only
  rw [if_pos (by rw [held]; rfl), ← same]
  rfl

/-- At the end it is out of flight, whether it had been put back or not. -/
theorem Meets.frees {t : State} (reached : t.work.reached = [(e, r)])
    (stands : t.reactions = s.reactions ∨ t.reactions = s.reactions.set e (some { b with held := some r })) :
    freeReached t = { t with reactions := s.reactions } := by
  rw [freeReached, reached, List.foldl_cons, List.foldl_nil]
  dsimp only
  rcases stands with same | flies
  · have bound : t.reactions[e] = some b := by rw [same, h.bound]
    rw [bound, if_neg (by rw [show (some b).bind Binding.held = none from held]; nofun), ← same]
  · have bound : t.reactions[e] = some { b with held := some r } := by rw [flies, entry_get_set, if_pos rfl]
    have back : t.reactions.set e (some { b with held := none }) = s.reactions := by
      rw [flies, Vector.set_set]
      exact h.refilled held
    have own : (t.reactions[e].bind Binding.held) = some r := by rw [bound]; rfl
    rw [if_pos own, release, bound]
    dsimp only
    rw [if_pos h.enabled, ← back]
    rfl

/-- With a met cap's raise to deliver, the passes of the event recompute the ceiling; its CEILING_CHANGED finds the entry in
flight (R100, R176). -/
theorem Meets.settle_capMet (alone : ∀ k : EntryNo, k ≠ e → s.reactions[k] = none) (v : Nat) :
    ∃ c x, settle 16 (s.capMet e v r) = ({ (s.capped e v).ceilingTold with reactions := x } : State).modWork
      (fun _ => { Work.clear with ceilingRaised := c, reached := [(e, r)] }) ∧
      (x = s.reactions ∨ x = s.reactions.set e (some { b with held := some r })) := by
  have first := capMet_first s e v r
  by_cases same : (s.capped e v).lowestSource.2 = s.travel.limiting
  · have checked : ceilingCheck raiseFactor (s.capMet e v r) =
        (s.capped e v).ceilingNow.modWork fun _ => { Work.clear with reached := [(e, r)] } := by
      have stands : (s.capMet e v r).lowestSource.2 = s.travel.limiting := (congrArg Prod.snd (lowestSource_modWork _ _)).trans same
      rw [ceilingCheck_same (s := s.capMet e v r) rfl stands, State.capMet, ceilingNow_modWork]
      rfl
    have told : (s.capped e v).ceilingTold = (s.capped e v).ceilingNow := if_pos same
    have done : ((s.capped e v).ceilingNow.modWork fun _ => { Work.clear with reached := [(e, r)] }).work.left = false := rfl
    refine ⟨false, s.reactions, ?_, .inl rfl⟩
    refine first.trans ((congrArg (settle 15) checked).trans ((settle_done done 14).trans ?_))
    rw [told]
    rfl
  · have waits := h.holds held (t := (s.capped e v).ceilingNow.modWork fun _ =>
      { Work.clear with ceilingRaised := true, reached := [(e, r)] }) rfl rfl
    obtain ⟨x, hx⟩ : ∃ x, x = s.reactions.set e (some { b with held := some r }) := ⟨_, rfl⟩
    rw [← hx] at waits
    obtain ⟨u, hu⟩ : ∃ u, u = ({ (s.capped e v).ceilingNow with reactions := x } : State).modWork fun _ =>
      { Work.clear with ceilingRaised := true, reached := [(e, r)] } := ⟨_, rfl⟩
    have busy : u.Busy := by
      rw [hu]
      refine .of_alone (e := e) (b := { b with held := some r }) ?_ nofun fun k hk => ?_
      · show x[e] = _
        rw [hx, entry_get_set, if_pos rfl]
      · show x[k] = _
        rw [hx, entry_get_set, if_neg hk, alone k hk]
    have checked : ceilingCheck raiseFactor (s.capMet e v r) = deliver (s.capped e v).ceilingRaise none u := by
      have changed : (s.capMet e v r).lowestSource.2 ≠ s.travel.limiting :=
        (congrArg Prod.snd (lowestSource_modWork _ _)).trans_ne same
      rw [ceilingCheck_changed (s := s.capMet e v r) rfl changed rfl, State.capMet, ceilingNow_modWork, ceilingRaise_modWork,
        ← raiseFactor_untaken (fun k d bound _ => busy k d bound)]
      exact congrArg (raiseFactor (s.capped e v).ceilingRaise) (waits.trans hu.symm)
    have told : (s.capped e v).ceilingTold = deliver (s.capped e v).ceilingRaise none (s.capped e v).ceilingNow := if_neg same
    have done : (deliver (s.capped e v).ceilingRaise none u).work.left = false := by
      rw [hu]
      rfl
    refine ⟨true, x, ?_, .inr hx⟩
    refine first.trans ((congrArg (settle 15) checked).trans ((settle_done done 14).trans ?_))
    rw [told, hu]
    rfl

/-- A cap met at its hand-over: the ceiling recomputed and CEILING_CHANGED, then the raise with its outcome (R103). -/
theorem Meets.event_capMet (alone : ∀ k : EntryNo, k ≠ e → s.reactions[k] = none) {v : Nat}
    (action : b.action = .capSpeed v) (work : workClear s) (met : s.travel.setpoint ≤ (v * 100 : Nat)) :
    event (fun raise => raise r) s = deliver r (some ⟨e, .reached, .all false⟩) (s.capped e v).ceilingTold := by
  obtain ⟨c, x, settled, stands⟩ := h.settle_capMet held alone v
  have reactions : (s.capped e v).ceilingTold.reactions = s.reactions := by
    unfold State.ceilingTold
    split <;> rfl
  have clear : (s.capped e v).ceilingTold.work = Work.clear := (ceilingTold_work _).trans work
  have calm : raiseBlocked raiseFactor (s.capMet e v r) = s.capMet e v r := rfl
  generalize (s.capped e v).ceilingTold = u at settled reactions clear ⊢
  have back : ({ u with reactions := s.reactions } : State) = u := by rw [← reactions]
  have all : settleAll (s.capMet e v r) = deliver r (some ⟨e, .reached, .all false⟩)
      (u.modWork fun _ => { Work.clear with ceilingRaised := c }) := by
    unfold settleAll deliverReached
    rw [calm, settled, h.frees held rfl stands]
    have told := congrArg (fun t : State => deliver r (some ⟨e, .reached, .all false⟩)
      (t.modWork fun _ => { Work.clear with ceilingRaised := c })) back
    exact Eq.trans rfl told
  have done : u.modWork (fun _ => Work.clear) = u := by rw [State.modWork, ← clear]
  show finish (raiseFactor r s) = _
  rw [h.cap_met held action work met, finish_calm (by rw [all]; rfl), all]
  exact congrArg (deliver r (some ⟨e, .reached, .all false⟩)) done

end Met

end Sys2Proof.Machine
end

section
/-! PROOFS. RAISE_ARM and HALT_ARM handed over by a raise. -/

namespace Sys2Proof.Machine

set_option Elab.async false

/-! ## An earlier action superseded, a pending arm overtaken (R61, R126) -/

theorem raiseAction_congr {s t : State} {a : Arm} (h : supersede a s = supersede a t) (raise : Raiser) (e : EntryNo) :
    raiseAction raise e a s = raiseAction raise e a t := by
  unfold raiseAction
  rw [h]

theorem haltAction_congr {s t : State} {a : Arm} (h : supersede a s = supersede a t) (raise : Raiser) (e : EntryNo) :
    haltAction raise e a s = haltAction raise e a t := by
  unfold haltAction
  rw [h]

/-- Both actions on an arm begin with what they supersede. -/
theorem handAction_congr {s t : State} {a : Arm} {act : Action} (on : act = .raiseArm a ∨ act = .haltArm a)
    (h : supersede a s = supersede a t) (raise : Raiser) (e : EntryNo) :
    handAction raise e act s = handAction raise e act t := by
  rcases on with rfl | rfl
  · exact raiseAction_congr h raise e
  · exact haltAction_congr h raise e

theorem endReaction_none {a : Arm} {s : State} (h : (s.arm a).reaction = none) (o : ActionOutcome) : endReaction a o s = s := by
  unfold endReaction
  rw [h]

/-- A reaction in flight on the arm completes: the arm has none, and the raise is delivered. -/
theorem endReaction_inFlight {a : Arm} {s : State} {k : EntryNo} {d : Binding} {q : Raise} (own : (s.arm a).reaction = some k)
    (bound : s.reactions[k] = some d) (held : d.held = some q) (o : ActionOutcome) : endReaction a o s =
      deliver q (some ⟨k, o, .all false⟩) { s with
        reactions := s.reactions.set k d.freed, arms := s.arms.set a { s.arm a with reaction := none } } := by
  unfold endReaction
  rw [own]
  exact completeWith_inFlight (s := s.modArm a fun u => { u with reaction := none }) bound held o (.all false)

theorem endReaction_profile (a : Arm) (o : ActionOutcome) (s : State) (p : Profiles) :
    endReaction a o { s with profile := p } = { endReaction a o s with profile := p } := by
  unfold endReaction
  rw [show (({ s with profile := p } : State).arm a) = s.arm a from rfl]
  cases (s.arm a).reaction with
  | none => rfl
  | some e =>
    show completeWith e o (.all false) ({ (s.modArm a fun u => { u with reaction := none }) with profile := p } : State) = _
    unfold complete completeWith release
    dsimp only
    cases (s.modArm a fun u => { u with reaction := none }).reactions[e] with
    | none => rfl
    | some b =>
      dsimp only
      cases b.held <;> rfl

theorem overtake_pending {a : Arm} {s : State} {c : Changeover} {p : PendingArm} (record : s.profile.changeover = some c)
    (pending : c.pending.get a = some p) : overtake a s = { s with profile := { s.profile with
      changeover := some { c with pending := c.pending.set a (some { p with overtaken := true }) } } } := by
  unfold overtake
  rw [record]
  dsimp only
  rw [pending]
  rfl

/-- An arm that the changeover does not move has nothing to be overtaken. -/
theorem overtake_free {a : Arm} {s : State} (h : s.involved a = false) : overtake a s = s := by
  unfold State.involved at h
  unfold overtake
  cases record : s.profile.changeover with
  | none => rfl
  | some c =>
    rw [record] at h
    dsimp only at h ⊢
    cases pending : c.pending.get a with
    | none => rfl
    | some p =>
      rw [pending] at h
      have done : ({ p with overtaken := true } : PendingArm) = p := by
        obtain ⟨target, overtaken⟩ := p
        cases overtaken
        · cases h
        · rfl
      dsimp only
      rw [done, ← pending, PerArm.set_get, State.modProfile, ← record]

theorem supersede_free {a : Arm} {s : State} (own : (s.arm a).reaction = none) (free : s.involved a = false) :
    supersede a s = s := by
  rw [supersede, endReaction_none own, overtake_free free]

section Meets

variable {s : State} {r : Raise} {e : EntryNo} {b : Binding} (h : Meets s r e b) (held : b.held = none) {x : Arm}
  (action : b.action = .raiseArm x ∨ b.action = .haltArm x)
include h held action

/-- A raise whose action supersedes an earlier one on the arm acts as it would behind that one's completion. -/
theorem Meets.supersedes {k : EntryNo} {d : Binding} {q : Raise} (other : k ≠ e) (own : (s.arm x).reaction = some k)
    (bound : s.reactions[k] = some d) (flies : d.held = some q) :
    raiseFactor r s = raiseFactor r (deliver q (some ⟨k, .superseded, .all false⟩) { s with
      reactions := s.reactions.set k d.freed, arms := s.arms.set x { s.arm x with reaction := none } }) := by
  obtain ⟨u, hu⟩ : ∃ u, u = deliver q (some ⟨k, .superseded, .all false⟩) { s with
    reactions := s.reactions.set k d.freed, arms := s.arms.set x { s.arm x with reaction := none } } := ⟨_, rfl⟩
  have entries : u.reactions = s.reactions.set k d.freed := by rw [hu]; rfl
  have meets : Meets u r e b := by
    refine ⟨?_, h.fits, fun j g before taken => ?_⟩
    · rw [entries, entry_get_set, if_neg other.symm, h.bound]
    · rw [entries, entry_get_set] at taken
      by_cases same : j = k
      · rw [if_pos same] at taken
        have unfit := h.first k d (same ▸ before) bound
        unfold Binding.freed at taken
        split at taken
        · cases taken
          exact unfit
        · cases taken
      · rw [if_neg same] at taken
        exact h.first j g before taken
  have ends : endReaction x .superseded (s.inHand e b r) = u.inHand e b r := by
    have inHand : (s.inHand e b r).reactions[k] = some d := by
      exact (entry_get_set _ _ _ _).trans ((if_neg other).trans bound)
    rw [endReaction_inFlight (s := s.inHand e b r) own inHand flies, hu]
    have swap : (s.reactions.set e (some { b with held := some r })).set k d.freed =
        (s.reactions.set k d.freed).set e (some { b with held := some r }) :=
      Vector.set_comm _ _ fun same => other (Fin.ext same.symm)
    exact congrArg (fun v => deliver q (some ⟨k, .superseded, .all false⟩) ({ s with
      reactions := v, arms := s.arms.set x { s.arm x with reaction := none } } : State)) swap
  have idle : ((u.inHand e b r).arm x).reaction = none := by
    rw [hu]
    show ((s.arms.set x { s.arm x with reaction := none }).get x).reaction = none
    rw [PerArm.get_set, if_pos rfl]
  rw [← hu, h.handed held, meets.handed held]
  refine handAction_congr action ?_ _ _
  rw [supersede, supersede, ends, endReaction_none idle]

/-- A raise whose action overtakes a pending arm acts as it would with the arm overtaken before. -/
theorem Meets.overtakes {c : Changeover} {p : PendingArm} (record : s.profile.changeover = some c)
    (pending : c.pending.get x = some p) : raiseFactor r s = raiseFactor r { s with profile := { s.profile with
      changeover := some { c with pending := c.pending.set x (some { p with overtaken := true }) } } } := by
  have meets : Meets { s with profile := { s.profile with
      changeover := some { c with pending := c.pending.set x (some { p with overtaken := true }) } } } r e b :=
    ⟨h.bound, h.fits, h.first⟩
  rw [h.handed held, meets.handed held]
  refine handAction_congr action ?_ _ _
  have kept : (endReaction x .superseded (s.inHand e b r)).profile = s.profile :=
    (congrArg State.profile (endReaction_profile x .superseded (s.inHand e b r) s.profile) :)
  have ended := endReaction_profile x .superseded (s.inHand e b r) { s.profile with
    changeover := some { c with pending := c.pending.set x (some { p with overtaken := true }) } }
  have twice : (c.pending.set x (some { p with overtaken := true })).set x (some { p with overtaken := true }) =
      c.pending.set x (some { p with overtaken := true }) := by cases x <;> rfl
  rw [supersede, supersede, overtake_pending (by rw [kept, record]) pending]
  refine Eq.trans ?_ (congrArg (overtake x) ended).symm
  rw [overtake_pending (s := { endReaction x .superseded (s.inHand e b r) with profile := { s.profile with
    changeover := some { c with pending := c.pending.set x (some { p with overtaken := true }) } } })
    (c := { c with pending := c.pending.set x (some { p with overtaken := true }) })
    (p := { p with overtaken := true }) rfl (by rw [PerArm.get_set, if_pos rfl])]
  dsimp only
  rw [twice, kept]

end Meets

end Sys2Proof.Machine
end

section
/-! PROOFS. Announcements that raise nothing, and RAISE_ARM and HALT_ARM by the arm's state. -/

namespace Sys2Proof.Machine

set_option Elab.async false

/-! ## A report that brings no changeover on (R59, R112) -/

/-- A state that ends no pending arm's entry. -/
def ArmState.underWay (st : ArmState) : Prop := st = .raising ∨ st = .halted ∨ st = .lowering

theorem changeoverProgress_underWay {st : ArmState} (h : st.underWay) (raise : Raiser) (a : Arm) (s : State) :
    changeoverProgress raise a st s = s := by
  have stands : ∀ p : ArmTarget, (st == .fault || st.meets p) = false := fun p => by
    rcases h with rfl | rfl | rfl <;> cases p <;> rfl
  unfold changeoverProgress
  split
  · rfl
  · split
    · rfl
    · exact if_neg (by rw [stands]; decide)

/-- An operation that leaves the arms, the entries and the notices. -/
structure Hushed (s t : State) : Prop where
  arms : t.arms = s.arms
  reactions : t.reactions = s.reactions
  notices : t.notices = s.notices

theorem Hushed.trans {s t u : State} (h : Hushed s t) (k : Hushed t u) : Hushed s u :=
  ⟨k.arms.trans h.arms, k.reactions.trans h.reactions, k.notices.trans h.notices⟩

theorem Hushed.evaluateZones (s : State) : Hushed s (evaluateZones s) :=
  have posts := Posts.evaluateZones s
  ⟨(evaluateZones_rest s).2.1, posts.reactions, posts.notices⟩

theorem Hushed.travelTakesArm (a : Arm) (stowed moving : Bool) (s : State) : Hushed s (travelTakesArm a stowed moving s) := by
  unfold Sys2Proof.Machine.travelTakesArm
  dsimp only
  generalize taken : (if (s.travel.armMoving.get a != moving) = true then _ else _ : State) = t
  have h : Hushed s t := by
    rw [← taken]
    split <;> exact ⟨rfl, rfl, rfl⟩
  split
  · split
    · exact h.trans ⟨rfl, rfl, rfl⟩
    · exact h.trans ⟨rfl, rfl, rfl⟩
  · exact h.trans ⟨rfl, rfl, rfl⟩

theorem Hushed.superTakesArm (a : Arm) (st : ArmState) (s : State) : Hushed s (superTakesArm a st s) := by
  rw [superTakesArm_eq]
  exact ⟨rfl, rfl, rfl⟩

theorem Hushed.waterTakesArm (a : Arm) (st : ArmState) (s : State) : Hushed s (waterTakesArm a st s) := ⟨rfl, rfl, rfl⟩

theorem Hushed.sprayTakesArm (a : Arm) (st : ArmState) (s : State) : Hushed s (sprayTakesArm a st s) :=
  (⟨rfl, rfl, rfl⟩ : Hushed s (s.modSpray _)).trans (.evaluateZones _)

theorem Hushed.reportArm {st : ArmState} (h : st.underWay) (raise : Raiser) (a : Arm) (s : State) :
    Hushed s (reportArm raise a st s) := by
  unfold Sys2Proof.Machine.reportArm
  dsimp only
  rw [changeoverProgress_underWay h]
  exact (((Hushed.travelTakesArm a _ _ s).trans (Hushed.sprayTakesArm a _ _)).trans (Hushed.waterTakesArm a _ _)).trans
    (Hushed.superTakesArm a _ _)

/-- An announcement without factors of an arm under way: its outputs, and nothing raised (R111, R112). -/
theorem announce_hushed {st : ArmState} (h : st.underWay) (raise : Raiser) (a : Arm) (s : State) :
    Hushed (refreshArm a s) (announce raise a st [] none s) := Hushed.reportArm h raise a _

/-- What stands after such an announcement behind changes of the arm's record. -/
theorem announce_underWay {st : ArmState} (h : st.underWay) (raise : Raiser) {a : Arm} {s w : State} (posts : PostsArm a s w) :
    let t := announce raise a st [] none w
    t.reactions = s.reactions ∧ t.notices = s.notices ∧ t.arm a = (w.arm a).refresh (w.item 12) (w.item 10) (w.item 13) ∧
      ∀ b, b ≠ a → t.arm b = s.arm b := by
  have said := announce_hushed h raise a w
  have fresh := posts.trans (PostsArm.refreshArm a w)
  refine ⟨said.reactions.trans fresh.reactions, said.notices.trans fresh.notices, ?_, fun b hb => ?_⟩
  · rw [State.arm, said.arms]
    exact refreshArm_arm a w
  · rw [State.arm, said.arms]
    exact fresh.others b hb

/-! ## HALT (R116) -/

/-- An arm that HALT stops: its record and its outputs, the others as they were (R111, R116). -/
theorem haltArm_stops (raise : Raiser) {a : Arm} {s : State} (halts : (s.arm a).state.halts = true) :
    let t := haltArm raise a s
    t.reactions = s.reactions ∧ t.notices = s.notices ∧ (t.arm a).state = .halted ∧ (t.arm a).sub = .none ∧
      (t.arm a).origin = .none ∧ (t.arm a).liftPosted = false ∧ (t.arm a).motionTimer = .stopped ∧
      (t.arm a).liftDownOpen = false ∧ (t.arm a).liftUpOpen = false ∧ (t.arm a).force = 0 ∧ (t.arm a).rot = 0 ∧
      ∀ b, b ≠ a → t.arm b = s.arm b := by
  have posts := (PostsArm.withdrawLift a s).trans (PostsArm.modArm a (fun u => { u.stopAll with state := .halted }) _)
  obtain ⟨reactions, notices, arm, others⟩ := announce_underWay (st := .halted) (.inr (.inl rfl)) raise posts
  have begins : haltArm raise a s = announce raise a .halted [] none
      ((withdrawLift a s).modArm a fun u => { u.stopAll with state := .halted }) := if_pos halts
  rw [State.arm_modArm_same, withdrawLift_arm] at arm
  obtain ⟨y, z, fresh⟩ := ArmUnit.refresh_eq _ _ _ _
  rw [fresh] at arm
  intro t
  rw [show t = _ from begins, arm]
  exact ⟨reactions, notices, rfl, rfl, rfl, rfl, rfl, rfl, rfl, rfl, rfl, others⟩

/-! ## RAISE from an arm that is neither up nor on its way up (R115, R118, R122) -/

/-- What brings an arm up: not stowed, not in FAULT, not RAISING. -/
def ArmState.risesFrom (st : ArmState) : Prop := st ≠ .stowed ∧ st ≠ .fault ∧ st ≠ .raising

section Raise

variable {raise : Raiser} {a : Arm} {o : Origin} {s : State}

/-- The end of a raising is an announcement of the arm STOWED. -/
theorem endRaising_announced (raise : Raiser) (a : Arm) (factors : List (ArmUnit → Detail)) (s : State) :
    ∃ w all, endRaising raise a factors s = announce raise a .stowed all (some .stowed) w ∧ PostsArm a s w ∧
      (w.arm a).state = .stowed ∧ (w.arm a).reaction = (s.arm a).reaction ∧ w.attendance = s.attendance := by
  refine ⟨_, _, rfl, (PostsArm.withdrawLift a s).trans (PostsArm.modArm a _ _), ?_⟩
  rw [State.arm_modArm_same, withdrawLift_arm]
  exact ⟨rfl, rfl, (Cascade.withdrawLift a s).attendance⟩

/-- At UP the arm ends its raising at once. -/
theorem takeRaise_up (rises : (s.arm a).state.risesFrom) (up : (s.arm a).up = true) :
    ∃ w all, takeRaise raise a o s = announce raise a .stowed all (some .stowed) w ∧ PostsArm a s w ∧
      (w.arm a).state = .stowed ∧ (w.arm a).reaction = (s.arm a).reaction := by
  have ends : ∀ (f : ArmUnit → ArmUnit) (factors : List (ArmUnit → Detail)), (∀ u, (f u).reaction = u.reaction) →
      ∃ w all, endRaising raise a factors (s.modArm a f) = announce raise a .stowed all (some .stowed) w ∧ PostsArm a s w ∧
        (w.arm a).state = .stowed ∧ (w.arm a).reaction = (s.arm a).reaction := fun f factors kept => by
    obtain ⟨w, all, made, posts, state, reaction, -⟩ := endRaising_announced raise a factors (s.modArm a f)
    rw [State.arm_modArm_same, kept] at reaction
    exact ⟨w, all, made, (PostsArm.modArm a f s).trans posts, state, reaction⟩
  have enters : enterRaising raise a o [] s = endRaising raise a [] (s.modArm a fun u =>
      { u with target := .stowed, origin := o, motionTimer := .stopped, settleTimer := .stopped, pinnedTimer := .stopped }) :=
    if_pos (by rw [State.arm_modArm_same]; exact up)
  have turns : reverseToRaising raise a o s = endRaising raise a [] (s.modArm a fun u =>
      { u with target := .stowed, origin := o, motionTimer := .stopped }) :=
    if_pos (by rw [State.arm_modArm_same]; exact up)
  obtain ⟨stowed, fault, raising⟩ := rises
  unfold takeRaise
  cases state : (s.arm a).state
  case stowed => exact absurd state stowed
  case fault => exact absurd state fault
  case raising => exact absurd state raising
  case lowering => rw [turns]; exact ends _ _ fun _ => rfl
  case working => rw [enters]; exact ends _ _ fun _ => rfl
  case deflected => rw [enters]; exact ends _ _ fun _ => rfl
  case halted => rw [enters]; exact ends _ _ fun _ => rfl

/-- The record of an arm on its way up for a cause. -/
structure ArmUnit.Rising (o : Origin) (u v : ArmUnit) : Prop where
  state : v.state = .raising
  target : v.target = .stowed
  origin : v.origin = o
  reaction : v.reaction = u.reaction
  timers : u.state ≠ .lowering → v.settleTimer = .stopped ∧ v.pinnedTimer = .stopped

/-- Away from UP the arm is on its way, which is announced. -/
theorem takeRaise_rises (rises : (s.arm a).state.risesFrom) (up : (s.arm a).up = false) :
    ∃ w, takeRaise raise a o s = announce raise a .raising [] none w ∧ PostsArm a s w ∧
      ArmUnit.Rising o (s.arm a) (w.arm a) := by
  have enters : ∃ w, enterRaising raise a o [] s = announce raise a .raising [] none w ∧ PostsArm a s w ∧
      ArmUnit.Rising o (s.arm a) (w.arm a) := by
    refine ⟨_, if_neg (by rw [State.arm_modArm_same]; exact Bool.eq_false_iff.1 up),
      ((PostsArm.modArm a _ s).trans (PostsArm.modArm a _ _)).trans (PostsArm.awaitFlow a _), ?_⟩
    rw [awaitFlow_arm, State.arm_modArm_same, State.arm_modArm_same]
    exact ⟨rfl, rfl, rfl, rfl, fun _ => ⟨rfl, rfl⟩⟩
  have turns : (s.arm a).state = .lowering → ∃ w, reverseToRaising raise a o s = announce raise a .raising [] none w ∧
      PostsArm a s w ∧ ArmUnit.Rising o (s.arm a) (w.arm a) := fun lowers => by
    have posts := (PostsArm.modArm a (fun u => { u with target := .stowed, origin := o, motionTimer := .stopped }) s).trans
      (PostsArm.modArm a (fun u => { u with state := .raising }) _)
    refine ⟨_, if_neg (by rw [State.arm_modArm_same]; exact Bool.eq_false_iff.1 up), ?_⟩
    split
    · refine ⟨posts.trans (PostsArm.modArm a _ _), ?_⟩
      rw [State.arm_modArm_same, State.arm_modArm_same, State.arm_modArm_same]
      exact ⟨rfl, rfl, rfl, rfl, fun other => absurd lowers other⟩
    · refine ⟨posts.trans (PostsArm.awaitFlow a _), ?_⟩
      rw [awaitFlow_arm, State.arm_modArm_same, State.arm_modArm_same]
      exact ⟨rfl, rfl, rfl, rfl, fun other => absurd lowers other⟩
  obtain ⟨stowed, fault, raising⟩ := rises
  unfold takeRaise
  cases state : (s.arm a).state
  case stowed => exact absurd state stowed
  case fault => exact absurd state fault
  case raising => exact absurd state raising
  case lowering => exact turns state
  case working => exact enters
  case deflected => exact enters
  case halted => exact enters

end Raise

end Sys2Proof.Machine
end

section
/-! PROOFS. RAISE_ARM and HALT_ARM by the arm's state. -/

namespace Sys2Proof.Machine

set_option Elab.async false

/-- An announcement of an arm without a reaction in flight completes nothing, whatever it would complete it with. -/
theorem announce_idle_reports {raise : Raiser} {s : State} (quells : ∀ k, Quells raise s.reactions k) {a : Arm}
    (idle : (s.arm a).reaction = none) (st : ArmState) (factors : List (ArmUnit → Detail)) (o : ActionOutcome) :
    Reports (fun _ => True) a s (announce raise a st factors (some o) s) := by
  have refreshed := Bystands.refreshArm (loud := fun _ => True) a s
  have raised := refreshed.trans (.raiseArm (by rw [refreshed.reactions]; exact quells) a factors)
  have own : ((raiseArm raise a factors (refreshArm a s)).arm a).reaction = none :=
    (congrArg Footing.reaction (raised.arms a)).trans idle
  have stands : announce raise a st factors (some o) s = reportArm raise a st (raiseArm raise a factors (refreshArm a s)) :=
    congrArg (reportArm raise a st) (endReaction_none own o)
  rw [stands]
  exact raised.reports (reportArm_reports (by rw [raised.reactions]; exact quells 4) trivial st)

/-- The outcome of HALT_ARM by the state the arm stands in then (R126). -/
def haltOutcome : ArmState → ActionOutcome
  | .stowed => .stowed
  | .fault => .faulted
  | _ => .halted

section Arm

variable {s : State} {r : Raise} {e : EntryNo} {b : Binding} (h : Meets s r e b) (held : b.held = none) {x : Arm}
  (own : (s.arm x).reaction = none) (free : s.involved x = false)
include h held own free

/-! ## RAISE_ARM (R126) -/

section Raise

variable (action : b.action = .raiseArm x)
include action

/-- RAISE_ARM in hand, with nothing to supersede or overtake. -/
theorem Meets.raises : raiseFactor r s = if (s.arm x).state = .stowed then complete e .stowed (s.inHand e b r)
    else if (s.arm x).state = .fault then complete e .faulted (s.inHand e b r)
    else if !s.canRaise x then complete e .notCommissioned (s.inHand e b r)
    else if (s.arm x).up && (s.arm x).state != .raising then
      complete e .stowed (takeRaise (raiseWith 7) x .reaction (s.inHand e b r))
    else takeRaise (raiseWith 7) x .reaction ((s.inHand e b r).modArm x fun u => { u with reaction := some e }) := by
  rw [h.handed held, action]
  show raiseAction (raiseWith 7) e x (s.inHand e b r) = _
  unfold raiseAction
  rw [supersede_free (s := s.inHand e b r) own free]
  rfl

theorem Meets.raise_stowed (state : (s.arm x).state = .stowed) :
    raiseFactor r s = deliver r (some ⟨e, .stowed, .all false⟩) s :=
  (h.raises held own free action).trans ((if_pos state).trans (h.completes held rfl _ _))

theorem Meets.raise_fault (state : (s.arm x).state = .fault) :
    raiseFactor r s = deliver r (some ⟨e, .faulted, .all false⟩) s :=
  (h.raises held own free action).trans ((if_neg (by rw [state]; decide)).trans
    ((if_pos state).trans (h.completes held rfl _ _)))

variable (stowed : (s.arm x).state ≠ .stowed) (fault : (s.arm x).state ≠ .fault)
include stowed fault

theorem Meets.raise_notReady (ready : ¬(s.liftItem? x ≠ none ∧ s.item? 9 ≠ none)) :
    raiseFactor r s = deliver r (some ⟨e, .notCommissioned, .all false⟩) s := by
  have can : s.canRaise x = false := Bool.eq_false_iff.2 fun can => ready ((s.canRaise_iff x).1 can)
  rw [h.raises held own free action, if_neg stowed, if_neg fault, can, if_pos (by decide)]
  exact h.completes held rfl _ _

variable (ready : s.liftItem? x ≠ none ∧ s.item? 9 ≠ none)
include ready

theorem Meets.raise_ready : raiseFactor r s = if (s.arm x).up && (s.arm x).state != .raising then
      complete e .stowed (takeRaise (raiseWith 7) x .reaction (s.inHand e b r))
    else takeRaise (raiseWith 7) x .reaction ((s.inHand e b r).modArm x fun u => { u with reaction := some e }) := by
  rw [h.raises held own free action, if_neg stowed, if_neg fault, (s.canRaise_iff x).2 ready, if_neg (by decide)]

theorem Meets.raise_raising (state : (s.arm x).state = .raising) : raiseFactor r s = { s with
    reactions := s.reactions.set e (some { b with held := some r })
    arms := s.arms.set x { s.arm x with reaction := some e } } := by
  have stays : ((s.inHand e b r).modArm x fun u => { u with reaction := some e }).arm x =
      { s.arm x with reaction := some e } := State.arm_modArm_same _ x _
  rw [h.raise_ready held own free action stowed fault ready, state, if_neg (by simp), takeRaise, stays, state]
  rfl

theorem Meets.raise_up (raising : (s.arm x).state ≠ .raising) (up : (s.arm x).up = true)
    (alone : ∀ k : EntryNo, k ≠ e → s.reactions[k] = none) :
    ∃ t, raiseFactor r s = deliver r (some ⟨e, .stowed, .all false⟩) t ∧ t.reactions = s.reactions ∧
      t.attendance = s.attendance ∧ (t.arm x).state = .stowed ∧ (t.arm x).reaction = none ∧
      ∀ y, y ≠ x → (t.arm y).state = (s.arm y).state := by
  have busy : (s.inHand e b r).Busy := .of_alone (e := e) (b := { b with held := some r })
    ((entry_get_set _ _ _ _).trans (if_pos rfl)) nofun fun k hk =>
      (entry_get_set _ _ _ _).trans ((if_neg hk).trans (alone k hk))
  obtain ⟨w, all, made, posts, state, reaction⟩ := takeRaise_up (raise := raiseWith 7) (o := .reaction) (s := s.inHand e b r)
    ⟨stowed, fault, raising⟩ up
  have said := announce_idle_reports (by rw [posts.reactions]; exact busy.quells 7) (reaction.trans own) .stowed all .stowed
  rw [← made] at said
  have attendance := (Cascade.takeRaise (Cascade.raiseWith 7) x .reaction (s.inHand e b r)).attendance
  rw [h.raise_ready held own free action stowed fault ready, if_pos (by simp [up, raising])]
  refine ⟨_, h.completes held (said.reactions.trans posts.reactions) _ _, rfl, attendance, ?_, ?_, fun y hy => ?_⟩
  · exact (congrArg (fun f => f.motion.state) (said.arms x)).trans state
  · exact (congrArg Footing.reaction (said.arms x)).trans (reaction.trans own)
  · refine (congrArg (fun f => f.motion.state) (said.arms y)).trans ?_
    exact congrArg ArmUnit.state (posts.others y hy)

theorem Meets.raise_rises (raising : (s.arm x).state ≠ .raising) (up : (s.arm x).up = false) :
    (raiseFactor r s).reactions = s.reactions.set e (some { b with held := some r }) ∧
    (raiseFactor r s).notices = s.notices ∧
      let w := (raiseFactor r s).arm x
      w.state = .raising ∧ w.target = .stowed ∧ w.origin = .reaction ∧ w.reaction = some e ∧
      ((s.arm x).state ≠ .lowering → w.settleTimer = .stopped ∧ w.pinnedTimer = .stopped) ∧
      ∀ y, y ≠ x → (raiseFactor r s).arm y = s.arm y := by
  have marked := PostsArm.modArm x (fun u => { u with reaction := some e }) (s.inHand e b r)
  have arm : ((s.inHand e b r).modArm x fun u => { u with reaction := some e }).arm x = { s.arm x with reaction := some e } :=
    State.arm_modArm_same _ x _
  obtain ⟨w, made, posts, state, target, origin, reaction, timers⟩ := takeRaise_rises (raise := raiseWith 7) (o := .reaction)
    (s := (s.inHand e b r).modArm x fun u => { u with reaction := some e }) (a := x)
    (by rw [arm]; exact ⟨stowed, fault, raising⟩) (by rw [arm]; exact up)
  rw [arm] at reaction timers
  obtain ⟨reactions, notices, risen, others⟩ := announce_underWay (st := .raising) (.inl rfl) (raiseWith 7) (marked.trans posts)
  obtain ⟨y, z, fresh⟩ := ArmUnit.refresh_eq (w.arm x) (w.item 12) (w.item 10) (w.item 13)
  rw [fresh] at risen
  rw [h.raise_ready held own free action stowed fault ready, up, if_neg (by simp), made]
  refine ⟨reactions, notices, ?_⟩
  rw [risen]
  exact ⟨state, target, origin, reaction, timers, others⟩

end Raise

/-! ## HALT_ARM (R126) -/

section Halt

variable (action : b.action = .haltArm x)
include action

theorem Meets.halts : raiseFactor r s = complete e (haltOutcome ((haltArm (raiseWith 7) x (s.inHand e b r)).arm x).state)
    (haltArm (raiseWith 7) x (s.inHand e b r)) := by
  rw [h.handed held, action]
  show haltAction (raiseWith 7) e x (s.inHand e b r) = _
  unfold haltAction
  rw [supersede_free (s := s.inHand e b r) own free]
  rfl

/-- An arm that stands already completes HALT_ARM by its state. -/
theorem Meets.halt_stands {st : ArmState} (state : (s.arm x).state = st) (stands : st.halts = false) :
    raiseFactor r s = deliver r (some ⟨e, haltOutcome st, .all false⟩) s := by
  have same : haltArm (raiseWith 7) x (s.inHand e b r) = s.inHand e b r :=
    if_neg (by rw [show ((s.inHand e b r).arm x).state = st from state, stands]; decide)
  rw [h.halts held own free action, same, show ((s.inHand e b r).arm x).state = st from state]
  exact h.completes held rfl _ _

theorem Meets.halt_stops (halts : (s.arm x).state.halts = true) :
    ∃ t, raiseFactor r s = deliver r (some ⟨e, .halted, .all false⟩) t ∧ t.reactions = s.reactions ∧
      t.notices = s.notices ∧ t.attendance = s.attendance ∧ (t.arm x).state = .halted ∧ (t.arm x).sub = .none ∧
      (t.arm x).origin = .none ∧ (t.arm x).liftPosted = false ∧ (t.arm x).motionTimer = .stopped ∧
      (t.arm x).liftDownOpen = false ∧ (t.arm x).liftUpOpen = false ∧ (t.arm x).force = 0 ∧ (t.arm x).rot = 0 ∧
      ∀ y, y ≠ x → t.arm y = s.arm y := by
  obtain ⟨reactions, notices, state, rest⟩ := haltArm_stops (raiseWith 7) (s := s.inHand e b r) halts
  have attendance := (Cascade.haltArm (Cascade.raiseWith 7) x (s.inHand e b r)).attendance
  rw [h.halts held own free action, state]
  exact ⟨_, h.completes held reactions _ _, rfl, notices, attendance, state, rest⟩

end Halt

end Arm

end Sys2Proof.Machine
end

section
/-! PROOFS. A held raise delivered at the completion of its action. -/

namespace Sys2Proof.Machine

set_option Elab.async false

/-! ## One entry in flight and no other bound (R177) -/

/-- The entry e holds the raise r, and no other entry is bound. -/
structure HoldsAlone (s : State) (e : EntryNo) (b : Binding) (r : Raise) : Prop where
  bound : s.reactions[e] = some b
  held : b.held = some r
  alone : ∀ k : EntryNo, k ≠ e → s.reactions[k] = none

/-- What a completion leaves of the entry and of the raise it held. -/
def Reacted (e : EntryNo) (b : Binding) (r : Raise) (s : State) (o : ActionOutcome) (t : State) : Prop :=
  t.reactions = s.reactions.set e b.freed ∧ ∀ x, s.reaches r.audience x = true →
    (t.notices.get x).held[r.detail.factor] = some ⟨r.subject, r.detail, r.time, some ⟨e, o, .all false⟩⟩

theorem State.reaches_congr {s t : State} (h : t.attendance = s.attendance) (u : Audience) (x : Station) :
    t.reaches u x = s.reaches u x := by
  unfold State.reaches State.attends
  rw [h]

theorem deliver_held_own (r : Raise) (c : Option Completion) {s : State} {x : Station} (hx : s.reaches r.audience x = true) :
    ((deliver r c s).notices.get x).held[r.detail.factor] = some (r.record c) := by
  rw [deliver_get, if_pos hx, StationNotices.take_held]
  exact if_pos rfl

theorem reacted_deliver {s : State} (e : EntryNo) (b : Binding) (r : Raise) (o : ActionOutcome) {t : State} (same : t.reactions = s.reactions)
    (attends : t.attendance = s.attendance) :
    Reacted e b r s o (deliver r (some ⟨e, o, .all false⟩) { t with reactions := t.reactions.set e b.freed }) :=
  ⟨by rw [← same]; rfl, fun x hx => deliver_held_own r _ (s := { t with reactions := t.reactions.set e b.freed })
    ((State.reaches_congr attends _ x).trans hx)⟩

/-- A cap in flight that the setpoint meets (R103). -/
def State.meetsOwn (s : State) (k : EntryNo) : Action → Bool
  | .capSpeed _ => (s.travel.caps[k].map s.travel.meetsCap).getD false
  | _ => false

theorem capTest_eq (s : State) : capTest s =
    (entryList.filter fun k => s.inFlight (s.meetsOwn k) k).foldl (fun t k => complete k .reached t) s := rfl

theorem capTest_idle {t : State} (h : ∀ (k : EntryNo) d, t.reactions[k] = some d → d.held = none) : capTest t = t := by
  rw [capTest_eq, List.filter_eq_nil_iff.2 fun k _ flies => ?_]
  · rfl
  · unfold State.inFlight at flies
    rcases Option.eq_none_or_eq_some t.reactions[k] with free | ⟨d, bound⟩
    · rw [free] at flies
      cases flies
    · rw [bound] at flies
      simp [h k d bound] at flies

section Alone

variable {s : State} {e : EntryNo} {b : Binding} {r : Raise} (h : HoldsAlone s e b r)
include h

theorem HoldsAlone.congr {t : State} (same : t.reactions = s.reactions) : HoldsAlone t e b r :=
  ⟨by rw [same]; exact h.bound, h.held, fun k hk => by rw [same]; exact h.alone k hk⟩

theorem HoldsAlone.busy : s.Busy := .of_alone h.bound (by rw [h.held]; nofun) h.alone

/-- Once its action is completed nothing is in flight. -/
theorem HoldsAlone.landed {t : State} (same : t.reactions = s.reactions.set e b.freed) :
    ∀ (k : EntryNo) d, t.reactions[k] = some d → d.held = none := fun k d taken => by
  rw [same, entry_get_set] at taken
  split at taken
  · unfold Binding.freed at taken
    split at taken
    · cases taken
      rfl
    · cases taken
  · exact nomatch (h.alone k ‹_›).symm.trans taken

theorem HoldsAlone.completes (o : ActionOutcome) (z : ZoneSet) :
    completeWith e o z s = deliver r (some ⟨e, o, z⟩) { s with reactions := s.reactions.set e b.freed } :=
  completeWith_inFlight h.bound h.held o z

/-- Once its action is completed the entry answers its own factor alone. -/
theorem HoldsAlone.deaf_freed {k : Fin 24} (other : b.factor ≠ k) {t : State}
    (same : t.reactions = s.reactions.set e b.freed) : t.Deaf k := fun j d taken _ => by
  rw [same, entry_get_set] at taken
  split at taken
  · unfold Binding.freed at taken
    split at taken
    · cases taken
      exact other
    · cases taken
  · exact nomatch (h.alone j ‹_›).symm.trans taken

theorem HoldsAlone.inFlight_only {p : Action → Bool} {k : EntryNo} (flies : s.inFlight p k = true) : k = e := by
  by_contra other
  unfold State.inFlight at flies
  rw [h.alone k other] at flies
  cases flies

theorem HoldsAlone.inFlight_own (p : Action → Bool) : s.inFlight p e = p b.action := by
  unfold State.inFlight
  rw [h.bound]
  simp [h.held]

theorem HoldsAlone.completesAll (p : Action → Bool) (o : ActionOutcome) :
    completeAll p o s = if p b.action then complete e o s else s := by
  unfold Machine.completeAll
  rw [entryList_filter fun k => h.inFlight_only, h.inFlight_own]
  split <;> rfl

/-- The test of the caps in flight, with a cap of the one entry at most (R103). -/
theorem HoldsAlone.testsCap : capTest s = if s.meetsOwn e b.action then complete e .reached s else s := by
  rw [capTest_eq, entryList_filter fun k => h.inFlight_only, h.inFlight_own]
  split <;> rfl

end Alone

/-! ## The end of a motion with its reaction (R119, R123, R126) -/

section Motion

variable {s : State} {e : EntryNo} {b : Binding} {r : Raise}

/-- An arm's reaction completed with the announcement of its change: the arm's own factor before it, CHANGEOVER_DONE (4)
behind it. -/
theorem HoldsAlone.announces (h : HoldsAlone s e b r) {x : Arm} (own : (s.arm x).reaction = some e)
    (fits : b.factor = r.detail.factor) (h4 : b.factor ≠ 4) (st : ArmState) (factors : List (ArmUnit → Detail))
    (o : ActionOutcome) : let t := announce raiseFactor x st factors (some o) s
    Reacted e b r s o t ∧ (t.arm x).state = (s.arm x).state ∧ (t.arm x).reaction = none ∧
      t.work.reached = s.work.reached := by
  have refreshed := Bystands.refreshArm (loud := fun _ => True) x s
  have raised := refreshed.trans (.raiseArm (raise := raiseFactor) (fun k => by
    rw [refreshed.reactions]; exact h.busy.quells 8 k) x factors)
  have attends : (raiseArm raiseFactor x factors (refreshArm x s)).attendance = s.attendance :=
    ((Cascade.refreshArm x s).trans (Cascade.raiseArm Cascade.raiseFactor x factors _)).attendance
  obtain ⟨u, hu⟩ : ∃ u, u = raiseArm raiseFactor x factors (refreshArm x s) := ⟨_, rfl⟩
  rw [← hu] at raised attends
  have flies := h.congr raised.reactions
  have ends := endReaction_inFlight (a := x) (s := u) ((congrArg Footing.reaction (raised.arms x)).trans own) flies.bound
    flies.held o
  have begins : announce raiseFactor x st factors (some o) s = reportArm raiseFactor x st (endReaction x o u) := by
    rw [hu]
    rfl
  obtain ⟨v, hv⟩ : ∃ v, v = endReaction x o u := ⟨_, rfl⟩
  have entries : v.reactions = s.reactions.set e b.freed := by
    rw [hv, ends, ← raised.reactions]
    rfl
  have said := reportArm_reports (raise := raiseFactor) (loud := (· = 4)) (a := x) ((h.deaf_freed h4 entries).quells 8) rfl st
  have arm : v.arm x = { u.arm x with reaction := none } := by
    rw [hv, ends]
    show (u.arms.set x _).get x = _
    rw [PerArm.get_set, if_pos rfl]
  intro t
  rw [show t = reportArm raiseFactor x st v by rw [hv]; exact begins]
  refine ⟨⟨said.reactions.trans entries, fun y hy => ?_⟩, ?_, ?_, said.reached.trans ?_⟩
  · rw [said.held y _ (fits ▸ h4), hv, ends]
    exact deliver_held_own r _ ((State.reaches_congr attends _ y).trans hy)
  · refine (congrArg (fun f => f.motion.state) (said.arms x)).trans ?_
    rw [arm]
    exact congrArg (fun f => f.motion.state) (raised.arms x)
  · refine (congrArg Footing.reaction (said.arms x)).trans ?_
    rw [arm]
    rfl
  · rw [hv, ends]
    exact raised.reached

/-- The end of such an event (R100, R157). -/
theorem HoldsAlone.finishes (h : HoldsAlone s e b r) {t : State}
    (hp : t.supervision.pendingReset = none) (hw : t.work.reset = none) {o : ActionOutcome}
    (done : Reacted e b r s o t) (reached : t.work.reached = []) (fits : b.factor = r.detail.factor) (h11 : b.factor ≠ 11)
    (h12 : b.factor ≠ 12) (h13 : b.factor ≠ 13) (x : Arm) : Reacted e b r s o (finish t) ∧
      ((finish t).arm x).state = (t.arm x).state ∧ ((finish t).arm x).reaction = (t.arm x).reaction := by
  obtain ⟨entries, held⟩ := done
  have ended := finish_ended_unwoken (h.deaf_freed h11 entries)
    ⟨h.deaf_freed h12 entries, h.deaf_freed h13 entries, reached⟩ hp hw
  obtain ⟨n, told, other⟩ := blockedTold_notices t
  rw [told] at ended
  have arm := ended.arms x
  refine ⟨⟨ended.reactions.trans entries, fun y hy => ?_⟩, by rw [arm]; rfl, by rw [arm]; rfl⟩
  rw [(ended.held y _ (fits ▸ h12) (fits ▸ h13)).1]
  exact (other y _ (fits ▸ h11)).trans (held y hy)

end Motion

end Sys2Proof.Machine
end

section
/-! PROOFS. Held raises at a switch event, a motion timeout and a ramp step; the raises matched and delivered. -/

namespace Sys2Proof.Machine

set_option Elab.async false

section Reacts

variable {s : State} {e : EntryNo} {b : Binding} {r : Raise} (h : HoldsAlone s e b r) (hq : Quiet s)
include h hq

/-! ## RAISE_ARM at UP and at the motion timeout (R119, R123, R126) -/

section Arm

variable {x : Arm} (own : (s.arm x).reaction = some e) (fits : b.factor = r.detail.factor) (h4 : b.factor ≠ 4)
  (h11 : b.factor ≠ 11) (h12 : b.factor ≠ 12) (h13 : b.factor ≠ 13)
include own fits h4 h11 h12 h13

/-- The event of an announcement that completes the reaction, behind changes of the arm's record. -/
theorem HoldsAlone.announced_ends {w : State} (reactions : w.reactions = s.reactions) (attends : w.attendance = s.attendance)
    (reached : w.work.reached = s.work.reached) (kept : (w.arm x).reaction = (s.arm x).reaction) (st : ArmState)
    (factors : List (ArmUnit → Detail)) (o : ActionOutcome) {t : State}
    (made : t = announce raiseFactor x st factors (some o) w) (hp : t.supervision.pendingReset = none)
    (hw : t.work.reset = none) : ((finish t).arm x).state = (w.arm x).state ∧ ((finish t).arm x).reaction = none ∧
      Reacted e b r s o (finish t) := by
  obtain ⟨⟨entries, held⟩, state, idle, queue⟩ := (h.congr reactions).announces (kept.trans own) fits h4 st factors o
  rw [← made] at entries held state idle queue
  have done : Reacted e b r s o t :=
    ⟨entries.trans (by rw [reactions]), fun y hy => held y ((State.reaches_congr attends _ y).trans hy)⟩
  obtain ⟨reacted, stands, free⟩ := h.finishes hp hw done
    (queue.trans (reached.trans (congrArg Work.reached hq.work))) fits h11 h12 h13 x
  exact ⟨stands.trans state, free.trans idle, reacted⟩

theorem HoldsAlone.up_reacts (raising : (s.arm x).state = .raising)
    (due : (s.switches.input (.up x)).counter = .running 0) (raw : (s.switches.input (.up x)).raw = true)
    (down : (s.arm x).down = false) : ∃ t, exec (.debounceExpiry (.up x)) s = .next t ∧ (t.arm x).state = .stowed ∧
      (t.arm x).reaction = none ∧ Reacted e b r s .stowed t := by
  obtain ⟨v, hv⟩ : ∃ v, v = s.modSwitches fun k => k.setInput (.up x) (s.switches.input (.up x)).settled := ⟨_, rfl⟩
  obtain ⟨u, hu⟩ : ∃ u, u = v.modArm x fun u => { u with up := true } := ⟨_, rfl⟩
  have begins : debounceExpiry (.up x) raiseFactor s = armTakesUp raiseFactor x true v := by
    rw [hv, ← raw]
    rfl
  have arm : u.arm x = { s.arm x with up := true } := by
    rw [hu, State.arm_modArm_same, hv]
    rfl
  have ends : armTakesUp raiseFactor x true v = endRaising raiseFactor x [] u := by
    have taken : armTakesUp raiseFactor x true v = endSwitchEvent raiseFactor x u := by
      rw [hu]
      rfl
    rw [taken, endSwitchEvent, arm]
    dsimp only
    rw [if_neg (by simp [ArmUnit.conflicts, down]), if_neg (by simp [down]), if_pos (by simp [raising])]
  have cascade := Cascade.armTakesUp Cascade.raiseFactor x true v
  obtain ⟨w, all, made, posts, state, reaction, attends⟩ := endRaising_announced raiseFactor x [] u
  have entries : u.reactions = s.reactions := by rw [hu, hv]; rfl
  have queue : u.work.reached = s.work.reached := by rw [hu, hv]; rfl
  have stations : u.attendance = s.attendance := by rw [hu, hv]; rfl
  have kept : (u.arm x).reaction = (s.arm x).reaction := by rw [arm]
  have hp : v.supervision.pendingReset = none := by rw [hv]; exact hq.noReset
  have hw : v.work.reset = none := by rw [hv]; exact congrArg Work.reset hq.work
  obtain ⟨stowed, idle, reacted⟩ := h.announced_ends hq own fits h4 h11 h12 h13 (posts.reactions.trans entries)
    (attends.trans stations) (posts.reached.trans queue) (reaction.trans kept) .stowed all .stowed
    (t := debounceExpiry (.up x) raiseFactor s) (begins.trans (ends.trans made))
    (by rw [begins]; exact cascade.pendingReset.trans hp) (by rw [begins]; exact cascade.reset hp hw)
  exact ⟨_, congrArg Host.Outcome.next (if_pos (Timer.due_of_running_zero due)), stowed.trans state, idle, reacted⟩

theorem HoldsAlone.timeout_reacts (due : (s.arm x).motionTimer = .running 0) :
    ∃ t, exec (.motionTimerExpiry x) s = .next t ∧ (t.arm x).state = .fault ∧ (t.arm x).reaction = none ∧
      Reacted e b r s .faulted t := by
  obtain ⟨c, hc⟩ : ∃ c, c = if (s.arm x).state == .lowering then FaultCause.lowerTimeout else .raiseTimeout := ⟨_, rfl⟩
  have begins : motionExpiry raiseFactor x s = faultArm raiseFactor x c s := by
    rw [hc]
    rfl
  have posts := (PostsArm.withdrawLift x s).trans
    (PostsArm.modArm x (fun u => { u.stopAll with state := .fault, fault := c }) _)
  have arm := State.arm_modArm_same (withdrawLift x s) x fun u => { u.stopAll with state := .fault, fault := c }
  rw [withdrawLift_arm] at arm
  have cascade := Cascade.faultArm Cascade.raiseFactor x c s
  obtain ⟨fault, idle, reacted⟩ := h.announced_ends hq own fits h4 h11 h12 h13 posts.reactions
    (Cascade.withdrawLift x s).attendance posts.reached (by rw [arm]; rfl) .fault
    [fun _ => .armFault c (s.arm x).state (s.arm x).origin] .faulted (t := faultArm raiseFactor x c s) rfl
    (cascade.pendingReset.trans hq.noReset) (cascade.reset hq.noReset (congrArg Work.reset hq.work))
  refine ⟨_, congrArg Host.Outcome.next ((if_pos (Timer.due_of_running_zero due)).trans (congrArg finish begins)), ?_, idle,
    reacted⟩
  exact fault.trans (by rw [arm])

end Arm

/-! ## STOP_TRAVEL and CAP_SPEED at a ramp step (R97, R103, R105) -/

variable (due : s.travel.rampTimer = .running 0)
include due

theorem HoldsAlone.ramp_stops (action : b.action = .stopTravel) (stopping : s.travel.state = .stopping)
    (rest : s.travel.wheelSpeed = 0) (slows : rampStep s.travel.setpoint 0 (s.item 5) (s.item 6) = 0) :
    ∃ t, exec .rampTimerExpiry s = .next t ∧ t.travel.state ≠ .stopping ∧ Reacted e b r s .stopped t := by
  have aim : s.rampTarget = 0 := s.rampTarget_eq.trans (if_neg (by rw [stopping]; decide))
  have still : s.rampSetpoint = 0 := (congrArg (rampStep s.travel.setpoint · (s.item 5) (s.item 6)) aim).trans slows
  have stops : s.rampTravel.atStop = true := (Travel.atStop_iff _).2 ⟨stopping, still, rest⟩
  have alone : HoldsAlone { s with travel := s.rampTravel.rampEnd } e b r := h.congr rfl
  have completes : completeAll (· == .stopTravel) .stopped { s with travel := s.rampTravel.rampEnd } =
      deliver r (some ⟨e, .stopped, .all false⟩)
        { s with travel := s.rampTravel.rampEnd, reactions := s.reactions.set e b.freed } := by
    rw [alone.completesAll, action, if_pos (by rfl)]
    exact alone.completes _ _
  have ends : rampExpiry s = deliver r (some ⟨e, .stopped, .all false⟩)
      { s with travel := s.rampTravel.rampEnd.testOverspeed, reactions := s.reactions.set e b.freed } := by
    rw [rampExpiry_completes hq.noReset, if_pos stops, completes]
    exact capTest_idle (h.landed rfl)
  obtain ⟨y, z, tested⟩ := s.rampTravel.rampEnd.testOverspeed_rest
  have moved : (rampExpiry s).travel.state = s.rampTravel.rampEnd.state := by
    rw [ends]
    exact (congrArg Travel.state tested :)
  refine ⟨_, exec_rampTimerExpiry hq due, ?_, ?_⟩
  · rw [moved, Travel.rampEnd_stops stops]
    split <;> nofun
  · rw [ends]
    exact reacted_deliver (s := s) e b r .stopped (t := { s with travel := s.rampTravel.rampEnd.testOverspeed }) rfl rfl

theorem HoldsAlone.ramp_caps {v : Nat} (action : b.action = .capSpeed v) (cap : s.travel.caps[e] = some v) :
    ∃ t, exec .rampTimerExpiry s = .next t ∧ t.travel.caps = s.travel.caps ∧
      (t.travel.setpoint ≤ (v * 100 : Nat) → Reacted e b r s .reached t) ∧
      ((v * 100 : Nat) < t.travel.setpoint → t.reactions = s.reactions ∧ t.notices = s.notices) := by
  obtain ⟨g, hg⟩ : ∃ g, g = s.rampTravel.rampEnd.testOverspeed := ⟨_, rfl⟩
  obtain ⟨y, z, tested⟩ := s.rampTravel.rampEnd.testOverspeed_rest
  have caps : g.caps = s.travel.caps := by
    rw [hg, tested]
    exact s.rampTravel.rampEnd_rest.2.2.2
  have alone : HoldsAlone { s with travel := s.rampTravel.rampEnd } e b r := h.congr rfl
  have stands : completeAll (· == .stopTravel) .stopped { s with travel := s.rampTravel.rampEnd } =
      { s with travel := s.rampTravel.rampEnd } := by
    rw [alone.completesAll, action, if_neg (by rw [beq_iff_eq]; nofun)]
  have moved : HoldsAlone { s with travel := g } e b r := h.congr rfl
  have meets : ({ s with travel := g } : State).meetsOwn e (.capSpeed v) = g.meetsCap v := by
    show ((g.caps[e]).map g.meetsCap).getD false = _
    rw [caps, cap]
    rfl
  have ends : rampExpiry s = if g.meetsCap v then deliver r (some ⟨e, .reached, .all false⟩)
      { s with travel := g, reactions := s.reactions.set e b.freed } else { s with travel := g } := by
    rw [rampExpiry_completes hq.noReset, stands, ite_self]
    show capTest { s with travel := s.rampTravel.rampEnd.testOverspeed } = _
    rw [← hg, moved.testsCap, action, meets]
    exact if_congr Iff.rfl (moved.completes _ _) rfl
  refine ⟨_, exec_rampTimerExpiry hq due, ?_⟩
  rw [ends]
  have iff : g.meetsCap v = true ↔ g.setpoint ≤ (v * 100 : Nat) := by
    rw [Travel.meetsCap, decide_eq_true_iff]
    push_cast
    rfl
  cases met : g.meetsCap v
  · rw [if_neg (by decide)]
    refine ⟨caps, fun below => ?_, fun _ => ⟨rfl, rfl⟩⟩
    exact nomatch met.symm.trans (iff.2 below)
  · rw [if_pos rfl]
    exact ⟨caps, fun _ => reacted_deliver (s := s) e b r .reached (t := { s with travel := g }) rfl rfl,
      fun above => absurd (iff.1 met) (Int.not_le.2 above)⟩

end Reacts

/-- Settles O52, clause by clause: delivery, the raise no entry takes, the entry that takes one by its action, and the
completion of a held raise. -/
theorem raisesAreMatchedAndDelivered : Obligations.RaisesAreMatchedAndDelivered := by
  refine ⟨fun r c s => ⟨⟨_, rfl⟩, fun x => ?_⟩, fun r s unfit => raiseFactor_untaken (matching_none unfit),
    fun r s e b bound fits first => ?_, fun s e b r bound held alone => ?_⟩
  · intro v w k record reached
    have received := deliver_get r c s x
    refine ⟨fun away => ?_, fun here => ?_⟩
    · exact received.trans (if_neg fun h => away ((State.reaches_iff s r.audience x).1 h))
    · rw [show w = v.take (r.record c) from received.trans (if_pos ((State.reaches_iff s r.audience x).2 here))]
      exact v.take_spec (r.record c)
  · have h : Meets s r e b := ⟨bound, fits, first⟩
    refine ⟨h.inFlight, fun held action => h.stop_parked held action,
      fun held action drives still rest alone => h.stop_atRest held action drives still rest alone,
      fun held action drives moves => h.stop_moving held action drives moves,
      fun held action stopping => h.stop_again held action stopping, fun z held action => h.forces_one held action,
      fun held action => h.forces_all held action, fun v held action => ?_, fun x held action => ?_,
      fun x held action own free => ?_, fun x held action own free => ?_⟩
    · exact ⟨h.cap_below held action, fun met work _ alone => h.event_capMet held alone action work met⟩
    · exact ⟨fun k d q other own bound' flies => h.supersedes held action other own bound' flies,
        fun c p record pending => h.overtakes held action record pending⟩
    · exact ⟨h.raise_stowed held own free action, h.raise_fault held own free action,
        h.raise_notReady held own free action,
        fun state ready => h.raise_raising held own free action (by rw [state]; decide) (by rw [state]; decide) ready state,
        fun stowed fault raising ready up alone =>
          h.raise_up held own free action stowed fault ready raising up alone,
        fun stowed fault raising ready up => h.raise_rises held own free action stowed fault ready raising up⟩
    · refine ⟨fun state => h.halt_stands held own free action state rfl, fun state => h.halt_stands held own free action state rfl,
        fun state => h.halt_stands held own free action state rfl, fun stowed fault halted => ?_⟩
      refine h.halt_stops held own free action ?_
      cases state : (s.arm x).state
      case stowed => exact absurd state stowed
      case fault => exact absurd state fault
      case halted => exact absurd state halted
      case lowering | working | deflected | raising => rfl
  · have h : HoldsAlone s e b r := ⟨bound, held, alone⟩
    refine ⟨fun o zones => h.completes o zones, fun x hq own fits h4 h11 h12 h13 => ⟨fun raising due raw down => ?_,
      fun due => ?_⟩, fun hq due => ⟨fun action stopping rest slows => ?_, fun v action cap => ?_⟩⟩
    · exact h.up_reacts hq own fits h4 h11 h12 h13 raising due raw down
    · exact h.timeout_reacts hq own fits h4 h11 h12 h13 due
    · exact h.ramp_stops hq due action stopping rest slows
    · exact h.ramp_caps hq due action cap

end Sys2Proof.Machine
end

section
/-! PROOFS. The tests of ARM_COMMAND that its four rows share. -/

namespace Sys2Proof.Machine

set_option Elab.async false

/-! ## A row of ARM_COMMAND (R10, R113) -/

/-- A row of ARM_COMMAND: its command byte, the test of R10 behind the claim, and the command's own decision. -/
structure ArmRow where
  code : Nat
  before : Owner → Owner
  owner : Raiser → Arm → Owner

def ArmRow.lower : ArmRow := ⟨0, commissionTest, lowerOwner⟩
def ArmRow.raise : ArmRow := ⟨1, id, raiseOwner⟩
def ArmRow.halt : ArmRow := ⟨2, id, haltOwner⟩
def ArmRow.clear : ArmRow := ⟨3, id, clearOwner⟩

/-- The decision of a row over a claim that is held and the test of R10 passed. -/
def ArmRow.decide (row : ArmRow) : Owner := armOwner row.code row.before (row.owner raiseFactor)

/-- What every ARM_COMMAND of an arm's holder finds that is its row's own and passes the row's test of R10. -/
structure AsksArm (row : ArmRow) (c : Instr) (l : Station) (tag : Byte) (ps : List Byte) (a : Arm) (s : State) : Prop where
  runs : exec c s = .next (serveArm row.code row.before row.owner l tag ps s)
  passes : ∀ k : Owner, row.before k l ps (heard Form.armCommand l tag ps s) = k l ps (heard Form.armCommand l tag ps s)
  own : otherCommand row.code ps = false
  sent : Sent Form.armCommand l ps s
  work : workClear s
  arm : armOf (byteAt ps 0) = some a
  holds : (s.claims.get a.group).holder = some l

/-- The frame of a row of its own names that row's command, where it names one of the four. -/
theorem otherCommand_own {cmd : Nat} {l : Station} {ps : List Byte} {s : State} (sent : Sent Form.armCommand l ps s)
    (own : otherCommand cmd ps = false) (one : byteAt ps 1 ≤ 3) : byteAt ps 1 = cmd := by
  have two : (ps.length == 2) = true := (Bool.and_eq_true_iff.1 sent.form).1
  unfold otherCommand at own
  rw [two, decide_eq_true (Nat.lt_succ_of_le one)] at own
  simpa using own

section AsksArm

variable {row : ArmRow} {c : Instr} {l : Station} {tag : Byte} {ps : List Byte} {a : Arm} {s : State}
  (h : AsksArm row c l tag ps a s)
include h

theorem AsksArm.event : exec c s =
    .next (serveEvent Form.armCommand (fun raise => armOwner row.code row.before (row.owner raise)) l tag ps s) :=
  h.runs.trans (congrArg Host.Outcome.next (serveArm_event h.own ..))

/-- The tests of R113 behind those of R10. -/
theorem AsksArm.decides : row.decide l ps (heard Form.armCommand l tag ps s) =
    if byteAt ps 1 ≠ row.code then .refuse .badParam (heard Form.armCommand l tag ps s)
    else if (s.arm a).reaction.isSome then .refuseFor .refusedState .reaction (heard Form.armCommand l tag ps s)
    else if s.involved a then .refuseFor .refusedBusy .changeover (heard Form.armCommand l tag ps s)
    else row.owner raiseFactor a l ps (heard Form.armCommand l tag ps s) := by
  unfold ArmRow.decide armOwner forArm
  rw [h.arm]
  refine claimTest_heard.trans ((if_pos h.holds).trans ?_)
  rw [h.passes]
  rfl

/-- An ARM_COMMAND answered with nothing else changed. -/
theorem AsksArm.replied {st : Status} {d : Payload} (answer : row.decide l ps (heard Form.armCommand l tag ps s) =
    ⟨st, d, heard Form.armCommand l tag ps s⟩) :
    exec c s = .next (Machine.replied Form.armCommand l tag ps st d s) :=
  h.event.trans (congrArg Host.Outcome.next (serveEvent_done
    (owner := fun raise => armOwner row.code row.before (row.owner raise)) h.sent tag answer rfl h.work))

/-- R113: the refusals that the four commands share. -/
theorem AsksArm.refusals (few : row.code ≤ 3) :
    (3 < byteAt ps 1 → exec c s = .next (Machine.replied Form.armCommand l tag ps .badParam .none s)) ∧
    (byteAt ps 1 ≤ 3 → (s.arm a).reaction ≠ none →
      exec c s = .next (Machine.replied Form.armCommand l tag ps .refusedState (.reason .reaction) s)) ∧
    (byteAt ps 1 ≤ 3 → (s.arm a).reaction = none → s.involved a = true →
      exec c s = .next (Machine.replied Form.armCommand l tag ps .refusedBusy (.reason .changeover) s)) := by
  refine ⟨fun none => ?_, fun one flies => ?_, fun one still moved => ?_⟩
  · exact h.replied (h.decides.trans (if_pos (by omega)))
  · have own := otherCommand_own h.sent h.own one
    exact h.replied (h.decides.trans ((if_neg (not_not.2 own)).trans (if_pos (Option.isSome_iff_ne_none.2 flies))))
  · have own := otherCommand_own h.sent h.own one
    exact h.replied (h.decides.trans ((if_neg (not_not.2 own)).trans ((if_neg (by simp [still])).trans (if_pos moved))))

end AsksArm

/-- Settles O43: the four rows in turn. -/
theorem armCommandRefusals : Obligations.ArmCommandRefusals := by
  intro l tag ps s a sent work arm holds mode c row own
  rcases row with rfl | rfl | rfl | rfl
  · exact AsksArm.refusals (row := .lower) ⟨rfl, fun _ => if_neg mode, own_and_fits own, sent, work, arm, holds⟩ (by decide)
  · exact AsksArm.refusals (row := .raise) ⟨rfl, fun _ => rfl, own_and_fits own, sent, work, arm, holds⟩ (by decide)
  · exact AsksArm.refusals (row := .halt) ⟨rfl, fun _ => rfl, own_and_fits own, sent, work, arm, holds⟩ (by decide)
  · exact AsksArm.refusals (row := .clear) ⟨rfl, fun _ => rfl, own_and_fits own, sent, work, arm, holds⟩ (by decide)

end Sys2Proof.Machine
end

section
/-! PROOFS. An arm announced with no reaction bound, and what the end of its event leaves of the arms. -/

namespace Sys2Proof.Machine

set_option Elab.async false

/-! ## The force of an arm that is not WORKING (R111) -/

/-- The force is off where the arm is not WORKING. -/
def ArmUnit.unpressed (u : ArmUnit) : Prop := u.state ≠ .working → u.force = 0

theorem ArmUnit.refresh_unpressed (u : ArmUnit) (full m n : Nat) : (u.refresh full m n).unpressed := fun up => by
  obtain ⟨commands, state, -⟩ := ArmUnit.refresh_commands u full m n
  exact commands.force.trans (if_neg up)

theorem handValues_unpressed (a : Arm) (s : State) : ((handValues s).arm a).unpressed := fun up => by
  obtain ⟨-, -, -, -, -, -, -, -, hands⟩ := handValues_hands s
  exact (hands a).force.trans (if_neg ((hands a).state ▸ up))

/-- With no reaction bound a raise leaves the arms. -/
theorem Plainly.arms {raise : Raiser} (hr : Plainly raise) {s : State} (hn : NoReactions s) (r : Raise) :
    (raise r s).arms = s.arms := by rw [hr r s hn]; rfl

theorem raiseArm_arms {raise : Raiser} (hr : Plainly raise) {s : State} (hn : NoReactions s) (a : Arm)
    (factors : List (ArmUnit → Detail)) : (raiseArm raise a factors s).arms = s.arms := by
  induction factors generalizing s with
  | nil => rfl
  | cons d l ih => exact (ih ((hr.calm hn _).unbound hn)).trans (hr.arms hn _)

theorem completeIfDone_unpressed {raise : Raiser} (hr : Plainly raise) {s : State} (hn : NoReactions s) {a : Arm}
    (h : (s.arm a).unpressed) : ((completeIfDone raise s).arm a).unpressed := by
  unfold completeIfDone
  split
  · rename_i c _
    split
    · exact h
    · split
      · have handed : Calm none s (handValues (endSlots c.kind s).dropRecord) :=
          ((Calm.endSlots c.kind s).trans (Calm.modProfile _ _)).trans (Calm.handValues _)
        rw [State.arm, completeChangeover, changeoverDone, hr.arms (handed.unbound hn)]
        exact handValues_unpressed a _
      · exact h
  · exact h

theorem changeoverProgress_unpressed {raise : Raiser} (hr : Plainly raise) {s : State} (hn : NoReactions s) {a : Arm}
    (h : (s.arm a).unpressed) (b : Arm) (st : ArmState) : ((changeoverProgress raise b st s).arm a).unpressed := by
  unfold changeoverProgress
  split
  · exact h
  · split
    · exact h
    · split
      · exact completeIfDone_unpressed (s := s.modProfile _) hr hn h
      · exact h

/-- A report hands the arm's state to the other blocks, and to the changeover last (R112). -/
theorem reportArm_progress (raise : Raiser) (a : Arm) (st : ArmState) (s : State) :
    ∃ t, Hushed s t ∧ reportArm raise a st s = changeoverProgress raise a st t :=
  ⟨_, (((Hushed.travelTakesArm a _ _ s).trans (Hushed.sprayTakesArm a _ _)).trans (Hushed.waterTakesArm a _ _)).trans
    (Hushed.superTakesArm a _ _), rfl⟩

theorem reportArm_unpressed {raise : Raiser} (hr : Plainly raise) {s : State} (hn : NoReactions s) {a : Arm}
    (h : (s.arm a).unpressed) (b : Arm) (st : ArmState) : ((reportArm raise b st s).arm a).unpressed := by
  obtain ⟨t, taken, progress⟩ := reportArm_progress raise b st s
  rw [progress]
  refine changeoverProgress_unpressed hr (fun e => by rw [taken.reactions]; exact hn e) ?_ b st
  rw [State.arm, taken.arms]
  exact h

/-- An arm without a reaction in flight is announced with its outputs off as its state has them. -/
theorem announce_outputs {raise : Raiser} (hr : Plainly raise) (hc : ∀ r u, Cascade u (raise r u)) {s : State}
    (hn : NoReactions s) {a : Arm} (st : ArmState) (factors : List (ArmUnit → Detail)) (out : Option ActionOutcome) :
    ((announce raise a st factors out s).arm a).lawful ∧
      ((s.arm a).reaction = none → ((announce raise a st factors out s).arm a).unpressed) := by
  have lawful : ((refreshArm a s).arm a).lawful := by rw [refreshArm_arm]; exact ArmUnit.refresh_lawful ..
  have unpressed : ((refreshArm a s).arm a).unpressed := by rw [refreshArm_arm]; exact ArmUnit.refresh_unpressed _ _ _ _
  have calm := Calm.refreshArm a s
  have raised := calm.trans (Calm.raiseArm hr (calm.unbound hn) a factors)
  have arms := raiseArm_arms hr (calm.unbound hn) a factors
  have frame : Frame (.report a) .cascade (refreshArm a s) (raiseArm raise a factors (refreshArm a s)) :=
    (Frame.refl _ _ _).andThen (Cascade.raiseArm hc a factors _)
  have said : State.arm (raiseArm raise a factors (refreshArm a s)) a = (refreshArm a s).arm a := by
    rw [State.arm, arms]; rfl
  cases out with
  | none =>
    exact ⟨(reportArm_frame hc frame).arms a nofun lawful,
      fun _ => reportArm_unpressed hr (raised.unbound hn) (by rw [said]; exact unpressed) a st⟩
  | some o =>
    refine ⟨(reportArm_frame hc (frame.andThen (Cascade.endReaction a o _))).arms a nofun lawful, fun idle => ?_⟩
    have idle : (State.arm (raiseArm raise a factors (refreshArm a s)) a).reaction = none := by
      rw [said, refreshArm_arm]
      exact (congrArg Footing.reaction (ArmUnit.refresh_footing ..)).trans idle
    have stands : announce raise a st factors (some o) s = reportArm raise a st (raiseArm raise a factors (refreshArm a s)) :=
      congrArg (reportArm raise a st) (endReaction_none idle o)
    rw [stands]
    exact reportArm_unpressed hr (raised.unbound hn) (by rw [said]; exact unpressed) a st

/-! ## An arm announced (R111, R112) -/

/-- An operation that announces arm a behind changes of the arm's record and of what is posted, which give w. -/
structure Announces (raise : Raiser) (a : Arm) (s w t : State) : Prop where
  made : ∃ st factors out, t = announce raise a st factors out w
  posts : PostsArm a s w
  reaction : (w.arm a).reaction = (s.arm a).reaction

/-- Arm a announced at a footing, in an event that has done nothing else to the arms. -/
structure ArmSaid (a : Arm) (f : Footing) (s v : State) : Prop where
  unbound : NoReactions v
  reached : v.work.reached = s.work.reached
  arm : (v.arm a).footing = f
  unpressed : (v.arm a).unpressed
  lawful : (v.arm a).lawful
  others : ∀ b, b ≠ a → (v.arm b).motion = (s.arm b).motion

section Announces

variable {a : Arm} {s w v : State} (h : Announces raiseFactor a s w v) (hn : NoReactions s)
include h hn

theorem Announces.said (idle : (s.arm a).reaction = none) : ArmSaid a (w.arm a).footing s v := by
  obtain ⟨⟨st, factors, out, rfl⟩, posts, reaction⟩ := h
  have unbound := posts.unbound hn
  have quells : ∀ k, Quells raiseFactor w.reactions k := fun k => (unbound.deaf k).quells 8
  have said : Reports (fun _ => True) a w (announce raiseFactor a st factors out w) := by
    cases out with
    | none => exact announce_reports quells a st factors
    | some o => exact announce_idle_reports quells (reaction.trans idle) st factors o
  obtain ⟨lawful, unpressed⟩ := announce_outputs raiseFactor_plainly Cascade.raiseFactor unbound st factors out (a := a)
  refine ⟨fun e => by rw [said.reactions]; exact unbound e, said.reached.trans posts.reached, said.arms a,
    unpressed (reaction.trans idle), lawful, fun b hb => (congrArg Footing.motion (said.arms b)).trans ?_⟩
  exact congrArg ArmUnit.motion (posts.others b hb)

/-- R185: where the arm has settled as the last one, a settled reset that is pending becomes due. -/
theorem Announces.reset : v.work.reset =
    if (w.arm a).state.settled && s.resetRipe (s.supervision.armDone.set a true) then some (.settled false)
    else s.work.reset := by
  obtain ⟨⟨st, factors, out, rfl⟩, posts, -⟩ := h
  rw [(announce_moves raiseFactor_plainly (posts.unbound hn) a st factors out).ripe, posts.reset]
  unfold State.resetRipe
  rw [posts.supervision, posts.travel]
  rfl

end Announces

/-- The links that answer stand apart from the arms. -/
theorem ArmSaid.answered {a : Arm} {f : Footing} {s v : State} (h : ArmSaid a f s v) (k : PerStation Link) :
    ArmSaid a f s { v with links := k } := { h with }

/-! ## The end of its event (R157) -/

/-- With no reaction bound and no reset that becomes due, an event ends with the REVERSE_BLOCKED that is due and the
passes. -/
theorem finish_ended_noReset {s : State} (hn : NoReactions s) (hr : s.work.reached = [])
    (calm : (settleAll s).work.reset = none) : Ended s.blockedTold (finish s) := by
  obtain ⟨w, told, reached, -⟩ := raiseBlocked_told (hn.deaf 11)
  obtain ⟨n, same, -⟩ := blockedTold_notices s
  have start : Unwoken (raiseBlocked raiseFactor s) := by
    rw [told, same]
    exact NoReactions.unwoken hn (reached.trans hr)
  have passes := Winds.settle 16 start
  have none : (settle 16 (raiseBlocked raiseFactor s)).work.reached = [] := passes.reached.trans start.reached
  have all : settleAll s = (settle 16 (raiseBlocked raiseFactor s)).modWork fun w => { w with reached := [] } := by
    unfold settleAll deliverReached freeReached
    rw [none]
    rfl
  rw [finish_calm calm, all]
  rw [told] at passes ⊢
  exact (((Ended.modWork _ _).trans passes.toEnded).trans (Ended.modWork _ _)).trans (Ended.modWork _ _)

/-- What the event's end leaves of arm a, announced at a record, and of the others. -/
structure ArmLeft (a : Arm) (u : ArmUnit) (s t : State) : Prop where
  record : t.arm a = { u with
    liftGrant := (t.arm a).liftGrant, rotGrant := (t.arm a).rotGrant, sub := (t.arm a).sub
    motionTimer := (t.arm a).motionTimer, liftDownOpen := (t.arm a).liftDownOpen
    liftUpOpen := (t.arm a).liftUpOpen, rot := (t.arm a).rot }
  waits : (t.arm a).sub = .awaitingSpeed ↔ u.sub = .awaitingSpeed
  rests : u.sub = .none → (t.arm a).sub = .none ∧ (t.arm a).motionTimer = u.motionTimer
  off : u.state ≠ .working → u.state ≠ .deflected → (t.arm a).force = 0 ∧ (t.arm a).rot = 0
  shut : u.state ≠ .lowering → u.state ≠ .raising → (t.arm a).liftDownOpen = false ∧ (t.arm a).liftUpOpen = false
  others : ∀ b, b ≠ a → (t.arm b).state = (s.arm b).state ∧ (t.arm b).target = (s.arm b).target

theorem ArmLeft.motion {a : Arm} {u : ArmUnit} {s t : State} (h : ArmLeft a u s t) : (t.arm a).motion = u.motion := by
  rw [h.record]; rfl

theorem ArmLeft.posted {a : Arm} {u : ArmUnit} {s t : State} (h : ArmLeft a u s t) : (t.arm a).liftPosted = u.liftPosted := by
  rw [h.record]

theorem ArmSaid.left {a : Arm} {f : Footing} {s v : State} (h : ArmSaid a f s v) (reached : s.work.reached = [])
    (calm : (settleAll v).work.reset = none) : ArmLeft a (v.arm a) s (finish v) := by
  obtain ⟨n, told, -⟩ := blockedTold_notices v
  have ended := finish_ended_noReset h.unbound (h.reached.trans reached) calm
  rw [told] at ended
  have motions : ∀ b, ((finish v).arm b).motion = (v.arm b).motion := fun b => by rw [ended.arms b]; rfl
  obtain ⟨down, lift, turns⟩ : ((finish v).arm a).lawful := by
    rw [finish_calm calm]
    exact (Cascade.settleAll v).arms a nofun h.lawful
  rw [show ((finish v).arm a).state = (v.arm a).state from congrArg Motion.state (motions a)] at down lift turns
  refine ⟨ended.arms a, ended.waits a, fun still => ?_, fun notWorking notDeflected => ⟨?_, ?_⟩,
    fun notDown notUp => ⟨?_, ?_⟩, fun b hb => ?_⟩
  · obtain ⟨sub, timer, -⟩ := ended.still a still
    exact ⟨sub, timer⟩
  · rw [ended.arms a]
    exact h.unpressed notWorking
  · by_contra moves
    exact (turns moves).elim notWorking notDeflected
  · exact Bool.eq_false_iff.2 fun opened => notDown (down opened).1
  · exact Bool.eq_false_iff.2 fun opened => notUp (lift opened).1
  · have same := (motions b).trans (h.others b hb)
    exact ⟨congrArg Motion.state same, congrArg Motion.target same⟩

end Sys2Proof.Machine
end

section
/-! PROOFS. A command on an arm that no reaction and no changeover holds, and ARM_RAISE. -/

namespace Sys2Proof.Machine

set_option Elab.async false

/-! ## An arm that no reaction and no changeover holds (R113) -/

/-- What every ARM_COMMAND finds that its command's own decision meets. -/
structure AsksIdleArm (row : ArmRow) (c : Instr) (l : Station) (tag : Byte) (ps : List Byte) (a : Arm) (s : State) : Prop
    extends AsksArm row c l tag ps a s where
  command : byteAt ps 1 = row.code
  reaction : (s.arm a).reaction = none
  free : s.involved a = false

section AsksIdleArm

variable {row : ArmRow} {c : Instr} {l : Station} {tag : Byte} {ps : List Byte} {a : Arm} {s : State}
  (h : AsksIdleArm row c l tag ps a s) {st : Status} {d : Payload} {v : State}
include h

theorem AsksIdleArm.owner : row.decide l ps (heard Form.armCommand l tag ps s) =
    row.owner raiseFactor a l ps (heard Form.armCommand l tag ps s) :=
  h.decides.trans ((if_neg (not_not.2 h.command)).trans ((if_neg (by simp [h.reaction])).trans (if_neg (by simp [h.free]))))

/-- A command answered with nothing else changed. -/
theorem AsksIdleArm.stands (answer : row.owner raiseFactor a l ps (heard Form.armCommand l tag ps s) =
    ⟨st, d, heard Form.armCommand l tag ps s⟩) :
    exec c s = .next (Machine.replied Form.armCommand l tag ps st d s) := h.replied (h.owner.trans answer)

variable (answer : row.owner raiseFactor a l ps (heard Form.armCommand l tag ps s) = ⟨st, d, v⟩)
  (cascade : Cascade (heard Form.armCommand l tag ps s) v)
include answer cascade

/-- A command that its owner takes on ends its event over the owner's state, answered. -/
theorem AsksIdleArm.runs_finish : exec c s =
    .next (finish { v with links := linksAfter Form.armCommand l tag ps st d s }) :=
  h.event.trans (congrArg Host.Outcome.next (serveEvent_finish
    (owner := fun raise => armOwner row.code row.before (row.owner raise)) h.sent (h.owner.trans answer) cascade.links))

/-- A command that announces its arm: it is served where no settled reset is pending, or where none is bound and the arm is
not the last to settle; and with none bound the arm is left as announced. -/
theorem AsksIdleArm.accepts {w : State} (announces : Announces raiseFactor a (heard Form.armCommand l tag ps s) w v)
    (waits : ((w.arm a).state.settled && s.resetRipe (s.supervision.armDone.set a true)) = false)
    (settled : s.supervision.pendingReset = none ∨ NoReactions s) :
    ∃ t, exec c s = .next t ∧ Served Form.armCommand l tag ps st d s t ∧ (NoReactions s →
      (v.arm a).footing = (w.arm a).footing ∧ ArmLeft a (v.arm a) s t) := by
  have calm : (settleAll { v with links := linksAfter Form.armCommand l tag ps st d s }).work.reset = none := by
    rcases settled with none | hn
    · exact settle_reset (cascade.pendingReset.trans none) (cascade.reset none (congrArg Work.reset h.work))
    · have stays : v.work.reset = none :=
        (announces.reset hn).trans ((if_neg (Bool.eq_false_iff.1 waits)).trans (congrArg Work.reset h.work))
      have ends := Calm.settleAll (s := { v with links := linksAfter Form.armCommand l tag ps st d s }) (cascade.unbound hn)
      exact ends.reset.trans stays
  obtain ⟨-, served⟩ := served_finish (v := heard Form.armCommand l tag ps s) (heard_kept ..) rfl rfl rfl rfl cascade h.sent
    (h.owner.trans answer) calm
  rw [serve_done h.sent tag (h.owner.trans answer) cascade.links] at served
  refine ⟨_, h.runs_finish answer cascade, served, fun hn => ?_⟩
  have said := announces.said hn h.reaction
  exact ⟨said.arm, { (said.answered _).left (congrArg Work.reached h.work) calm with }⟩

end AsksIdleArm

/-! ## ARM_RAISE (R115) -/

/-- The record of an arm that RAISE has brought on its way for a cause, or to its end where UP is asserted (R118, R119,
R122). -/
structure ArmUnit.Raised (o : Origin) (u : ArmUnit) (f : Footing) : Prop where
  target : f.motion.target = .stowed
  goes : u.up = false → f.motion.state = .raising ∧ f.motion.origin = o ∧ f.sub ≠ .awaitingSpeed
  ends : u.up = true → f.motion.state = .stowed ∧ f.motion.origin = .none ∧ f.sub = .none ∧ f.motionTimer = .stopped ∧
    f.liftPosted = false

section Raise

variable {raise : Raiser} {a : Arm} {o : Origin} {s : State}

/-- What RAISE makes of an arm's record first. -/
structure ArmUnit.UpFor (o : Origin) (u v : ArmUnit) : Prop where
  target : v.target = .stowed
  origin : v.origin = o
  reaction : v.reaction = u.reaction

/-- The record of an arm that has ended its motion at UP. -/
def ArmUnit.atUp (u : ArmUnit) : ArmUnit :=
  { u with state := .stowed, sub := .none, motionTimer := .stopped, origin := .none }

theorem endRaising_raised {f : ArmUnit → ArmUnit} (first : ArmUnit.UpFor o (s.arm a) (f (s.arm a)))
    (up : (s.arm a).up = true) : ∃ w, Announces raise a s w (endRaising raise a [] (s.modArm a f)) ∧
      ArmUnit.Raised o (s.arm a) (w.arm a).footing := by
  have posts := ((PostsArm.modArm a f s).trans (PostsArm.withdrawLift a _)).trans (PostsArm.modArm a ArmUnit.atUp _)
  have arm : ((withdrawLift a (s.modArm a f)).modArm a ArmUnit.atUp).arm a =
      ArmUnit.atUp { f (s.arm a) with liftPosted := false, liftGrant := 0 } := by
    rw [State.arm_modArm_same, withdrawLift_arm, State.arm_modArm_same]
  refine ⟨(withdrawLift a (s.modArm a f)).modArm a ArmUnit.atUp,
    ⟨⟨.stowed, _, some .stowed, rfl⟩, posts, by rw [arm]; exact first.reaction⟩, ?_⟩
  rw [arm]
  exact ⟨first.target, fun clear => absurd (clear.symm.trans up) nofun, fun _ => ⟨rfl, rfl, rfl, rfl, rfl⟩⟩

/-- The arm at its first record, RAISING. -/
def State.raisingAt (s : State) (a : Arm) (f : ArmUnit → ArmUnit) : State :=
  (s.modArm a f).modArm a fun u => { u with state := .raising }

theorem raisingAt_posts (s : State) (a : Arm) (f : ArmUnit → ArmUnit) : PostsArm a s (s.raisingAt a f) :=
  (PostsArm.modArm a f s).trans (PostsArm.modArm a _ _)

theorem raisingAt_arm (s : State) (a : Arm) (f : ArmUnit → ArmUnit) :
    (s.raisingAt a f).arm a = { f (s.arm a) with state := .raising } := by
  rw [State.raisingAt, State.arm_modArm_same, State.arm_modArm_same]

/-- An arm on its way up, its motion under way or waiting for flow. -/
theorem raising_raised {f : ArmUnit → ArmUnit} (first : ArmUnit.UpFor o (s.arm a) (f (s.arm a)))
    (up : (s.arm a).up = false) {w : State} (posts : PostsArm a (s.raisingAt a f) w) {sub : ArmSub} {posted : Bool}
    {timer : Timer} (step : sub ≠ .awaitingSpeed) (arm : (w.arm a).footing =
      ⟨((s.raisingAt a f).arm a).motion, sub, posted, timer, (f (s.arm a)).reaction⟩) :
    Announces raise a s w (announce raise a .raising [] none w) ∧ ArmUnit.Raised o (s.arm a) (w.arm a).footing := by
  refine ⟨⟨⟨_, _, _, rfl⟩, (raisingAt_posts s a f).trans posts,
    (congrArg Footing.reaction arm).trans first.reaction⟩, ?_⟩
  rw [arm, raisingAt_arm]
  exact ⟨first.target, fun _ => ⟨rfl, first.origin, step⟩, fun set => absurd (up.symm.trans set) nofun⟩

theorem awaitFlow_raised {f : ArmUnit → ArmUnit} (first : ArmUnit.UpFor o (s.arm a) (f (s.arm a)))
    (up : (s.arm a).up = false) : ∃ w, Announces raise a s w
      (announce raise a .raising [] none (awaitFlow a (s.raisingAt a f))) ∧ ArmUnit.Raised o (s.arm a) (w.arm a).footing := by
  refine ⟨_, raising_raised (sub := .awaitingFlow) (posted := true) (timer := (f (s.arm a)).motionTimer) first up
    (PostsArm.awaitFlow a _) nofun ?_⟩
  rw [awaitFlow_arm, raisingAt_arm]
  rfl

/-- The first record of a motion upward that is entered. -/
def ArmUnit.enterUp (o : Origin) (u : ArmUnit) : ArmUnit :=
  { u with target := .stowed, origin := o, motionTimer := .stopped, settleTimer := .stopped, pinnedTimer := .stopped }

/-- The first record of a motion that is reversed upward. -/
def ArmUnit.turnUp (o : Origin) (u : ArmUnit) : ArmUnit :=
  { u with target := .stowed, origin := o, motionTimer := .stopped }

theorem enterRaising_raised : ∃ w, Announces raise a s w (enterRaising raise a o [] s) ∧
    ArmUnit.Raised o (s.arm a) (w.arm a).footing := by
  have first : ArmUnit.UpFor o (s.arm a) ((s.arm a).enterUp o) := ⟨rfl, rfl, rfl⟩
  have own : ((s.modArm a (ArmUnit.enterUp o)).arm a).up = (s.arm a).up := by rw [State.arm_modArm_same]; rfl
  cases up : (s.arm a).up
  · rw [show enterRaising raise a o [] s = announce raise a .raising [] none (awaitFlow a (s.raisingAt a (ArmUnit.enterUp o)))
      from if_neg (Bool.eq_false_iff.1 (own.trans up))]
    exact awaitFlow_raised first up
  · rw [show enterRaising raise a o [] s = endRaising raise a [] (s.modArm a (ArmUnit.enterUp o))
      from if_pos (own.trans up)]
    exact endRaising_raised first up

theorem reverseToRaising_raised : ∃ w, Announces raise a s w (reverseToRaising raise a o s) ∧
    ArmUnit.Raised o (s.arm a) (w.arm a).footing := by
  have first : ArmUnit.UpFor o (s.arm a) ((s.arm a).turnUp o) := ⟨rfl, rfl, rfl⟩
  have own : ((s.modArm a (ArmUnit.turnUp o)).arm a).up = (s.arm a).up := by rw [State.arm_modArm_same]; rfl
  cases up : (s.arm a).up
  · rw [show reverseToRaising raise a o s = announce raise a .raising [] none
        (if ((s.raisingAt a (ArmUnit.turnUp o)).arm a).sub == .moving then
          (s.raisingAt a (ArmUnit.turnUp o)).modArm a fun u => { u with motionTimer := .running (s.item 9) }
        else awaitFlow a (s.raisingAt a (ArmUnit.turnUp o)))
      from if_neg (Bool.eq_false_iff.1 (own.trans up))]
    split
    · rename_i moving
      refine ⟨_, raising_raised (sub := .moving) (posted := (s.arm a).liftPosted) (timer := .running (s.item 9)) first up
        (PostsArm.modArm a _ _) nofun ?_⟩
      rw [State.arm_modArm_same, ← eq_of_beq moving, raisingAt_arm]
      rfl
    · exact awaitFlow_raised first up
  · rw [show reverseToRaising raise a o s = endRaising raise a [] (s.modArm a (ArmUnit.turnUp o))
      from if_pos (own.trans up)]
    exact endRaising_raised first up

/-- R115: RAISE announces, behind changes of its arm's record and of what is posted, the arm it has raised. -/
theorem takeRaise_raised (rises : (s.arm a).state.risesFrom) : ∃ w, Announces raise a s w (takeRaise raise a o s) ∧
    ArmUnit.Raised o (s.arm a) (w.arm a).footing := by
  obtain ⟨stowed, fault, raising⟩ := rises
  unfold takeRaise
  cases state : (s.arm a).state
  case stowed => exact absurd state stowed
  case fault => exact absurd state fault
  case raising => exact absurd state raising
  case lowering => exact reverseToRaising_raised
  case working => exact enterRaising_raised
  case deflected => exact enterRaising_raised
  case halted => exact enterRaising_raised

/-- With no reaction bound RAISE leaves the stores that a requested reset keeps. -/
theorem takeRaise_steady (hr : Plainly raise) (hn : NoReactions s) : Steady s (takeRaise raise a o s) := by
  rcases takeRaise_moves hr hn a o with ⟨same, -⟩ | moves
  · rw [same]
    exact .refl s
  · exact moves.toSteady

end Raise

theorem ArmUnit.Raised.settled_iff {o : Origin} {u v : ArmUnit} (h : ArmUnit.Raised o u v.footing) :
    v.state.settled = true ↔ u.up = true := by
  cases up : u.up
  · rw [show v.state = .raising from (h.goes up).1]
    exact iff_of_false nofun nofun
  · rw [show v.state = .stowed from (h.ends up).1]
    exact iff_of_true rfl rfl

/-- R185: arm a is the last that a settled reset, pending in PARKED, waits for. -/
theorem resetRipe_set_iff (s : State) (a : Arm) : s.resetRipe (s.supervision.armDone.set a true) = true ↔
    s.supervision.pendingReset ≠ none ∧ s.travel.state = .parked ∧ ∀ b, b ≠ a → s.supervision.armDone.get b = true := by
  have all : PerArm.allSet (s.supervision.armDone.set a true) = true ↔ ∀ b, b ≠ a → s.supervision.armDone.get b = true := by
    rw [PerArm.allSet_iff]
    refine forall_congr' fun b => ?_
    rw [PerArm.get_set]
    by_cases same : b = a <;> simp [same]
  unfold State.resetRipe
  rw [Bool.and_eq_true, Bool.and_eq_true, all, beq_iff_eq, Option.isSome_iff_ne_none, and_assoc]

section RaiseTest

variable {a : Arm} {s : State}

theorem raiseTest_fault (h : (s.arm a).state = .fault) : raiseTest a s = some .fault := if_pos h

theorem raiseTest_uncommissioned (h : (s.arm a).state ≠ .fault) (ready : ¬(s.liftItem? a ≠ none ∧ s.item? 9 ≠ none)) :
    raiseTest a s = some .uncommissionedItem :=
  (if_neg h).trans (if_pos (by rw [Bool.eq_false_iff.2 (mt (s.canRaise_iff a).1 ready)]; rfl))

theorem raiseTest_passes (h : (s.arm a).state ≠ .fault) (ready : s.liftItem? a ≠ none ∧ s.item? 9 ≠ none) :
    raiseTest a s = none := (if_neg h).trans (if_neg (by rw [(s.canRaise_iff a).2 ready]; decide))

theorem ArmState.risesFrom.raises {st : ArmState} (h : st.risesFrom) : st.raises = true := by
  obtain ⟨stowed, fault, raising⟩ := h
  cases st
  case stowed => exact absurd rfl stowed
  case fault => exact absurd rfl fault
  case raising => exact absurd rfl raising
  all_goals rfl

/-- RAISE that its tests let through and that finds the arm neither up nor on its way up. -/
theorem raise_owner (test : raiseTest a s = none) (rises : (s.arm a).state.risesFrom) (f : Form) (l : Station)
    (tag : Byte) (ps : List Byte) : ArmRow.raise.owner raiseFactor a l ps (heard f l tag ps s) =
      ⟨.accepted, .none, takeRaise raiseFactor a .command (heard f l tag ps s)⟩ := by
  show raiseOwner raiseFactor a l ps _ = _
  unfold raiseOwner
  rw [show raiseTest a (heard f l tag ps s) = none from test]
  exact if_pos rises.raises

end RaiseTest

section AsksRaise

variable {l : Station} {tag : Byte} {ps : List Byte} {a : Arm} {s : State}
  (h : AsksIdleArm .raise (.armRaise l tag ps) l tag ps a s)
include h

theorem AsksIdleArm.raise_refused {r : Reason} (test : raiseTest a s = some r) : exec (.armRaise l tag ps) s =
    .next (Machine.replied Form.armCommand l tag ps .refusedState (.reason r) s) := by
  refine h.stands ?_
  show raiseOwner raiseFactor a l ps _ = _
  unfold raiseOwner
  rw [show raiseTest a (heard Form.armCommand l tag ps s) = some r from test]
  rfl

theorem AsksIdleArm.raise_stands (test : raiseTest a s = none) (up : (s.arm a).state.raises = false) :
    exec (.armRaise l tag ps) s = .next (Machine.replied Form.armCommand l tag ps .ok .none s) := by
  refine h.stands ?_
  show raiseOwner raiseFactor a l ps _ = _
  unfold raiseOwner
  rw [show raiseTest a (heard Form.armCommand l tag ps s) = none from test]
  exact if_neg (Bool.eq_false_iff.1 up)

variable (test : raiseTest a s = none) (rises : (s.arm a).state.risesFrom)
include test rises

/-- R185: the last arm that a settled reset waits for, at UP, ends its event with the reset. -/
theorem AsksIdleArm.raise_resets (hn : NoReactions s) (up : (s.arm a).up = true)
    (ripe : s.resetRipe (s.supervision.armDone.set a true) = true) :
    ∃ t, exec (.armRaise l tag ps) s = .next t ∧ AfterRequest (some false) s t := by
  refine ⟨_, h.runs_finish (raise_owner test rises ..) (Cascade.takeRaise Cascade.raiseFactor a .command _), ?_⟩
  obtain ⟨w, announces, raised⟩ := takeRaise_raised (raise := raiseFactor) (a := a) (o := .command)
    (s := heard Form.armCommand l tag ps s) rises
  have due := (announces.reset hn).trans (if_pos (Bool.and_eq_true_iff.2 ⟨raised.settled_iff.2 up, ripe⟩))
  have steady := takeRaise_steady (a := a) (o := .command) (s := heard Form.armCommand l tag ps s) raiseFactor_plainly hn
  have preserved : Preserved s (heard Form.armCommand l tag ps s) := ⟨rfl, rfl, rfl, rfl, fun _ => rfl, rfl, rfl⟩
  exact ((preserved.trans steady.preserved).answered _).finish_resets hn due

/-- R115, R118, R119, R122: any other arm is served, and brought on its way up or to its end. -/
theorem AsksIdleArm.raise_serves
    (last : ¬((s.arm a).up = true ∧ s.resetRipe (s.supervision.armDone.set a true) = true))
    (settled : s.supervision.pendingReset = none ∨ NoReactions s) :
    ∃ t, exec (.armRaise l tag ps) s = .next t ∧ Served Form.armCommand l tag ps .accepted .none s t ∧ (NoReactions s →
      ∃ v : ArmUnit, ArmLeft a v s t ∧ ArmUnit.Raised .command (s.arm a) v.footing) := by
  obtain ⟨w, announces, raised⟩ := takeRaise_raised (raise := raiseFactor) (a := a) (o := .command)
    (s := heard Form.armCommand l tag ps s) rises
  obtain ⟨t, runs, served, left⟩ := h.accepts (raise_owner test rises ..)
    (Cascade.takeRaise Cascade.raiseFactor a .command _) announces
    (Bool.eq_false_iff.2 fun both => by
      obtain ⟨done, ripe⟩ := Bool.and_eq_true_iff.1 both
      exact last ⟨raised.settled_iff.1 done, ripe⟩)
    settled
  refine ⟨t, runs, served, fun hn => ?_⟩
  obtain ⟨footing, left⟩ := left hn
  exact ⟨_, left, footing ▸ raised⟩

end AsksRaise

/-- What the event of a RAISE leaves of its arm, and of the others. -/
theorem ArmLeft.raised {a : Arm} {o : Origin} {v : ArmUnit} {s t : State} (left : ArmLeft a v s t)
    (h : ArmUnit.Raised o (s.arm a) v.footing) :
    (t.arm a).target = .stowed ∧
    ((s.arm a).up = false → (t.arm a).state = .raising ∧ (t.arm a).origin = o ∧ (t.arm a).sub ≠ .awaitingSpeed) ∧
    ((s.arm a).up = true → (t.arm a).state = .stowed ∧ (t.arm a).origin = .none ∧ (t.arm a).motionTimer = .stopped ∧
      (t.arm a).liftPosted = false) ∧
    (t.arm a).force = 0 ∧ (t.arm a).rot = 0 := by
  have state : (t.arm a).state = v.state := congrArg Motion.state left.motion
  have origin : (t.arm a).origin = v.origin := congrArg Motion.origin left.motion
  have target : (t.arm a).target = v.target := congrArg Motion.target left.motion
  rw [state, origin, target, left.posted]
  refine ⟨h.target, fun clear => ?_, fun up => ?_, ?_⟩
  · obtain ⟨raising, cause, sub⟩ := h.goes clear
    exact ⟨raising, cause, mt left.waits.1 sub⟩
  · obtain ⟨stowed, none, sub, timer, posted⟩ := h.ends up
    exact ⟨stowed, none, (left.rests sub).2.trans timer, posted⟩
  · have off : v.state ≠ .working ∧ v.state ≠ .deflected := by
      cases up : (s.arm a).up
      · rw [show v.state = .raising from (h.goes up).1]
        exact ⟨nofun, nofun⟩
      · rw [show v.state = .stowed from (h.ends up).1]
        exact ⟨nofun, nofun⟩
    exact left.off off.1 off.2

/-- The frame of a command is its own row's. -/
theorem otherCommand_self {cmd : Nat} {ps : List Byte} (command : byteAt ps 1 = cmd) : otherCommand cmd ps = false := by
  simp [otherCommand, command]

/-- Settles O45: the refusals, an arm that stands, and an arm brought up, as the last one that a settled reset waits for or
not. -/
theorem armRaiseRaisesTheArm : Obligations.ArmRaiseRaisesTheArm := by
  intro l tag ps s a sent work arm command holds reaction free u ready
  have asks : AsksIdleArm .raise (.armRaise l tag ps) l tag ps a s :=
    ⟨⟨rfl, fun _ => rfl, otherCommand_self command, sent, work, arm, holds⟩, command, reaction, free⟩
  refine ⟨fun fault => asks.raise_refused (raiseTest_fault fault),
    fun fault unready => asks.raise_refused (raiseTest_uncommissioned fault unready), fun up ok => ?_, ?_⟩
  · rcases up with e | e
    · exact asks.raise_stands (raiseTest_passes (by rw [e]; nofun) ok) (by rw [e]; rfl)
    · exact asks.raise_stands (raiseTest_passes (by rw [e]; nofun) ok) (by rw [e]; rfl)
  · intro stowed raising fault ok last
    have test : raiseTest a s = none := raiseTest_passes fault ok
    have rises : (s.arm a).state.risesFrom := ⟨stowed, fault, raising⟩
    have last_iff : last ↔ (s.arm a).up = true ∧ s.resetRipe (s.supervision.armDone.set a true) = true := by
      rw [resetRipe_set_iff]
      exact ⟨fun ⟨reset, parked, up, others⟩ => ⟨up, reset, parked, others⟩,
        fun ⟨up, reset, parked, others⟩ => ⟨reset, parked, up, others⟩⟩
    refine ⟨fun due hn => ?_, fun due settled => ?_⟩
    · obtain ⟨up, ripe⟩ := last_iff.1 due
      exact asks.raise_resets test rises hn up ripe
    · obtain ⟨t, runs, served, left⟩ := asks.raise_serves test rises (mt last_iff.2 due) settled
      refine ⟨t, runs, served, fun hn => ?_⟩
      obtain ⟨v, left, raised⟩ := left hn
      obtain ⟨target, clear, up, off⟩ := left.raised raised
      exact ⟨target, clear, up, off, left.others⟩

end Sys2Proof.Machine
end

section
/-! PROOFS. ARM_HALT and ARM_CLEAR_FAULT. -/

namespace Sys2Proof.Machine

set_option Elab.async false

/-! ## The record of an arm announced HALTED (R111) -/

/-- An arm that is HALTED has no rotation target, and a refresh leaves its stall timer stopped. -/
theorem ArmUnit.refresh_halted {u : ArmUnit} (state : u.state = .halted) (full m n : Nat) :
    (u.refresh full m n).rotTarget = 0 ∧ (u.stallTimer = .stopped → (u.refresh full m n).stallTimer = .stopped) := by
  have none : u.targetNow = 0 := by unfold ArmUnit.targetNow; rw [state]
  refine ⟨?_, fun stopped => ?_⟩
  · obtain ⟨x, y, fresh⟩ := ArmUnit.refresh_eq u full m n
    rw [fresh]
    exact none
  · unfold ArmUnit.refresh
    rw [none]
    dsimp only
    split
    · exact stopped
    · rfl

/-- What the event leaves of an arm announced HALTED. -/
theorem ArmLeft.halted {a : Arm} {u : ArmUnit} {full m n : Nat} {s t : State} (left : ArmLeft a (u.refresh full m n) s t)
    (state : u.state = .halted) :
    (t.arm a).motion = u.motion ∧ (t.arm a).fault = u.fault ∧ (t.arm a).liftPosted = u.liftPosted ∧
    (u.sub = .none → (t.arm a).sub = .none ∧ (t.arm a).motionTimer = u.motionTimer) ∧
    (u.stallTimer = .stopped → (t.arm a).stallTimer = .stopped) ∧ (t.arm a).rotTarget = 0 ∧
    (t.arm a).liftDownOpen = false ∧ (t.arm a).liftUpOpen = false ∧ (t.arm a).force = 0 ∧ (t.arm a).rot = 0 := by
  obtain ⟨target, stall⟩ := ArmUnit.refresh_halted state full m n
  obtain ⟨x, y, fresh⟩ := ArmUnit.refresh_eq u full m n
  have halted : (u.refresh full m n).state = .halted := by rw [fresh]; exact state
  have rests := left.rests
  obtain ⟨down, lift⟩ := left.shut (by rw [halted]; nofun) (by rw [halted]; nofun)
  obtain ⟨force, rot⟩ := left.off (by rw [halted]; nofun) (by rw [halted]; nofun)
  have fault : (t.arm a).fault = (u.refresh full m n).fault := by rw [left.record]
  have timer : (t.arm a).stallTimer = (u.refresh full m n).stallTimer := by rw [left.record]
  have turns : (t.arm a).rotTarget = (u.refresh full m n).rotTarget := by rw [left.record]
  refine ⟨left.motion.trans (ArmUnit.refresh_motion ..), ?_, ?_, fun still => ?_, fun stopped => timer.trans (stall stopped),
    turns.trans target, down, lift, force, rot⟩
  · rw [fault, fresh]
  · rw [left.posted, fresh]
  · rw [fresh] at rests
    exact rests still

/-! ## The two commands' announcements (R116, R117) -/

section Announced

variable {raise : Raiser} {a : Arm} {s : State}

/-- An operation that announces arm a HALTED, at a record that its outputs then follow. -/
def Halts (raise : Raiser) (a : Arm) (u : ArmUnit) (s t : State) : Prop :=
  ∃ w, Announces raise a s w t ∧ w.arm a = u ∧ t.arm a = u.refresh (w.item 12) (w.item 10) (w.item 13)

theorem announce_halts {w : State} (posts : PostsArm a s w) {u : ArmUnit} (arm : w.arm a = u)
    (reaction : u.reaction = (s.arm a).reaction) : Halts raise a u s (announce raise a .halted [] none w) := by
  obtain ⟨-, -, record, -⟩ := announce_underWay (st := .halted) (.inr (.inl rfl)) raise posts
  subst arm
  exact ⟨w, ⟨⟨_, _, _, rfl⟩, posts, reaction⟩, rfl, record⟩

/-- The record of an arm that HALT has stopped (R116). -/
def ArmUnit.stopped (u : ArmUnit) : ArmUnit := { u.stopAll with state := .halted, liftPosted := false, liftGrant := 0 }

theorem haltArm_halts (halts : (s.arm a).state.halts = true) : Halts raise a (s.arm a).stopped s (haltArm raise a s) := by
  have begins : haltArm raise a s = announce raise a .halted [] none
      ((withdrawLift a s).modArm a fun u => { u.stopAll with state := .halted }) := if_pos halts
  rw [begins]
  refine announce_halts ((PostsArm.withdrawLift a s).trans (PostsArm.modArm a _ _)) ?_ rfl
  rw [State.arm_modArm_same, withdrawLift_arm]
  rfl

/-- The record of an arm that CLEAR_FAULT has freed (R117). -/
def ArmUnit.freed (u : ArmUnit) : ArmUnit := { u with state := .halted, fault := .none }

theorem clearFault_halts (raise : Raiser) (a : Arm) (s : State) :
    Halts raise a (s.arm a).freed s (clearFault raise a s) :=
  announce_halts (PostsArm.modArm a ArmUnit.freed s) (State.arm_modArm_same ..) rfl

end Announced

/-- A command that announces its arm HALTED is served, and with no reaction bound whatever settled reset is pending: an arm
that has not settled holds it off (R185). -/
theorem AsksIdleArm.accepts_halted {row : ArmRow} {c : Instr} {l : Station} {tag : Byte} {ps : List Byte} {a : Arm} {s : State}
    (h : AsksIdleArm row c l tag ps a s) {st : Status} {d : Payload} {v : State}
    (answer : row.owner raiseFactor a l ps (heard Form.armCommand l tag ps s) = ⟨st, d, v⟩)
    (cascade : Cascade (heard Form.armCommand l tag ps s) v) {u : ArmUnit}
    (halts : Halts raiseFactor a u (heard Form.armCommand l tag ps s) v) (halted : u.state = .halted)
    (settled : s.supervision.pendingReset = none ∨ NoReactions s) :
    ∃ t, exec c s = .next t ∧ Served Form.armCommand l tag ps st d s t ∧
      (NoReactions s → ∃ full m n, ArmLeft a (u.refresh full m n) s t) := by
  obtain ⟨w, announces, arm, record⟩ := halts
  obtain ⟨t, runs, served, left⟩ := h.accepts answer cascade announces (by rw [arm, halted]; rfl) settled
  refine ⟨t, runs, served, fun hn => ?_⟩
  obtain ⟨-, left⟩ := left hn
  rw [record] at left
  exact ⟨_, _, _, left⟩

/-! ## ARM_HALT (R116) -/

section AsksHalt

variable {l : Station} {tag : Byte} {ps : List Byte} {a : Arm} {s : State}
  (h : AsksIdleArm .halt (.armHalt l tag ps) l tag ps a s)
include h

theorem AsksIdleArm.halt_refused (fault : (s.arm a).state = .fault) : exec (.armHalt l tag ps) s =
    .next (Machine.replied Form.armCommand l tag ps .refusedState (.reason .fault) s) := h.stands (if_pos fault)

theorem AsksIdleArm.halt_stands (fault : (s.arm a).state ≠ .fault) (stands : (s.arm a).state.halts = false) :
    exec (.armHalt l tag ps) s = .next (Machine.replied Form.armCommand l tag ps .ok .none s) := by
  refine h.stands ((if_neg fault).trans (congrArg Answer.ok ?_))
  exact if_neg (Bool.eq_false_iff.1 stands)

theorem AsksIdleArm.halt_stops (halts : (s.arm a).state.halts = true)
    (settled : s.supervision.pendingReset = none ∨ NoReactions s) :
    ∃ t, exec (.armHalt l tag ps) s = .next t ∧ Served Form.armCommand l tag ps .ok .none s t ∧
      (NoReactions s → ∃ full m n, ArmLeft a ((s.arm a).stopped.refresh full m n) s t) := by
  have fault : (s.arm a).state ≠ .fault := fun e => by rw [e] at halts; cases halts
  exact h.accepts_halted (if_neg fault) (Cascade.haltArm Cascade.raiseFactor a _)
    (haltArm_halts (s := heard Form.armCommand l tag ps s) halts) rfl settled

end AsksHalt

/-! ## ARM_CLEAR_FAULT (R117) -/

section ClearTest

variable {a : Arm} {s : State}

theorem clearTest_notFault (h : (s.arm a).state ≠ .fault) : clearTest a s = some .notFault := if_pos h

theorem clearTest_notAtRest (h : (s.arm a).state = .fault) (moves : s.travel.setpoint ≠ 0) :
    clearTest a s = some .notAtRest := (if_neg (not_not.2 h)).trans (if_pos moves)

theorem clearTest_conflict (h : (s.arm a).state = .fault) (rest : s.travel.setpoint = 0) (up : (s.arm a).up = true)
    (down : (s.arm a).down = true) : clearTest a s = some .conflict :=
  (if_neg (not_not.2 h)).trans ((if_neg (not_not.2 rest)).trans (if_pos (by rw [up, down]; rfl)))

theorem clearTest_passes (h : (s.arm a).state = .fault) (rest : s.travel.setpoint = 0)
    (agree : ¬((s.arm a).up = true ∧ (s.arm a).down = true)) : clearTest a s = none :=
  (if_neg (not_not.2 h)).trans ((if_neg (not_not.2 rest)).trans (if_neg (by rwa [Bool.and_eq_true])))

end ClearTest

section AsksClear

variable {l : Station} {tag : Byte} {ps : List Byte} {a : Arm} {s : State}
  (h : AsksIdleArm .clear (.armClearFault l tag ps) l tag ps a s)
include h

theorem AsksIdleArm.clear_refused {r : Reason} (test : clearTest a s = some r) : exec (.armClearFault l tag ps) s =
    .next (Machine.replied Form.armCommand l tag ps .refusedState (.reason r) s) := by
  refine h.stands ?_
  show clearOwner raiseFactor a l ps _ = _
  unfold clearOwner
  rw [show clearTest a (heard Form.armCommand l tag ps s) = some r from test]
  rfl

theorem AsksIdleArm.clear_frees (test : clearTest a s = none)
    (settled : s.supervision.pendingReset = none ∨ NoReactions s) :
    ∃ t, exec (.armClearFault l tag ps) s = .next t ∧ Served Form.armCommand l tag ps .ok .none s t ∧
      (NoReactions s → ∃ full m n, ArmLeft a ((s.arm a).freed.refresh full m n) s t) := by
  have answer : clearOwner raiseFactor a l ps (heard Form.armCommand l tag ps s) =
      ⟨.ok, .none, clearFault raiseFactor a (heard Form.armCommand l tag ps s)⟩ := by
    unfold clearOwner
    rw [show clearTest a (heard Form.armCommand l tag ps s) = none from test]
    rfl
  exact h.accepts_halted answer (Cascade.clearFault Cascade.raiseFactor a _) (clearFault_halts ..) rfl settled

end AsksClear

/-- Settles O46: each command's refusals, then the arm HALTED. -/
theorem armHaltAndClearFault : Obligations.ArmHaltAndClearFault := by
  intro l tag ps s a sent work arm holds reaction free u settled
  refine ⟨fun command => ?_, ?_⟩
  · have asks : AsksIdleArm .halt (.armHalt l tag ps) l tag ps a s :=
      ⟨⟨rfl, fun _ => rfl, otherCommand_self command, sent, work, arm, holds⟩, command, reaction, free⟩
    refine ⟨asks.halt_refused, fun stands => ?_, fun moves waits => ?_⟩
    · rcases stands with e | e
      · exact asks.halt_stands (by rw [e]; nofun) (by rw [e]; rfl)
      · exact asks.halt_stands (by rw [e]; nofun) (by rw [e]; rfl)
    · have halts : (s.arm a).state.halts = true := by rcases moves with e | e | e | e <;> rw [e] <;> rfl
      obtain ⟨t, runs, served, left⟩ := asks.halt_stops halts waits
      refine ⟨t, runs, served, fun hn => ?_⟩
      obtain ⟨_, _, _, left⟩ := left hn
      obtain ⟨motion, -, posted, rests, stall, turns, down, lift, force, rot⟩ := left.halted rfl
      obtain ⟨sub, timer⟩ := rests rfl
      exact ⟨congrArg Motion.state motion, sub, congrArg Motion.target motion, congrArg Motion.origin motion, posted, timer,
        congrArg Motion.settleTimer motion, congrArg Motion.pinnedTimer motion, stall rfl, turns, down, lift, force, rot,
        left.others⟩
  · intro command refused
    have asks : AsksIdleArm .clear (.armClearFault l tag ps) l tag ps a s :=
      ⟨⟨rfl, fun _ => rfl, otherCommand_self command, sent, work, arm, holds⟩, command, reaction, free⟩
    refine ⟨fun stands => asks.clear_refused (clearTest_notFault stands),
      fun fault moves => asks.clear_refused (clearTest_notAtRest fault moves),
      fun fault rest up down => asks.clear_refused (clearTest_conflict fault rest up down), fun fault rest agree waits => ?_⟩
    obtain ⟨t, runs, served, left⟩ := asks.clear_frees (clearTest_passes fault rest agree) waits
    refine ⟨t, runs, served, fun hn => ?_⟩
    obtain ⟨_, _, _, left⟩ := left hn
    obtain ⟨motion, cause, -, -, -, -, outputs⟩ := left.halted rfl
    exact ⟨congrArg Motion.state motion, cause, congrArg Motion.target motion, outputs⟩

end Sys2Proof.Machine
end

section
/-! PROOFS. An evaluation of the spray zones: each zone's row, and the pump's demand. -/

namespace Sys2Proof.Machine

set_option Elab.async false

/-! ## The conditions of a zone's row (R134, R136) -/

theorem PerArm.anySet_iff (p : ArmSet) : PerArm.anySet p = true ↔ ∃ a, p.get a = true := by
  unfold PerArm.anySet
  rw [Bool.or_eq_true, Bool.or_eq_true]
  constructor
  · rintro ((h | h) | h)
    · exact ⟨.l, h⟩
    · exact ⟨.r, h⟩
    · exact ⟨.c, h⟩
  · rintro ⟨a, h⟩
    cases a with
    | l => exact .inl (.inl h)
    | r => exact .inl (.inr h)
    | c => exact .inr h

/-- A zone that rows 1 to 4 of R136 inhibit. -/
def Spray.isInhibited (v : Spray) (z : Zone) : Prop :=
  v.frost = true ∨ v.waterState = .empty ∨ v.safeStop = true ∨ v.forcedOff.get z = true

/-- A brush is down for the zone: its own arm's, or any arm's for MOUTH (R136). -/
def Spray.isBrushed (v : Spray) (z : Zone) : Prop :=
  match z.arm with
  | some a => (v.armState.get a).isDown = true
  | none => ∃ a, (v.armState.get a).isDown = true

theorem Spray.brushUp_iff (v : Spray) (z : Zone) : v.brushUp z = true ↔ ¬v.isBrushed z := by
  unfold Spray.brushUp Spray.isBrushed
  cases z.arm with
  | some a => simp only [Bool.not_eq_true', Bool.not_eq_true]
  | none => simp only [Bool.not_eq_true', ← Bool.not_eq_true, PerArm.anySet_iff, PerArm.get_map]

theorem Spray.brushDeflected_iff (v : Spray) (z : Zone) :
    v.brushDeflected z = true ↔ ∃ a, z.arm = some a ∧ v.armState.get a = .deflected := by
  unfold Spray.brushDeflected
  cases z.arm with
  | some a => simp
  | none => simp

/-- A DEFLECTED arm has its brush down. -/
theorem Spray.isBrushed_of_deflected {v : Spray} {z : Zone} (h : ∃ a, z.arm = some a ∧ v.armState.get a = .deflected) :
    v.isBrushed z := by
  obtain ⟨a, arm, deflected⟩ := h
  unfold Spray.isBrushed
  rw [arm]
  exact congrArg ArmState.isDown deflected

/-! ## The rows in order (R136) -/

section
variable {v : Spray} {z : Zone}

theorem Spray.decide_frost (h : v.frost = true) : v.decide z = .inhibited .frost := if_pos h

theorem Spray.decide_empty (frost : v.frost = false) (h : v.waterState = .empty) : v.decide z = .inhibited .empty := by
  simp [Spray.decide, frost, h]

theorem Spray.decide_safeStop (frost : v.frost = false) (water : v.waterState ≠ .empty) (h : v.safeStop = true) :
    v.decide z = .inhibited .safeStop := by
  simp [Spray.decide, frost, water, h]

theorem Spray.decide_forced (frost : v.frost = false) (water : v.waterState ≠ .empty) (safe : v.safeStop = false)
    (h : v.forcedOff.get z = true) : v.decide z = .inhibited .forced := by
  simp [Spray.decide, frost, water, safe, h]

/-- The rows below the inhibiting ones. -/
theorem Spray.decide_free (h : ¬v.isInhibited z) : v.decide z =
    if v.zoneSet.get z = false ∨ v.brushUp z = true then .off
    else if v.dwell = .standing then .suspended .dwell
    else if v.brushDeflected z = true then .suspended .deflected
    else if sprayAt v.points v.wheelSpeed = 0 then .off else .on := by
  obtain ⟨frost, water, safe, forced⟩ : ¬v.frost = true ∧ ¬v.waterState = .empty ∧ ¬v.safeStop = true ∧
      ¬v.forcedOff.get z = true := by simpa only [Spray.isInhibited, not_or] using h
  unfold Spray.decide
  rw [if_neg frost, if_neg (by simpa using water), if_neg safe, if_neg forced]
  cases v.zoneSet.get z with
  | false => rw [if_pos Bool.not_false, if_pos (.inl rfl)]
  | true => simp only [Bool.not_true, Bool.false_eq_true, Bool.true_eq_false, if_false, false_or, beq_iff_eq]

theorem Spray.decide_off (h : ¬v.isInhibited z) (off : v.zoneSet.get z = false ∨ ¬v.isBrushed z) : v.decide z = .off := by
  rw [Spray.decide_free h, if_pos (by rwa [Spray.brushUp_iff])]

/-- A zone of the set with a brush down is suspended, or sprays by the duty. -/
theorem Spray.decide_brushed (h : ¬v.isInhibited z) (member : v.zoneSet.get z = true) (down : v.isBrushed z) :
    v.decide z = if v.dwell = .standing then .suspended .dwell
      else if v.brushDeflected z = true then .suspended .deflected
      else if sprayAt v.points v.wheelSpeed = 0 then .off else .on := by
  rw [Spray.decide_free h, if_neg (by rw [Spray.brushUp_iff, member]; simpa using down)]

theorem Spray.decide_standing (h : ¬v.isInhibited z) (member : v.zoneSet.get z = true) (down : v.isBrushed z)
    (dwell : v.dwell = .standing) : v.decide z = .suspended .dwell := by
  rw [Spray.decide_brushed h member down, if_pos dwell]

theorem Spray.decide_deflected (h : ¬v.isInhibited z) (member : v.zoneSet.get z = true) (dwell : v.dwell ≠ .standing)
    (deflected : ∃ a, z.arm = some a ∧ v.armState.get a = .deflected) : v.decide z = .suspended .deflected := by
  rw [Spray.decide_brushed h member (Spray.isBrushed_of_deflected deflected), if_neg dwell,
    if_pos ((Spray.brushDeflected_iff v z).2 deflected)]

theorem Spray.decide_working (h : ¬v.isInhibited z) (member : v.zoneSet.get z = true) (down : v.isBrushed z)
    (dwell : v.dwell ≠ .standing) (working : ∀ a, z.arm = some a → v.armState.get a ≠ .deflected) :
    v.decide z = if sprayAt v.points v.wheelSpeed = 0 then .off else .on := by
  rw [Spray.decide_brushed h member down, if_neg dwell, if_neg]
  rw [Spray.brushDeflected_iff]
  rintro ⟨a, arm, deflected⟩
  exact working a arm deflected

end

/-! ## What an evaluation leaves (R136 to R140) -/

/-- The state with zones, duties and valves evaluated and the pump's demand by them, which is not posted yet. -/
def State.sprayed (s : State) : State := s.modSpray fun _ => { s.spray.evaluate with
  pumpDuty := s.pumpDutyOf s.spray.evaluate, pumpDemand := ceilDiv (s.pumpDutyOf s.spray.evaluate * s.item 18) 100 }

theorem evaluateZones_eq (s : State) : evaluateZones s = postPump s.sprayed.spray.pumpDemand s.sprayed := rfl

/-- A posting is the demand alone, but for the reallocation that follows where it changed (R156, R157). -/
theorem postPump_spray_flow (d : Nat) (s : State) : (postPump d s).spray = s.spray ∧
    (postPump d s).flow = { s.flow with pumpDemand := d } := by
  unfold postPump
  by_cases same : s.flow.pumpDemand = d
  · rw [if_pos same, ← same]
    exact ⟨rfl, rfl⟩
  · rw [if_neg same]
    exact ⟨rfl, rfl⟩

theorem evaluateZones_sprayed (s : State) : (evaluateZones s).spray = s.sprayed.spray :=
  (postPump_spray_flow _ s.sprayed).1

theorem evaluateZones_zone (s : State) (z : Zone) : (evaluateZones s).spray.zones.get z = s.spray.decide z := by
  rw [evaluateZones_sprayed]
  exact PerZone.get_of _ _

theorem evaluateZones_valve (s : State) (z : Zone) :
    (evaluateZones s).spray.valves.get z = true ↔ (evaluateZones s).spray.zones.get z = .on := by
  have valve : s.spray.evaluate.valves.get z = (s.spray.evaluate.zones.get z == .on) := PerZone.get_map _ _ _
  rw [evaluateZones_sprayed]
  exact (congrArg (· = true) valve).to_iff.trans beq_iff_eq

/-- The share of a zone that is not ON is nothing, as its duty is (R138, R140). -/
theorem Spray.evaluate_share (v : Spray) (w : Nat) (z : Zone) :
    (if v.evaluate.zones.get z = .on then w * v.evaluate.duty.get z else 0) = w * v.evaluate.duty.get z := by
  have duty : v.evaluate.duty.get z = if v.evaluate.zones.get z = .on then sprayAt v.points v.wheelSpeed else 0 :=
    (PerZone.get_map _ _ _).trans (by simp only [beq_iff_eq]; rfl)
  split
  · rfl
  · next shut => rw [duty, if_neg shut, Nat.mul_zero]

/-- R140: the pump duty demand over the zones in order. -/
theorem evaluateZones_pumpDuty (s : State) :
    let sum := min 100 ((Zone.list.map fun z => s.weight z * (evaluateZones s).spray.duty.get z).sum / 100)
    (evaluateZones s).spray.pumpDuty = if s.spray.waterState = .reserve then sum * s.spray.reserve / 100 else sum := by
  rw [evaluateZones_sprayed]
  show s.pumpDutyOf s.spray.evaluate = _
  have shares : (Zone.list.map fun z => s.weight z * s.sprayed.spray.duty.get z).sum =
      s.weight .l * s.spray.evaluate.duty.get .l + s.weight .r * s.spray.evaluate.duty.get .r +
        s.weight .c * s.spray.evaluate.duty.get .c + s.weight .mouth * s.spray.evaluate.duty.get .mouth := by
    simp only [Zone.list, List.map_cons, List.map_nil, List.sum_cons, List.sum_nil, Nat.add_zero, Nat.add_assoc]
    rfl
  unfold State.pumpDutyOf
  dsimp only
  simp only [beq_iff_eq, Spray.evaluate_share, shares]
  rfl

/-- R140, R156: the pump's demand, rounded up, and its posting. -/
theorem evaluateZones_pumpDemand (s : State) :
    (evaluateZones s).spray.pumpDemand = ((evaluateZones s).spray.pumpDuty * s.item 18 + 99) / 100 ∧
      (evaluateZones s).flow.pumpDemand = (evaluateZones s).spray.pumpDemand := by
  have posted := congrArg Flow.pumpDemand (postPump_spray_flow s.sprayed.spray.pumpDemand s.sprayed).2
  rw [evaluateZones_sprayed]
  exact ⟨rfl, posted⟩

/-- Settles O49: the rows of R136 in order, then valve, duty and demand. -/
theorem zonesFollowTheTable : Obligations.ZonesFollowTheTable := by
  intro s z v t inhibited down
  have zone : t.spray.zones.get z = v.decide z := evaluateZones_zone s z
  have rest := evaluateZones_hands s
  rw [zone]
  refine ⟨Spray.decide_frost, Spray.decide_empty, Spray.decide_safeStop, Spray.decide_forced, Spray.decide_off,
    Spray.decide_standing, Spray.decide_deflected, Spray.decide_working, ?_, ?_, ?_, evaluateZones_pumpDemand s⟩
  · rw [← zone]
    exact evaluateZones_valve s z
  · rw [← zone]
    obtain ⟨-, -, -, -, -, -, duty⟩ := rest
    exact duty z
  · exact evaluateZones_pumpDuty s

end Sys2Proof.Machine
end

section
/-! PROOFS. The water state recomputed in an event, and what the event's end leaves of it. -/

namespace Sys2Proof.Machine

set_option Elab.async false

/-! ## The water state told and taken (R148) -/

/-- R148. -/
def State.waterNow (s : State) : WaterState := s.water.stateFor (s.item 23)

/-- The water state recomputed: the account's own, the Spray Unit's copy with what depends on it, and the factor of a state
newly entered; the factor PUMP_DRY (17) stands. -/
structure WaterTold (s t : State) : Prop where
  water : t.water = { s.water with state := s.waterNow }
  stays : s.waterNow = s.water.state → t.spray.waterState = s.spray.waterState
  taken : s.waterNow ≠ s.water.state → t.spray.waterState = s.waterNow ∧ valveLaw t
  told : s.waterNow ≠ s.water.state → ∀ x, s.attends x = true → ∀ d, s.water.factor s.waterNow = some d →
    (t.notices.get x).held[d.factor] = some ⟨.none, d, s.time, none⟩
  pumpDry : ∀ x, (t.notices.get x).held[(17 : Fin 24)] = (s.notices.get x).held[(17 : Fin 24)]

/-- The factors of the water states are WATER_LOW (15) and WATER_EMPTY (16). -/
theorem Water.factor_cases {w : Water} {now : WaterState} {d : Detail} (h : w.factor now = some d) :
    d.factor = 15 ∨ d.factor = 16 := by
  cases now with
  | ample => cases h
  | reserve => cases h; exact .inl rfl
  | empty => cases h; exact .inr rfl

theorem handWater_valveLaw (s : State) : valveLaw (handWater s) := by
  unfold handWater
  dsimp only
  split <;> exact evaluateZones_valveLaw (s.modSpray fun v => { v with waterState := s.water.state })

theorem tellWater_pumpDry {raise : Raiser} (hr : Plainly raise) {s : State} (hn : NoReactions s) (now : WaterState)
    (x : Station) : ((tellWater raise s now).notices.get x).held[(17 : Fin 24)] = (s.notices.get x).held[(17 : Fin 24)] := by
  unfold tellWater
  dsimp only
  split
  · next d hd =>
    rw [hr _ (s.modWater _) hn]
    refine (deliver_held _ (s.modWater _) x 17).trans (if_neg fun ⟨_, e⟩ => ?_)
    rcases Water.factor_cases hd with h | h
    · exact absurd (e.trans h) (by decide)
    · exact absurd (e.trans h) (by decide)
  · rfl

theorem recomputeWater_told {s : State} (hn : NoReactions s) :
    EndKept s (recomputeWater raiseFactor s) ∧ WaterTold s (recomputeWater raiseFactor s) := by
  by_cases same : s.waterNow = s.water.state
  · rw [recomputeWater_stays same]
    exact ⟨⟨rfl, rfl, rfl, rfl, rfl⟩,
      by rw [same], fun _ => rfl, fun h => absurd same h, fun h => absurd same h, fun _ => rfl⟩
  · obtain ⟨kept, water, -⟩ := tellWater_plain raiseFactor_plainly hn s.waterNow
    have told := fun x hx d hd => tellWater_held raiseFactor_plainly hn s.waterNow (d := d) hd (x := x) hx
    have dry := tellWater_pumpDry raiseFactor_plainly hn s.waterNow
    rw [recomputeWater_changes same]
    change EndKept s (handWater (tellWater raiseFactor s s.waterNow)) ∧
      WaterTold s (handWater (tellWater raiseFactor s s.waterNow))
    generalize tellWater raiseFactor s s.waterNow = u at kept water told dry ⊢
    have posts := Posts.handWater u
    obtain ⟨state, -, -⟩ := handWater_spray u
    refine ⟨kept.trans posts.toEndKept, posts.water.trans water, fun h => absurd h same,
      fun _ => ⟨state.trans (congrArg Water.state water), handWater_valveLaw u⟩, fun _ x hx d hd => ?_, fun x => ?_⟩
    · rw [posts.notices]
      exact told x hx d hd
    · rw [posts.notices]
      exact dry x

/-- The end of the event leaves all of it, where no reaction is bound. -/
theorem WaterTold.ended {s t u : State} (h : WaterTold s t) (k : Ended t u) : WaterTold s u where
  water := k.water.trans h.water
  stays same := (congrArg Spray.waterState k.spray).trans (h.stays same)
  taken changed := by
    obtain ⟨state, valves⟩ := h.taken changed
    refine ⟨(congrArg Spray.waterState k.spray).trans state, fun z => ?_⟩
    rw [k.spray]
    exact valves z
  told changed x hx d hd := by
    have factor := Water.factor_cases hd
    have other : d.factor ≠ 12 ∧ d.factor ≠ 13 := by
      rcases factor with h | h <;> rw [h] <;> decide
    exact (k.held x d.factor other.1 other.2).1.trans (h.told changed x hx d hd)
  pumpDry x := (k.held x 17 (by decide) (by decide)).1.trans (h.pumpDry x)

/-- An event that ends by recomputing the water state, the links answered before its end. -/
theorem finish_recomputeWater {s : State} (hn : NoReactions s) (hq : Quiet s) (k : PerStation Link) :
    WaterTold s (finish { recomputeWater raiseFactor s with links := k }) := by
  obtain ⟨kept, told⟩ := recomputeWater_told hn
  have relinked : EndKept s { recomputeWater raiseFactor s with links := k } := { kept with }
  have answered : WaterTold s { recomputeWater raiseFactor s with links := k } := { told with }
  exact answered.ended (relinked.ended hn hq)

/-- What is within a frame is so with the links answered before and after. -/
theorem Frame.relink {x : Exc} {r : Reach} {s t : State} (h : Frame x r s t) (k : PerStation Link) :
    Frame x r { s with links := k } { t with links := k } := { h with links := rfl }

end Sys2Proof.Machine
end

section
/-! PROOFS. ZONE_OVERRIDE and the two timers of the Spray Unit. -/

namespace Sys2Proof.Machine

set_option Elab.async false

/-! ## An evaluation in an event (R136, R157) -/

/-- An evaluation reads neither the links nor the attendance records. -/
theorem evaluateZones_heard (s : State) (k : PerStation Link) (p : PerStation Attendance) :
    evaluateZones { s with links := k, attendance := p } = { evaluateZones s with links := k, attendance := p } := by
  have posts : ∀ (d : Nat) (u : State), postPump d { u with links := k, attendance := p } =
      { postPump d u with links := k, attendance := p } := fun d u => by
    unfold postPump
    by_cases same : u.flow.pumpDemand = d
    · rw [if_pos same, if_pos same]
    · rw [if_neg same, if_neg same]
      rfl
  exact posts _ s.sprayed

/-- The state with the pump's demand posted and nothing left to do for it. -/
def State.demanded (s : State) : State :=
  { s.sprayed with flow := { s.flow with pumpDemand := (evaluateZones s).flow.pumpDemand } }

/-- A changed demand is a posting that a reallocation follows (R156, R157). -/
theorem evaluateZones_needRealloc {s : State} (h : (evaluateZones s).flow.pumpDemand ≠ s.flow.pumpDemand) :
    evaluateZones s = s.demanded.needRealloc := by
  have posted : (evaluateZones s).flow.pumpDemand = s.sprayed.spray.pumpDemand :=
    congrArg Flow.pumpDemand (postPump_spray_flow _ s.sprayed).2
  have changed : s.sprayed.flow.pumpDemand ≠ s.sprayed.spray.pumpDemand := fun e => h (posted.trans e.symm)
  rw [State.demanded, posted, evaluateZones_eq, postPump, if_neg changed]
  rfl

section
variable {s : State} (hq : Quiet s) (hn : NoReactions s) (k : PerStation Link) (p : PerStation Attendance)
include hq hn

/-- The end of an event after an evaluation, whatever request brought it: what no grant changes stands. -/
theorem finish_evaluateZones_ended : Ended { evaluateZones s with links := k, attendance := p }
    (finish { evaluateZones s with links := k, attendance := p }) := by
  have kept : EndKept s { evaluateZones s with links := k, attendance := p } := { (Posts.evaluateZones s).toEndKept with }
  exact kept.ended hn hq

/-- The same where the pump's demand has changed: one reallocation (R157 to R163). -/
theorem finish_evaluateZones_reallocated (changed : (evaluateZones s).flow.pumpDemand ≠ s.flow.pumpDemand)
    (lawful : s.flow.listsLawful) : Reallocated { evaluateZones s with links := k, attendance := p }
      (finish { evaluateZones s with links := k, attendance := p }) := by
  have quiet : Quiet { s.demanded with links := k, attendance := p } := ⟨hq.work, hq.noReset⟩
  have made := (finish_needRealloc_regranted quiet hn).reallocated lawful
  rw [evaluateZones_needRealloc changed]
  exact { made with }

end

/-- A reallocation reads no link, and of the attendance records who attends. -/
theorem Reallocated.heard {s t : State} {k k' : PerStation Link} {p : PerStation Attendance}
    (h : Reallocated { s with links := k, attendance := p } t)
    (same : ∀ x, State.attends { s with links := k, attendance := p } x = s.attends x) :
    Reallocated s { t with links := k' } :=
  { h with factors := fun x hx => h.factors x ((same x).trans hx) }

/-- What no grant changes of the Spray Unit. -/
theorem Ended.spray_stands {s t : State} (h : Ended s t) : t.spray.forcedOff = s.spray.forcedOff ∧
    t.spray.zones = s.spray.zones ∧ t.spray.duty = s.spray.duty ∧ t.spray.valves = s.spray.valves ∧
    t.spray.pumpDemand = s.spray.pumpDemand ∧ t.spray.dwell = s.spray.dwell ∧ t.spray.dwellTimer = s.spray.dwellTimer := by
  rw [h.spray]
  exact ⟨rfl, rfl, rfl, rfl, rfl, rfl, rfl⟩

theorem Ended.arm_states {s t : State} (h : Ended s t) : t.arms.map ArmUnit.state = s.arms.map ArmUnit.state := by
  refine PerArm.ext_get _ _ fun a => ?_
  rw [PerArm.get_map, PerArm.get_map]
  exact (congrArg ArmUnit.state (h.arms a) :)

/-! ## ZONE_OVERRIDE (R141) -/

/-- One zone's override set or cleared, the zones not evaluated yet. -/
def State.overridden (z : Zone) (off : Bool) (s : State) : State :=
  { s with spray := { s.spray with forcedOff := s.spray.forcedOff.set z off } }

theorem setOverride_eq (z : Zone) (off : Bool) (s : State) : setOverride z off s = evaluateZones (s.overridden z off) := rfl

/-- An override stands at the zone where no other cause of R136 does. -/
theorem overridden_forced {s : State} (frost : s.spray.frost = false) (water : s.spray.waterState ≠ .empty)
    (safe : s.spray.safeStop = false) (z : Zone) :
    (evaluateZones (s.overridden z true)).spray.zones.get z = .inhibited .forced := by
  rw [evaluateZones_zone]
  refine Spray.decide_forced frost water safe ?_
  show (s.spray.forcedOff.set z true).get z = true
  rw [PerZone.get_set, if_pos rfl]

/-- A request that was answered with a zone's state is answered with that state as the event leaves it. -/
theorem Served.answerZone {f : Form} {l : Station} {tag : Byte} {ps : List Byte} {st : Status} {x : ZoneState}
    {s u : State} (h : Served f l tag ps st (.zone x) s u) {z : Zone} (hz : zoneOf (byteAt ps 0) = some z) :
    answerZone l ps u = { u with links := linksAfter f l tag ps st (.zone (u.spray.zones.get z)) s } := by
  obtain ⟨d, answered, now⟩ := answerZone_eq l ps u
  have slot : (u.links.get l).slot = ⟨st, tag, f.code, .zone x⟩ := by
    rw [h.links]
    exact congrArg Link.slot (PerStation.get_set_same _ l _)
  rw [answered, now z x hz (congrArg Response.data slot), h.links]
  refine congrArg (fun k => { u with links := k }) ?_
  unfold linksAfter
  rw [PerStation.set_get_same, PerStation.get_set_same]

section Override

variable {l : Station} {tag : Byte} {ps : List Byte} {s : State} {z : Zone} (sent : Sent Form.zoneOverride l ps s)
  (holds : (s.claims.get .spray).holder = some l) (zone : zoneOf (byteAt ps 0) = some z) (hq : Quiet s)

include holds zone in
theorem zoneOverride_owner : claimTest .spray (forZone zoneOverrideOwner) l ps (heard Form.zoneOverride l tag ps s) =
    zoneOverrideOwner z l ps (heard Form.zoneOverride l tag ps s) := by
  rw [claimTest_heard, if_pos holds]
  unfold forZone
  rw [zone]

include sent holds zone hq

theorem exec_zoneOverride_badParam (high : 1 < byteAt ps 1) :
    exec (.zoneOverride l tag ps) s = .next (replied Form.zoneOverride l tag ps .badParam .none s) := by
  have answer : zoneOverrideOwner z l ps (heard Form.zoneOverride l tag ps s) =
      ⟨.badParam, .none, heard Form.zoneOverride l tag ps s⟩ := if_pos high
  exact (ServedBy.zone rfl).replied hq.work (serve_replied (owner := claimTest .spray (forZone zoneOverrideOwner)) sent tag
    ((zoneOverride_owner holds zone).trans answer))

/-- An accepted override: the event of the evaluation, answered with the zone's state at its end. -/
theorem exec_zoneOverride_sets (low : byteAt ps 1 ≤ 1) : ∃ k u,
    u = finish { evaluateZones (s.overridden z (byteAt ps 1 == 1)) with links := k, attendance := unprepared l s } ∧
    exec (.zoneOverride l tag ps) s =
      .next { u with links := linksAfter Form.zoneOverride l tag ps .ok (.zone (u.spray.zones.get z)) s } ∧
    Served Form.zoneOverride l tag ps .ok (.zone (u.spray.zones.get z)) s
      { u with links := linksAfter Form.zoneOverride l tag ps .ok (.zone (u.spray.zones.get z)) s } := by
  obtain ⟨w, hw⟩ : ∃ w, w = setOverride z (byteAt ps 1 == 1) (heard Form.zoneOverride l tag ps s) := ⟨_, rfl⟩
  obtain ⟨k, hk⟩ : ∃ k, k = linksAfter Form.zoneOverride l tag ps .ok (.zone (w.spray.zones.get z)) s := ⟨_, rfl⟩
  have answer : zoneOverrideOwner z l ps (heard Form.zoneOverride l tag ps s) = ⟨.ok, .zone (w.spray.zones.get z), w⟩ :=
    hw ▸ if_neg (Nat.not_lt.2 low)
  have cascade : Cascade (heard Form.zoneOverride l tag ps s) w := hw ▸ Cascade.evaluateZones _ _
  have served := cascade.served (tag := tag) (st := .ok) (d := .zone (w.spray.zones.get z)) hq.noReset hq.work
  have ended := serveEvent_finish (owner := fun _ => claimTest .spray (forZone zoneOverrideOwner)) sent
    ((zoneOverride_owner holds zone).trans answer) cascade.links
  have relinked : { w with links := k } =
      { evaluateZones (s.overridden z (byteAt ps 1 == 1)) with links := k, attendance := unprepared l s } := by
    rw [hw, setOverride_eq]
    exact congrArg (fun x : State => { x with links := k }) (evaluateZones_heard (s.overridden z (byteAt ps 1 == 1)) _ _)
  rw [← hk, relinked] at served ended
  refine ⟨k, _, rfl, ?_, { served with links := rfl }⟩
  rw [← served.answerZone zone, ← ended]
  exact congrArg Host.Outcome.next (if_pos sent.receiving)

end Override

/-! ## The dwell timer (R139) -/

/-- What the dwell timer's expiry changes: the condition, the timer, and the zones evaluated by it. -/
theorem dwellExpiry_posts (s : State) : Posts s (dwellExpiry s) ∧ (dwellExpiry s).spray.dwell = .standing ∧
    (dwellExpiry s).spray.dwellTimer = .stopped := by
  have evaluated := evaluateZones_spray (s.modSpray fun v => { v with dwell := .standing, dwellTimer := .stopped })
  exact ⟨(Posts.modSpray s _).trans (Posts.evaluateZones _), congrArg Spray.dwell evaluated,
    congrArg Spray.dwellTimer evaluated⟩

theorem Cascade.dwellExpiry (s : State) : Cascade s (dwellExpiry s) :=
  Cascade.evaluateZones s fun v => { v with dwell := .standing, dwellTimer := .stopped }

/-! ## The dry-run timer (R144, R148) -/

/-- The timer stopped, the latch set and PUMP_DRY told; the water state, EMPTY by the latch, not recomputed yet. -/
def State.ranDry (s : State) : State :=
  deliver ⟨.none, .pumpDry s.water.estimate, s.time, .every none⟩ none { s with
    spray := { s.spray with dryRunTimer := .stopped }, water := { s.water with dryLatch := true } }

theorem ranDry_pumpDry (s : State) {x : Station} (hx : s.attends x = true) :
    (s.ranDry.notices.get x).held[(17 : Fin 24)] = some ⟨.none, .pumpDry s.water.estimate, s.time, none⟩ :=
  (deliver_held _ _ x 17).trans (if_pos ⟨(Bool.and_true _).trans hx, rfl⟩)

theorem dryRunExpiry_plain {s : State} (hn : NoReactions s) :
    dryRunExpiry raiseFactor s = recomputeWater raiseFactor s.ranDry :=
  congrArg (recomputeWater raiseFactor) (raiseFactor_plain (s := { s with
    spray := { s.spray with dryRunTimer := .stopped }, water := { s.water with dryLatch := true } }) hn _)

theorem Frame.dryRunExpiry (s : State) : Frame .none .water s (dryRunExpiry raiseFactor s) :=
  (Cascade.to (Cascade.modSpray s (fun v => { v with dryRunTimer := .stopped }) id)).trans
    (Frame.waterRunsDry Cascade.raiseFactor _)

/-- With no reaction bound the expiry tells PUMP_DRY and then what the water state brings. -/
theorem dryRunExpiry_told {s : State} (hq : Quiet s) (hn : NoReactions s) : WaterTold s.ranDry (event dryRunExpiry s) := by
  obtain ⟨kept, told⟩ := recomputeWater_told (s := s.ranDry) hn
  rw [event, dryRunExpiry_plain hn]
  exact told.ended (kept.ended hn ⟨hq.work, hq.noReset⟩)

/-- With no water no zone is ON and every valve is closed (R137). -/
theorem Spray.valveLawful.empty {v : Spray} {z : Zone} (h : v.valveLawful z) (water : v.waterState = .empty) :
    v.zones.get z ≠ .on ∧ v.valves.get z = false := by
  obtain ⟨valve, on⟩ := h
  have off : v.zones.get z ≠ .on := fun e => (on e).1 water
  exact ⟨off, Bool.eq_false_iff.2 fun e => off (valve e)⟩

/-- Settles O50: the override evaluated, reallocated and answered; the two timers' expiries. -/
theorem overrideAndSprayTimers : Obligations.OverrideAndSprayTimers := by
  refine ⟨fun l tag ps s z sent holds zone hq => ⟨exec_zoneOverride_badParam sent holds zone hq, fun low => ?_⟩,
    fun s hq => ⟨fun due => ?_, fun due agree => ?_⟩⟩
  · intro v
    obtain ⟨k, u, hu, runs, served⟩ := exec_zoneOverride_sets (tag := tag) sent holds zone hq low
    refine ⟨_, runs, served, fun forced frost water safe => ?_, fun hn => ?_⟩
    · have override := overridden_forced frost water safe z
      rwa [show true = (byteAt ps 1 == 1) by rw [forced]; rfl] at override
    · have quiet : Quiet (s.overridden z (byteAt ps 1 == 1)) := ⟨hq.work, hq.noReset⟩
      obtain ⟨-, arms, water, -⟩ := evaluateZones_rest (s.overridden z (byteAt ps 1 == 1))
      have forcedOff := congrArg Spray.forcedOff (evaluateZones_spray (s.overridden z (byteAt ps 1 == 1)))
      have ended := finish_evaluateZones_ended quiet hn k (unprepared l s)
      have made := finish_evaluateZones_reallocated quiet hn k (unprepared l s)
      rw [← hu] at ended made
      obtain ⟨override, zones, duty, valves, demand, -, -⟩ := ended.spray_stands
      have evaluated : Cascade s (evaluateZones (s.overridden z (byteAt ps 1 == 1))) :=
        Cascade.evaluateZones s fun v => { v with forcedOff := v.forcedOff.set z (byteAt ps 1 == 1) }
      exact ⟨override.trans forcedOff, zones, duty, valves, demand,
        ended.arm_states.trans (congrArg (PerArm.map ArmUnit.state) arms), ended.water.trans water,
        fun changed lawful => (made changed lawful).heard fun x =>
          (heard_attends_all Form.zoneOverride l tag ps s x).trans (State.attends_congr evaluated.attendance x).symm⟩
  · obtain ⟨untouched, capture, switches⟩ :=
      (Cascade.dwellExpiry s).finish_untouched hq.noReset (congrArg Work.reset hq.work)
    refine ⟨event (fun _ => dwellExpiry) s, congrArg Host.Outcome.next (if_pos (Timer.due_of_running_zero due)), untouched,
      capture, switches, fun hn => ?_⟩
    obtain ⟨posts, standing, stopped⟩ := dwellExpiry_posts s
    have ended : Ended (dwellExpiry s) (event (fun _ => dwellExpiry) s) := posts.toEndKept.ended hn hq
    obtain ⟨-, zones, duty, valves, -, dwell, timer⟩ := ended.spray_stands
    exact ⟨dwell.trans standing, timer.trans stopped, zones, valves, duty, ended.water.trans posts.water⟩
  · obtain ⟨untouched, capture, switches⟩ :=
      (Frame.dryRunExpiry s).finish_untouched hq.noReset (congrArg Work.reset hq.work)
    refine ⟨event dryRunExpiry s, congrArg Host.Outcome.next (if_pos (Timer.due_of_running_zero due)), untouched, capture,
      switches, fun hn => ?_⟩
    have told := dryRunExpiry_told hq hn
    refine ⟨told.water, ?_, fun changed => ?_, fun x hx =>
      ⟨(told.pumpDry x).trans (ranDry_pumpDry s hx), fun changed => ?_⟩⟩
    · by_cases already : s.water.state = .empty
      · exact (told.stays already.symm).trans (agree.trans already)
      · obtain ⟨empty, -⟩ := told.taken fun e => already e.symm
        exact empty
    · obtain ⟨empty, lawful⟩ := told.taken fun e => changed e.symm
      exact fun z => (lawful z).empty empty
    · exact told.told (fun e => changed e.symm) x hx _ rfl

end Sys2Proof.Machine
end

section
/-! PROOFS. REFILL. -/

namespace Sys2Proof.Machine

set_option Elab.async false

/-! ## REFILL (R147, R148, R149) -/

theorem Water.refill_eq (w : Water) (volume capacity lowVolume : Nat) : w.refill volume capacity lowVolume = { w with
    estimate := if w.low then min (min volume capacity) lowVolume else min volume capacity
    pulses := 0, dryLatch := false, dispensed := 0, swept := 0, sweptPulses := 0 } := by
  unfold Water.refill Water.clampLow
  dsimp only
  split <;> rfl

/-- R148, with the latch clear. -/
theorem Water.stateFor_unlatched {w : Water} (h : w.dryLatch = false) (lowVolume : Nat) : w.stateFor lowVolume =
    if w.estimate = 0 then .empty else if lowVolume < w.estimate ∧ w.low = false then .ample else .reserve := by
  rw [Water.stateFor_eq]
  simp only [h, Bool.false_eq_true, false_or]

section
variable {raise : Raiser} {l : Station} {ps : List Byte} {s : State}

theorem refillOwner_badParam (high : 4000 < wordAt ps 0) : refillOwner raise l ps s = ⟨.badParam, .none, s⟩ := if_pos high

theorem refillOwner_uncommissioned (range : wordAt ps 0 ≤ 4000) (unwritten : s.item? 22 = none) :
    refillOwner raise l ps s = ⟨.refusedState, .reason .uncommissionedItem, s⟩ := by
  unfold refillOwner
  dsimp only
  rw [if_neg (Nat.not_lt.2 range), unwritten]
  rfl

/-- The account refilled, the water state not recomputed yet. -/
def State.refilled (volume capacity : Nat) (s : State) : State :=
  s.modWater fun w => w.refill volume capacity (s.item 23)

theorem refillOwner_refills (range : wordAt ps 0 ≤ 4000) {cap : Nat} (written : s.item? 22 = some cap) :
    let t := recomputeWater raise (s.refilled (wordAt ps 0) cap)
    refillOwner raise l ps s = ⟨.ok, .refilled t.water.estimate t.water.state, t⟩ := by
  unfold refillOwner
  dsimp only
  rw [if_neg (Nat.not_lt.2 range), written]
  rfl

/-- R145: the refilled estimate lies within the capacity. -/
theorem Cascade.refilled (volume : Nat) {cap : Nat} (written : s.item? 22 = some cap) :
    Cascade s (s.refilled volume cap) := by
  have capacity : s.item 22 = cap := congrArg (Option.getD · 0) written
  have kept := Water.clampLow_kept { s.water with
    estimate := min volume cap, pulses := 0, dryLatch := false, dispensed := 0, swept := 0, sweptPulses := 0 }
    (s.item 23) cap (Nat.min_le_right _ _)
  obtain ⟨bound, arms, state⟩ := kept
  exact Cascade.modWater s (fun w => w.refill volume cap (s.item 23)) (fun _ => capacity ▸ bound) arms state

end

/-- Settles O51: the owner's two refusals; a refill, and the water state it leaves. -/
theorem refillSetsTheEstimate : Obligations.RefillSetsTheEstimate := by
  intro l tag ps s sent holds hq
  have owner : ∀ raise, claimTest .account (refillOwner raise) l ps (heard Form.refill l tag ps s) =
      refillOwner raise l ps (heard Form.refill l tag ps s) := fun _ => claimTest_heard.trans (if_pos holds)
  refine ⟨fun high => ?_, fun range unwritten => ?_, fun cap range written => ?_⟩
  · exact congrArg Host.Outcome.next (serveEvent_done (owner := fun raise => claimTest .account (refillOwner raise)) sent tag
      ((owner _).trans (refillOwner_badParam high)) rfl hq.work)
  · exact congrArg Host.Outcome.next (serveEvent_done (owner := fun raise => claimTest .account (refillOwner raise)) sent tag
      ((owner _).trans (refillOwner_uncommissioned range unwritten)) rfl hq.work)
  · intro full estimate state
    obtain ⟨u, hu⟩ : ∃ u, u = (heard Form.refill l tag ps s).refilled (wordAt ps 0) cap := ⟨_, rfl⟩
    have refilled : Cascade (heard Form.refill l tag ps s) u := hu ▸ Cascade.refilled _ written
    have frame : Frame .none .water (heard Form.refill l tag ps s) (recomputeWater raiseFactor u) :=
      (Cascade.to refilled).trans (Frame.recomputeWater Cascade.raiseFactor _)
    have answer := (owner raiseFactor).trans (refillOwner_refills (s := heard Form.refill l tag ps s) range written)
    rw [← hu] at answer
    refine ⟨_, _, congrArg Host.Outcome.next (serveEvent_finish (owner := fun raise => claimTest .account (refillOwner raise))
      sent answer frame.links), frame.served hq.noReset hq.work, fun hn => ?_⟩
    have water : u.water = { s.water with
        estimate := estimate, pulses := 0, dryLatch := false, dispensed := 0, swept := 0, sweptPulses := 0 } :=
      hu ▸ Water.refill_eq s.water (wordAt ps 0) cap (s.item 23)
    have now : u.waterNow = state := by
      have item : u.item 23 = s.item 23 := by rw [hu]; rfl
      rw [State.waterNow, item, Water.stateFor_unlatched (by rw [water]), water]
    have quiet : Quiet u := hu ▸ ⟨hq.work, hq.noReset⟩
    have unbound : NoReactions u := hu ▸ hn
    obtain ⟨-, recomputed⟩ := recomputeWater_told unbound
    have told := finish_recomputeWater unbound quiet
      (linksAfter Form.refill l tag ps .ok (.refilled (recomputeWater raiseFactor u).water.estimate
        (recomputeWater raiseFactor u).water.state) s)
    refine ⟨?_, ?_, fun changed => ?_⟩
    · rw [recomputed.water, now, water]
    · rw [told.water, now, water]
    · have before : u.water.state = s.water.state := by rw [water]
      obtain ⟨taken, -⟩ := told.taken (by rwa [now, before])
      exact taken.trans now

end Sys2Proof.Machine
end

section
/-! PROOFS. COMMISSION_SET. -/

namespace Sys2Proof.Machine

set_option Elab.async false

/-! ## The ranges of the items (R179) -/

theorem between_iff (lo hi v : Nat) : (decide (lo ≤ v) && decide (v ≤ hi)) = true ↔ lo ≤ v ∧ v ≤ hi := by
  rw [Bool.and_eq_true, decide_eq_true_eq, decide_eq_true_eq]

/-- The items with a least and a greatest value. -/
def boundedItems : List (Nat × Nat × Nat) :=
  [(1, 1, 1000), (2, 50, 250), (3, 10, 60), (4, 50, 300), (5, 5, 50), (6, 5, 80), (7, 20, 80), (10, 50, 250),
    (11, 1, 60), (12, 1, 60), (13, 300, 3000), (14, 2000, 30000), (15, 1, 40), (16, 1, 40), (17, 1, 40), (18, 1, 40),
    (19, 1, 127), (20, 0, 127), (21, 800, 3000), (22, 100, 4000), (23, 10, 1000), (24, 1, 1000), (25, 0, 100),
    (26, 0, 100), (27, 0, 100), (28, 0, 100), (29, 1000, 10000), (30, 20, 250)]

theorem itemRange_bounded {x : Nat × Nat × Nat} (hx : x ∈ boundedItems) (v : Nat) :
    itemRange x.1 v = true ↔ x.2.1 ≤ v ∧ v ≤ x.2.2 := by
  have bounds : itemRange x.1 v = (decide (x.2.1 ≤ v) && decide (v ≤ x.2.2)) := by
    fin_cases hx
    all_goals rfl
  rw [bounds, between_iff]

/-- A motion timeout: whole tenths of a second. -/
theorem itemRange_timeout {k : Nat} (hk : k = 8 ∨ k = 9) (v : Nat) :
    itemRange k v = true ↔ 500 ≤ v ∧ v ≤ 8000 ∧ 100 ∣ v := by
  have hundreds : (decide (500 ≤ v) && decide (v ≤ 8000) && v % 100 == 0) = true ↔ 500 ≤ v ∧ v ≤ 8000 ∧ 100 ∣ v := by
    rw [Bool.and_eq_true, between_iff, beq_iff_eq, ← Nat.dvd_iff_mod_eq_zero, and_assoc]
  rcases hk with rfl | rfl <;> exact hundreds

/-- A gate interval. -/
theorem itemRange_gate {k : Nat} (low : 31 ≤ k) (high : k ≤ 35) (v : Nat) :
    itemRange k v = true ↔ v = 50 ∨ v = 100 ∨ v = 200 := by
  have gates : (v == 50 || v == 100 || v == 200) = true ↔ v = 50 ∨ v = 100 ∨ v = 200 := by
    rw [Bool.or_eq_true, Bool.or_eq_true, beq_iff_eq, beq_iff_eq, beq_iff_eq, or_assoc]
  obtain rfl | rfl | rfl | rfl | rfl : k = 31 ∨ k = 32 ∨ k = 33 ∨ k = 34 ∨ k = 35 := by omega
  all_goals exact gates

/-- Only the numbers 1 to 35 name an item. -/
theorem itemRange_names {k v : Nat} (h : itemRange k v = true) : 1 ≤ k ∧ k ≤ 35 := by
  unfold itemRange at h
  dsimp only at h
  split at h
  case h_36 => exact nomatch h
  all_goals exact ⟨by decide, by decide⟩

/-! ## An item written (R179) -/

/-- An item takes a value. -/
def State.itemSet (k n : Nat) (s : State) : State :=
  { s with supervision := { s.supervision with items := s.supervision.items.setIfInBounds (k - 1) (some n) } }

theorem modSupervision_write {k : Nat} (h : 1 ≤ k) (s : State) (n : Nat) :
    (s.modSupervision fun v => v.write k n) = s.itemSet k n :=
  congrArg (fun v => { s with supervision := v }) (if_neg (Nat.one_le_iff_ne_zero.1 h))

theorem itemSet_item? {k : Nat} (low : 1 ≤ k) (high : k ≤ 35) (s : State) (n j : Nat) :
    (s.itemSet k n).item? j = if j = k then some n else s.item? j := by
  rw [← modSupervision_write low]
  refine (Supervision.item_write s.supervision k n j).trans ?_
  simp only [low, high, and_true]
  rfl

section
variable {raise : Raiser} {l : Station} {ps : List Byte} {s : State}

theorem commissionSetOwner_badParam (h : itemRange (byteAt ps 0) (wordAt ps 1) = false) :
    commissionSetOwner raise l ps s = ⟨.badParam, .none, s⟩ := by
  unfold commissionSetOwner
  dsimp only
  rw [h]
  rfl

theorem commissionSetOwner_fixed (h : itemRange (byteAt ps 0) (wordAt ps 1) = true) (written : s.item? (byteAt ps 0) ≠ none) :
    commissionSetOwner raise l ps s = ⟨.fixed, .none, s⟩ := by
  unfold commissionSetOwner
  dsimp only
  rw [h, Option.isSome_iff_ne_none.2 written]
  rfl

theorem commissionSetOwner_writes (h : itemRange (byteAt ps 0) (wordAt ps 1) = true)
    (unwritten : s.item? (byteAt ps 0) = none) : commissionSetOwner raise l ps s =
      ⟨.ok, .none, itemWritten raise (byteAt ps 0) (s.itemSet (byteAt ps 0) (wordAt ps 1))⟩ := by
  unfold commissionSetOwner
  dsimp only
  rw [h, unwritten, modSupervision_write (itemRange_names h).1]
  rfl

end

/-! ## What a written item brings (R148, R153) -/

theorem itemWritten_alone {raise : Raiser} {k : Nat} (h : k < 19 ∨ 23 < k) (s : State) : itemWritten raise k s = s := by
  unfold itemWritten
  rw [if_neg (by simp only [Bool.or_eq_true, decide_eq_true_eq]; omega),
    if_neg (by simp only [Bool.or_eq_true, decide_eq_true_eq]; omega)]

theorem itemWritten_capacity {raise : Raiser} {k : Nat} (h : k = 19 ∨ k = 20 ∨ k = 21) (s : State) :
    itemWritten raise k s =
      State.capacitySet s.flow.capacity { s with flow := { s.flow with capacity := s.capacityNow } } := by
  rw [← recomputeCapacity_eq]
  exact if_pos (by simp only [Bool.or_eq_true, decide_eq_true_eq]; omega)

theorem itemWritten_water {raise : Raiser} {k : Nat} (h : k = 22 ∨ k = 23) (s : State) :
    itemWritten raise k s = recomputeWater raise s := by
  unfold itemWritten
  rw [if_neg (by simp only [Bool.or_eq_true, decide_eq_true_eq]; omega),
    if_pos (by simp only [Bool.or_eq_true, decide_eq_true_eq]; omega)]

section
variable {s : State} (hq : Quiet s) {k : Nat} (links : PerStation Link)
include hq

theorem finish_itemWritten_alone (h : k < 19 ∨ 23 < k) :
    finish { itemWritten raiseFactor k s with links := links } = { s with links := links } := by
  rw [itemWritten_alone h]
  exact finish_clear hq.work

theorem finish_itemWritten_capacity (hn : NoReactions s) (h : k = 19 ∨ k = 20 ∨ k = 21) :
    (finish { itemWritten raiseFactor k s with links := links }).flow.capacity = s.capacityNow := by
  rw [itemWritten_capacity h, capacitySet_links]
  have quiet : Quiet { s with flow := { s.flow with capacity := s.capacityNow }, links := links } := ⟨hq.work, hq.noReset⟩
  exact (congrArg Flow.capacity (finish_capacitySet_ended _ quiet hn).flow :)

theorem finish_itemWritten_water (hn : NoReactions s) (h : k = 22 ∨ k = 23) :
    (finish { itemWritten raiseFactor k s with links := links }).water = { s.water with state := s.waterNow } := by
  rw [itemWritten_water h]
  exact (finish_recomputeWater hn hq links).water

end

/-- Settles O55: the ranges; the owner's two refusals; the item written, and what it brings at the event's end. -/
theorem commissionSetWritesOneItem : Obligations.CommissionSetWritesOneItem := by
  refine ⟨fun x hx v => itemRange_bounded hx v, fun k hk v => itemRange_timeout hk v,
    fun k low high v => itemRange_gate low high v, fun l tag ps s sent hq => ?_⟩
  intro k v
  refine ⟨fun outside => ?_, fun range written => ?_, fun range unwritten => ?_⟩
  · exact congrArg Host.Outcome.next (serveEvent_done (owner := commissionSetOwner) sent tag
      (commissionSetOwner_badParam outside) rfl hq.work)
  · exact congrArg Host.Outcome.next (serveEvent_done (owner := commissionSetOwner) sent tag
      (commissionSetOwner_fixed (s := heard Form.commissionSet l tag ps s) range written) rfl hq.work)
  · intro u
    obtain ⟨low, high⟩ := itemRange_names range
    have answer := commissionSetOwner_writes (raise := raiseFactor) (l := l) (s := heard Form.commissionSet l tag ps s) range
      unwritten
    obtain ⟨w, hw⟩ : ∃ w, w = (heard Form.commissionSet l tag ps s).itemSet k v := ⟨_, rfl⟩
    obtain ⟨links, hl⟩ : ∃ p, p = linksAfter Form.commissionSet l tag ps .ok .none s := ⟨_, rfl⟩
    obtain ⟨t, ht⟩ : ∃ t, t = finish { itemWritten raiseFactor k w with links := links } := ⟨_, rfl⟩
    have answered : u = { w with links := links } := by rw [hl, hw]; rfl
    have quiet : Quiet w := hw ▸ ⟨hq.work, hq.noReset⟩
    have frame := itemWritten_frame Cascade.raiseFactor k w
    have runs : exec (.commissionSet l tag ps) s = .next t := by
      rw [ht, hl]
      exact congrArg Host.Outcome.next (serveEvent_finish (owner := commissionSetOwner) sent (hw ▸ answer)
        (frame.links.trans (hw ▸ rfl)))
    obtain ⟨untouched, capture, switches⟩ :=
      (frame.relink links).finish_untouched quiet.noReset (congrArg Work.reset quiet.work)
    rw [← ht, ← answered] at untouched capture switches
    have set : ∀ j, t.item? j = w.item? j := fun j => (untouched.item? j).trans (by rw [answered]; rfl)
    have items : ∀ j, w.item? j = if j = k then some v else s.item? j := fun j => hw ▸ itemSet_item? low high _ v j
    refine ⟨t, runs, untouched, capture, switches, (set k).trans ((items k).trans (if_pos rfl)),
      fun j other => (set j).trans ((items j).trans (if_neg other)), fun alone => ?_, fun rated hn => ?_, fun tank hn => ?_⟩
    · rw [ht, answered]
      exact finish_itemWritten_alone quiet links alone
    · have item : ∀ j, t.item j = w.item j := fun j => congrArg (Option.getD · 0) (set j)
      have flow : w.flow = s.flow := by rw [hw]; rfl
      have capacity := finish_itemWritten_capacity quiet links (hw ▸ hn) rated
      rw [← ht, State.capacityNow, flow, ← item 19, ← item 20, ← item 21] at capacity
      exact capacity
    · have item : t.item 23 = w.item 23 := congrArg (Option.getD · 0) (set 23)
      have same : w.water = s.water := by rw [hw]; rfl
      have water := finish_itemWritten_water quiet links (hw ▸ hn) tank
      rw [← ht, State.waterNow, same] at water
      rw [water, item]
      exact ⟨rfl, Water.stateFor_eq _ _⟩

end Sys2Proof.Machine
end

section
/-! PROOFS. READ_NOTICES, ACK_FACTORS and the two masks. -/

namespace Sys2Proof.Machine

set_option Elab.async false

/-! ## A queue that takes deferred notices (R168, R171) -/

/-- R168: one notice at the tail, or dropped with the overflow flag set. -/
theorem StationNotices.append_withDeferred (v : StationNotices) (n : Notice) (h : v.queue.length ≤ 16) :
    v.append n = v.withDeferred [n] := by
  unfold StationNotices.append StationNotices.withDeferred
  split
  · rename_i room
    rw [List.take_of_length_le (by rw [List.length_append]; exact room), List.length_singleton,
      decide_eq_false (by omega), Bool.or_false]
  · rename_i full
    have sixteen : v.queue.length = 16 := by omega
    rw [List.take_left' sixteen, List.length_singleton, decide_eq_true (by omega), Bool.or_true]

theorem StationNotices.withDeferred_nil (v : StationNotices) (h : v.queue.length ≤ 16) : v.withDeferred [] = v := by
  unfold StationNotices.withDeferred
  rw [List.append_nil, List.take_of_length_le h, List.length_nil, decide_eq_false (by omega), Bool.or_false]

theorem StationNotices.withDeferred_length (v : StationNotices) (l : List Notice) :
    (v.withDeferred l).queue.length ≤ 16 := List.length_take_le _ _

theorem StationNotices.withDeferred_append (v : StationNotices) (l m : List Notice) :
    (v.withDeferred l).withDeferred m = v.withDeferred (l ++ m) := by
  have queue : ((v.queue ++ l).take 16 ++ m).take 16 = (v.queue ++ (l ++ m)).take 16 := by
    rw [← List.append_assoc]
    generalize v.queue ++ l = taken
    rw [List.take_append, List.take_append, List.take_take, List.length_take, Nat.min_self,
      show 16 - min 16 taken.length = 16 - taken.length by omega]
  have overflow : (v.overflow || decide (16 < v.queue.length + l.length) ||
      decide (16 < ((v.queue ++ l).take 16).length + m.length)) =
      (v.overflow || decide (16 < v.queue.length + (l ++ m).length)) := by
    rw [Bool.or_assoc, ← Bool.decide_or, List.length_take, List.length_append, List.length_append]
    congr 2
    exact propext (by omega)
  unfold StationNotices.withDeferred
  dsimp only
  rw [queue, overflow]

/-- R171: the deferred notice of one factor, where its held record stands. -/
theorem StationNotices.appendDeferred_eq (v : StationNotices) (k : Fin 24) (h : v.queue.length ≤ 16) :
    v.appendDeferred k = v.withDeferred (v.held[k].map fun r => (⟨r, true⟩ : Notice)).toList := by
  unfold StationNotices.appendDeferred
  cases v.held[k] with
  | none => exact (v.withDeferred_nil h).symm
  | some r => exact v.append_withDeferred _ h

/-- R171: the deferred notices come in factor order, the queue held to 16. -/
theorem StationNotices.defer_eq (v : StationNotices) (which : BitVec 24) (h : v.queue.length ≤ 16) :
    v.defer which = v.withDeferred (deferredFor v fun k => which.getLsbD k) := by
  have pass : ∀ (ks : List (Fin 24)) (w : StationNotices), w.held = v.held → w.queue.length ≤ 16 →
      ks.foldl (fun w (k : Fin 24) =>
        if which.getLsbD k.val && v.flags.getLsbD k.val then w.appendDeferred k else w) w =
      w.withDeferred (ks.filterMap fun (k : Fin 24) =>
        if which.getLsbD k && v.flags.getLsbD k then v.held[k].map fun r => ⟨r, true⟩ else none) := by
    intro ks
    induction ks with
    | nil => exact fun w _ hw => (w.withDeferred_nil hw).symm
    | cons k ks ih =>
      intro w held hw
      rw [List.foldl_cons, List.filterMap_cons]
      by_cases picked : (which.getLsbD k && v.flags.getLsbD k) = true
      · rw [if_pos picked, if_pos picked, w.appendDeferred_eq k hw, held,
          ih (w.withDeferred _) held (w.withDeferred_length _), w.withDeferred_append]
        cases v.held[k] <;> rfl
      · rw [if_neg picked, if_neg picked]
        exact ih w held hw
  exact pass factorList v rfl h

/-- R171: what the mask newly set unmasks is brought in while the master mask is clear. -/
theorem StationNotices.setMasks_eq (v : StationNotices) (set : BitVec 24) (h : v.queue.length ≤ 16) :
    v.setMasks set = ({ v with masks := set }.withDeferred
      (if v.master then [] else deferredFor v fun k => v.masks.getLsbD k && !set.getLsbD k)) := by
  have unmasked : ∀ k : Fin 24, (v.masks &&& ~~~set).getLsbD k = (v.masks.getLsbD k && !set.getLsbD k) := fun k => by
    rw [BitVec.getLsbD_and, BitVec.getLsbD_not, decide_eq_true k.isLt, Bool.true_and]
  unfold StationNotices.setMasks
  dsimp only
  split
  · exact (StationNotices.withDeferred_nil { v with masks := set } h).symm
  · rw [StationNotices.defer_eq { v with masks := set } _ h]
    simp only [unmasked]
    rfl

/-- R171: with a set master mask cleared every unmasked factor is brought in. -/
theorem StationNotices.setMaster_clears (v : StationNotices) (was : v.master = true) (h : v.queue.length ≤ 16) :
    v.setMaster false = ({ v with master := false }.withDeferred (deferredFor v fun k => !v.masks.getLsbD k)) := by
  have unmasked : ∀ k : Fin 24, (~~~v.masks).getLsbD k = !v.masks.getLsbD k := fun k => by
    rw [BitVec.getLsbD_not, decide_eq_true k.isLt, Bool.true_and]
  unfold StationNotices.setMaster
  rw [was]
  refine (StationNotices.defer_eq { v with master := false } _ h).trans ?_
  simp only [unmasked]
  rfl

theorem StationNotices.setMaster_sets (v : StationNotices) : v.setMaster true = { v with master := true } := by
  unfold StationNotices.setMaster
  rw [Bool.not_true, Bool.and_false]
  rfl

theorem StationNotices.setMaster_stays (v : StationNotices) (was : v.master = false) : v.setMaster false = v := by
  unfold StationNotices.setMaster
  rw [was]
  exact congrArg (fun on => { v with master := on }) was.symm

/-! ## The four requests (R169 to R171) -/

/-- A request that changes its sender's factor state alone, answered. -/
theorem serve_station {f : Form} {l : Station} {ps : List Byte} {s : State} (sent : Sent f l ps s) {owner : Owner}
    (tag : Byte) {st : Status} {d : Payload} {change : StationNotices → StationNotices} {w : StationNotices}
    (ho : owner l ps (heard f l tag ps s) = ⟨st, d, (heard f l tag ps s).modStation l change⟩)
    (becomes : change (s.notices.get l) = w) : (Host.Outcome.next (serve f owner l tag ps s) :
      Host.Outcome State Fault Refusal) = .next { replied f l tag ps st d s with notices := s.notices.set l w } := by
  subst becomes
  exact congrArg Host.Outcome.next (serve_done sent tag ho rfl)

/-- R171: a master value is 0 or 1. -/
theorem setMasterOwner_badParam {ps : List Byte} (h : 1 < byteAt ps 0) (st : Station) (s : State) :
    setMasterOwner st ps s = ⟨.badParam, .none, s⟩ := if_pos h

theorem setMasterOwner_sets {ps : List Byte} {on : Bool} (h : byteAt ps 0 = on.toNat) (st : Station) (s : State) :
    setMasterOwner st ps s = ⟨.ok, .none, s.modStation st fun v => v.setMaster on⟩ := by
  unfold setMasterOwner
  dsimp only
  rw [h]
  cases on <;> rfl

/-- Settles O53: what each request makes of its sender's factor state. -/
theorem stationsReadAndMaskTheirNotices : Obligations.StationsReadAndMaskTheirNotices := by
  intro l tag ps s v becomes
  refine ⟨fun sent => ?_, fun sent => ?_, fun sent room => ?_, fun sent room =>
    ⟨fun large => ?_, fun one => ?_, fun zero off => ?_, fun zero on => ?_⟩⟩
  · have remaining : (v.queue.drop 4).length = v.queue.length - 4 := List.length_drop
    refine serve_station (change := StationNotices.read) sent tag ?_ rfl
    rw [← remaining]
    rfl
  · exact serve_station sent tag rfl rfl
  · exact serve_station sent tag rfl (v.setMasks_eq _ room)
  · exact congrArg Host.Outcome.next (serve_replied sent tag (setMasterOwner_badParam large l _))
  · exact serve_station sent tag (setMasterOwner_sets (on := true) one l _) v.setMaster_sets
  · exact serve_station sent tag (setMasterOwner_sets (on := false) zero l _) (v.setMaster_stays off)
  · exact serve_station sent tag (setMasterOwner_sets (on := false) zero l _) (v.setMaster_clears on room)

end Sys2Proof.Machine
end

section
/-! PROOFS. BIND_REACTION and UNBIND_REACTION. -/

namespace Sys2Proof.Machine

set_option Elab.async false

/-! ## The parameters that name a binding (R174) -/

theorem armOf_eq_some {n : Nat} {a : Arm} : armOf n = some a ↔ n = a.number := by
  constructor
  · intro named
    unfold armOf at named
    split at named <;> cases named <;> rfl
  · rintro rfl
    cases a <;> rfl

theorem zoneOf_eq_some {n : Nat} {z : Zone} : zoneOf n = some z ↔ n = z.number := by
  constructor
  · intro named
    unfold zoneOf at named
    split at named <;> cases named <;> rfl
  · rintro rfl
    cases z <;> rfl

theorem entryOf_eq_some {n : Nat} {e : EntryNo} : entryOf n = some e ↔ e.val = n := by
  refine ⟨fun named => ?_, slotOf_of_val⟩
  unfold entryOf slotOf at named
  split at named <;> cases named
  rfl

theorem factorOf_eq_some {n : Nat} {k : Fin 24} : factorOf n = some k ↔ k.val = n := by
  unfold factorOf
  constructor
  · intro named
    split at named <;> cases named
    rfl
  · rintro rfl
    exact dif_pos k.isLt

/-- R174: the filters that a factor permits. -/
theorem filterOf_eq_some {k v : Nat} {f : Filter} : filterOf k v = some f ↔
    (v = 0 ∧ f = .any ∨ (∃ a, f = .arm a ∧ v = a.number + 1 ∧ 5 ≤ k ∧ k ≤ 9) ∨
      (∃ n, f = .level n ∧ v = n ∧ 1 ≤ n ∧ n ≤ 3 ∧ k = 13) ∨ ∃ z, f = .zone z ∧ v = z.number + 1 ∧ k = 18) := by
  unfold filterOf
  by_cases any : v = 0
  · subst any
    simp [eq_comm]
  have positive : 1 ≤ v := Nat.one_le_iff_ne_zero.2 any
  rw [if_neg any]
  by_cases arms : 5 ≤ k ∧ k ≤ 9
  · have other : k ≠ 13 ∧ k ≠ 18 := by omega
    rw [if_pos (by simpa using arms)]
    simp [armOf_eq_some, Nat.sub_eq_iff_eq_add positive, any, arms, other, @eq_comm _ f, and_comm]
  rw [if_neg (by simpa using arms)]
  by_cases level : k = 13
  · subst level
    by_cases high : v ≤ 3 <;> simp [any, positive, high, eq_comm]
  rw [if_neg level]
  by_cases zone : k = 18
  · subst zone
    simp [zoneOf_eq_some, Nat.sub_eq_iff_eq_add positive, any, @eq_comm _ f, and_comm]
  · simp [any, arms, level, zone]

/-- R174: the actions, each with an operand of its kind and range. -/
theorem actionOf_eq_some {c v : Nat} {x : Action} : actionOf c v = some x ↔
    ((∃ a, x = .raiseArm a ∧ c = 0 ∧ v = a.number) ∨ (∃ a, x = .haltArm a ∧ c = 1 ∧ v = a.number) ∨
      (x = .forceZoneOff none ∧ c = 2 ∧ v = 4) ∨ (∃ z, x = .forceZoneOff (some z) ∧ c = 2 ∧ v = z.number) ∨
      (x = .capSpeed v ∧ c = 3 ∧ v ≤ 250) ∨ (x = .stopTravel ∧ c = 4 ∧ v = 0)) := by
  unfold actionOf
  split
  · simp [armOf_eq_some, @eq_comm _ x, and_comm]
  · simp [armOf_eq_some, @eq_comm _ x, and_comm]
  · by_cases every : v = 4
    · have none_named : ∀ z : Zone, 4 ≠ z.number := fun z => by cases z <;> decide
      subst every
      simp [none_named, eq_comm]
    · simp [every, zoneOf_eq_some, @eq_comm _ x, and_comm]
  · simp [eq_comm, and_comm]
  · simp [eq_comm, and_comm]
  · rename_i raise halt force cap stop
    exact ⟨nofun, fun named => by
      rcases named with ⟨-, -, e, -⟩ | ⟨-, -, e, -⟩ | ⟨-, e, -⟩ | ⟨-, -, e, -⟩ | ⟨-, e, -⟩ | ⟨-, e, -⟩
      exacts [(raise e).elim, (halt e).elim, (force e).elim, (force e).elim, (cap e).elim, (stop e).elim]⟩

/-- R174: the parameters name a binding exactly where each of its parts is named. -/
theorem bindingOf_eq_some {l : Station} {ps : List Byte} {e : EntryNo} {b : Binding} :
    bindingOf l ps = some (e, b) ↔ entryOf (byteAt ps 0) = some e ∧ factorOf (byteAt ps 1) = some b.factor ∧
      b.installer = l ∧ b.enabled = true ∧ b.held = none ∧ filterOf (byteAt ps 1) (byteAt ps 2) = some b.filter ∧
      actionOf (byteAt ps 3) (wordAt ps 4) = some b.action := by
  unfold bindingOf
  constructor
  · intro named
    split at named
    · rename_i he hk hf ha
      cases named
      exact ⟨he, hk, rfl, rfl, rfl, hf, ha⟩
    · cases named
  · rintro ⟨he, hk, rfl, on, idle, hf, ha⟩
    obtain ⟨k, f, a, st, enabled, held⟩ := b
    cases on
    cases idle
    rw [he, hk, hf, ha]

/-! ## BIND_REACTION (R174) -/

section
variable {l : Station} {ps : List Byte} {e : EntryNo} {b : Binding} {s : State}

theorem bindOwner_badParam (unnamed : bindingOf l ps = none) : bindOwner l ps s = ⟨.badParam, .none, s⟩ := by
  unfold bindOwner
  rw [unnamed]
  rfl

theorem bindOwner_busy (named : bindingOf l ps = some (e, b))
    (busy : s.profile.changeover ≠ none ∨ s.reactions[e] ≠ none) : bindOwner l ps s = ⟨.refusedBusy, .none, s⟩ := by
  unfold bindOwner
  rw [named]
  dsimp only
  simp only [← Option.isSome_iff_ne_none] at busy
  split
  · rfl
  · rename_i quiet
    exact if_pos (busy.resolve_left quiet)

theorem bindOwner_binds (named : bindingOf l ps = some (e, b)) (still : s.profile.changeover = none)
    (free : s.reactions[e] = none) : bindOwner l ps s = ⟨.ok, .none, s.setReaction e (some b)⟩ := by
  unfold bindOwner
  rw [named]
  dsimp only
  rw [still, free]
  rfl

/-! ## UNBIND_REACTION (R175) -/

theorem unbindOwner_badParam (h : 8 ≤ byteAt ps 0) : unbindOwner l ps s = ⟨.badParam, .none, s⟩ := by
  unfold unbindOwner entryOf
  rw [slotOf_of_ge h]
  rfl

variable (named : e.val = byteAt ps 0)
include named

theorem unbindOwner_refusedState (unbound : s.reactions[e] = none ∨ ∃ b, s.reactions[e] = some b ∧ b.enabled = false) :
    unbindOwner l ps s = ⟨.refusedState, .none, s⟩ := by
  unfold unbindOwner
  rw [entryOf_eq_some.2 named]
  dsimp only
  obtain free | ⟨b, taken, draining⟩ := unbound
  · rw [free]
    rfl
  · rw [taken]
    dsimp only
    rw [draining]
    rfl

theorem unbindOwner_refusedRole (taken : s.reactions[e] = some b) (bound : b.enabled = true) (foreign : b.installer ≠ l)
    (outside : l ≠ .c) : unbindOwner l ps s = ⟨.refusedRole, .none, s⟩ := by
  unfold unbindOwner
  rw [entryOf_eq_some.2 named]
  dsimp only
  rw [taken]
  dsimp only
  rw [bound, if_neg nofun, if_pos (by simp [foreign, outside])]
  rfl

theorem unbindOwner_unbinds (taken : s.reactions[e] = some b) (bound : b.enabled = true)
    (may : b.installer = l ∨ l = .c) : unbindOwner l ps s = ⟨.ok, .none, unbind e b s⟩ := by
  have own : ¬(b.installer ≠ l && l ≠ .c) = true := by
    obtain own | cab := may
    · simp [own]
    · simp [cab]
  unfold unbindOwner
  rw [entryOf_eq_some.2 named]
  dsimp only
  rw [taken]
  dsimp only
  rw [bound, if_neg nofun, if_neg own]
  rfl

end

/-! ## What unbinding leaves (R103, R175, R177) -/

/-- What an entry that is unbound becomes: DRAINING while its action is in flight, else FREE (R175). -/
def Binding.unbound (b : Binding) : Option Binding := if b.held.isSome then some { b with enabled := false } else none

/-- The part with an entry unbound, before what a CAP_SPEED action brings. -/
def State.entryUnbound (s : State) (e : EntryNo) (b : Binding) : State := s.setReaction e b.unbound

theorem Action.isCap_iff {a : Action} : a.isCap = true ↔ ∃ v, a = .capSpeed v := by
  cases a <;> simp [Action.isCap]

theorem unbind_plain {b : Binding} (plain : b.action.isCap = false) (e : EntryNo) (s : State) :
    unbind e b s = s.entryUnbound e b := by
  unfold unbind
  dsimp only
  rw [plain]
  rfl

/-- R175: the action of a CAP_SPEED entry in flight is completed, and its cap removed where one is installed. -/
theorem unbind_cap {b : Binding} (cap : b.action.isCap = true) (e : EntryNo) (s : State) :
    unbind e b s = if s.travel.caps[e].isSome then removeCap e (complete e .unbound (s.entryUnbound e b))
      else complete e .unbound (s.entryUnbound e b) := if_pos cap

/-- A cascade binds no entry. -/
theorem ReactionsKept.free {r t : Vector (Option Binding) 8} (h : ReactionsKept r t) {e : EntryNo} (free : r[e] = none) :
    t[e] = none := by
  refine Option.eq_none_iff_forall_ne_some.2 fun c taken => ?_
  obtain ⟨b, before, -⟩ := h.old e c taken
  exact absurd (free.symm.trans before) nofun

/-- What follows the entry's change is a cascade. -/
theorem unbind_cascade (e : EntryNo) (b : Binding) (s : State) : Cascade (s.entryUnbound e b) (unbind e b s) := by
  cases cap : b.action.isCap with
  | false =>
    rw [unbind_plain cap]
    exact .refl _
  | true =>
    have done := Cascade.complete e .unbound (s.entryUnbound e b)
    rw [unbind_cap cap]
    split
    · exact done.andThen (Cascade.removeCap e _)
    · exact done

theorem entryUnbound_entry (s : State) (e : EntryNo) (b : Binding) : (s.entryUnbound e b).reactions[e] = b.unbound :=
  (s.setReaction_get e e b.unbound).trans (if_pos rfl)

theorem entryUnbound_other (s : State) {e k : EntryNo} (other : k ≠ e) (b : Binding) :
    (s.entryUnbound e b).reactions[k] = s.reactions[k] := (s.setReaction_get e k b.unbound).trans (if_neg other)

/-- R177: the completion of a DRAINING entry leaves it FREE. -/
theorem complete_unbound (s : State) (e : EntryNo) (b : Binding) :
    (complete e .unbound (s.entryUnbound e b)).reactions[e] = none := by
  have entry := entryUnbound_entry s e b
  unfold Binding.unbound at entry
  cases held : b.held with
  | none =>
    rw [held] at entry
    unfold complete completeWith release
    rw [entry]
    exact entry
  | some r =>
    rw [held] at entry
    rw [complete, completeWith_inFlight entry rfl]
    exact (entry_get_set _ e e _).trans (if_pos rfl)

/-- R175: an entry that is not in flight, and every CAP_SPEED entry, is FREE at once. -/
theorem unbind_frees {b : Binding} (free : b.held = none ∨ b.action.isCap = true) (e : EntryNo) (s : State) :
    (unbind e b s).reactions[e] = none := by
  cases cap : b.action.isCap with
  | false =>
    have idle : b.held = none := free.resolve_right (by rw [cap]; exact nofun)
    rw [unbind_plain cap, entryUnbound_entry, Binding.unbound, idle]
    rfl
  | true =>
    rw [unbind_cap cap]
    split <;> exact complete_unbound s e b

/-- R103, R175: the cap of a CAP_SPEED entry is gone, and nothing but the ceiling is left to the end of the event. -/
theorem unbind_cap_leaves {b : Binding} (cap : b.action.isCap = true) (e : EntryNo) (s : State) :
    (unbind e b s).travel.caps[e] = none ∧
      ((unbind e b s).work = s.work ∨ (unbind e b s).work = { s.work with ceiling := true }) := by
  obtain ⟨r, n, done⟩ := completeWith_told e .unbound (.all false) (s.entryUnbound e b)
  rw [unbind_cap cap, complete, done]
  split
  · exact ⟨Vector.getElem_set_self _, .inr rfl⟩
  · rename_i absent
    exact ⟨Option.not_isSome_iff_eq_none.1 absent, .inl rfl⟩

/-- Unbinding the only entry leaves none (R175). -/
theorem unbind_last {e : EntryNo} {b : Binding} {s : State} (frees : (unbind e b s).reactions[e] = none)
    (alone : ∀ k : EntryNo, k ≠ e → s.reactions[k] = none) : NoReactions (unbind e b s) := fun k => by
  by_cases same : k = e
  · rw [same]
    exact frees
  · exact (unbind_cascade e b s).reactions.free ((entryUnbound_other s same b).trans (alone k same))

/-! ## The request that unbinds (R175) -/

section Unbinds

variable {l : Station} {tag : Byte} {ps : List Byte} {s : State} {e : EntryNo} {b : Binding}

/-- The part answered with the entry unbound, before the end of the event. -/
def unboundBy (l : Station) (tag : Byte) (ps : List Byte) (e : EntryNo) (b : Binding) (s : State) : State :=
  { unbind e b (heard Form.unbindReaction l tag ps s) with links := linksAfter Form.unbindReaction l tag ps .ok .none s }

theorem unboundBy_plain (plain : b.action.isCap = false) : unboundBy l tag ps e b s =
    { replied Form.unbindReaction l tag ps .ok .none s with reactions := s.reactions.set e b.unbound } := by
  rw [unboundBy, unbind_plain plain]
  rfl

theorem unboundBy_frees (free : b.held = none ∨ b.action.isCap = true) :
    (unboundBy l tag ps e b s).reactions[e] = none := unbind_frees free e _

theorem unboundBy_quiet (quiet : Quiet s) : (unboundBy l tag ps e b s).supervision.pendingReset = none ∧
    (unboundBy l tag ps e b s).work.reset = none :=
  have cascade := unbind_cascade e b (heard Form.unbindReaction l tag ps s)
  ⟨cascade.pendingReset.trans quiet.noReset, cascade.reset quiet.noReset (congrArg Work.reset quiet.work)⟩

/-- An entry that is FREE when the end of an event begins stays so. -/
theorem finish_unboundBy_frees (quiet : Quiet s) (free : b.held = none ∨ b.action.isCap = true) :
    (finish (unboundBy l tag ps e b s)).reactions[e] = none := by
  obtain ⟨noReset, noKind⟩ := unboundBy_quiet (l := l) (tag := tag) (ps := ps) (e := e) (b := b) quiet
  obtain ⟨u, ends, cascade⟩ := finish_ends noReset noKind
  rw [ends]
  exact cascade.reactions.free (unboundBy_frees free)

/-- With no other entry left to answer the ceiling's factor the cap stays removed. -/
theorem finish_unboundBy_caps (quiet : Quiet s) (cap : b.action.isCap = true)
    (alone : ∀ k : EntryNo, k ≠ e → s.reactions[k] = none) :
    (finish (unboundBy l tag ps e b s)).travel.caps[e] = none := by
  obtain ⟨noReset, noKind⟩ := unboundBy_quiet (l := l) (tag := tag) (ps := ps) (e := e) (b := b) quiet
  obtain ⟨removed, work⟩ := unbind_cap_leaves cap e (heard Form.unbindReaction l tag ps s)
  have unbound : NoReactions (unboundBy l tag ps e b s) := unbind_last (unboundBy_frees (.inr cap)) alone
  have due : (unboundBy l tag ps e b s).work.blocked = none ∧ (unboundBy l tag ps e b s).work.reached = [] := by
    have clear : (heard Form.unbindReaction l tag ps s).work = Work.clear := quiet.work
    rw [clear] at work
    obtain same | ceiling := work
    · exact ⟨congrArg Work.blocked same, congrArg Work.reached same⟩
    · exact ⟨congrArg Work.blocked ceiling, congrArg Work.reached ceiling⟩
  rw [(Ended.finish unbound noReset noKind due.1 due.2).travel]
  exact removed

variable (sent : Sent Form.unbindReaction l ps s) (named : e.val = byteAt ps 0) (taken : s.reactions[e] = some b)
  (bound : b.enabled = true) (may : b.installer = l ∨ l = .c)
include sent named taken bound may

theorem exec_unbindReaction_unbinds :
    exec (.unbindReaction l tag ps) s = .next (finish (unboundBy l tag ps e b s)) :=
  congrArg Host.Outcome.next (serveEvent_finish (owner := fun _ => unbindOwner) sent
    (unbindOwner_unbinds named (s := heard Form.unbindReaction l tag ps s) taken bound may) (unbind_cascade e b _).links)

theorem unboundBy_served (quiet : Quiet s) :
    Served Form.unbindReaction l tag ps .ok .none s (finish (unboundBy l tag ps e b s)) := by
  have cascade := unbind_cascade e b (heard Form.unbindReaction l tag ps s)
  have answer := unbindOwner_unbinds named (s := heard Form.unbindReaction l tag ps s) taken bound may
  obtain ⟨noReset, noKind⟩ := unboundBy_quiet (l := l) (tag := tag) (ps := ps) (e := e) (b := b) quiet
  obtain ⟨-, served⟩ := served_finish (v := (heard Form.unbindReaction l tag ps s).entryUnbound e b)
    { heard_kept Form.unbindReaction l tag ps s with } rfl rfl rfl rfl cascade sent answer (settle_reset noReset noKind)
  rw [serve_done sent tag answer cascade.links] at served
  exact served

end Unbinds

/-- Settles O54: the parameters that name a binding, part by part; the binding's tests; what unbinding leaves by the
entry's action and by its in-flight mark. -/
theorem reactionsAreBoundAndUnbound : Obligations.ReactionsAreBoundAndUnbound := by
  refine ⟨fun l ps e b => ?_, fun l tag ps s sent => ⟨fun unnamed => ?_, fun e b named =>
    ⟨fun busy => ?_, fun still free => ?_⟩⟩, fun l tag ps s sent quiet => ⟨fun outside => ?_, fun e named =>
    ⟨fun unbound => ?_, fun b taken bound => ⟨fun foreign outside => ?_, fun may => ?_⟩⟩⟩⟩
  · rw [bindingOf_eq_some, entryOf_eq_some, factorOf_eq_some, filterOf_eq_some, actionOf_eq_some]
  · exact congrArg Host.Outcome.next (serve_replied sent tag (bindOwner_badParam unnamed))
  · exact congrArg Host.Outcome.next (serve_replied sent tag
      (bindOwner_busy (s := heard Form.bindReaction l tag ps s) named busy))
  · exact congrArg Host.Outcome.next (serve_done sent tag
      (bindOwner_binds (s := heard Form.bindReaction l tag ps s) named still free) rfl)
  · exact congrArg Host.Outcome.next (serveEvent_done (owner := fun _ => unbindOwner) sent tag
      (unbindOwner_badParam outside) rfl quiet.work)
  · exact congrArg Host.Outcome.next (serveEvent_done (owner := fun _ => unbindOwner) sent tag
      (unbindOwner_refusedState (s := heard Form.unbindReaction l tag ps s) named unbound) rfl quiet.work)
  · exact congrArg Host.Outcome.next (serveEvent_done (owner := fun _ => unbindOwner) sent tag
      (unbindOwner_refusedRole (s := heard Form.unbindReaction l tag ps s) named taken bound foreign outside) rfl quiet.work)
  · refine ⟨_, exec_unbindReaction_unbinds sent named taken bound may, unboundBy_served sent named taken bound may quiet,
      fun idle => finish_unboundBy_frees quiet (.inl idle), fun uncapped => ?_, fun v capped => ?_⟩
    · have plain : b.action.isCap = false := by
        rw [← Bool.not_eq_true, Action.isCap_iff]
        exact fun ⟨v, capped⟩ => uncapped v capped
      rw [unboundBy_plain plain]
      exact finish_clear quiet.work
    · have cap : b.action.isCap = true := Action.isCap_iff.2 ⟨v, capped⟩
      exact ⟨finish_unboundBy_frees quiet (.inr cap), finish_unboundBy_caps quiet cap⟩

end Sys2Proof.Machine
end
